-- ==== Sys2Proof/Word.lean ====
section
/-!
DEFINITION. The plain bit types of the Ruavary Shorum (R3, R98) and their names, and the records that two events carry (R210, R414).
-/
namespace Sys2Proof

/-- A scalar register, a control register, an address: 64 bits (R98). -/
abbrev Word := BitVec 64

/-- The smallest addressable unit (R3). -/
abbrev Byte := BitVec 8

/-- A firmware image as the ROM finds it: its body, the digest and the signature that it carries, the public key it is
signed under, its security version number, the part it names (R414). -/
structure FirmwareImage where
  body      : List Byte
  digest    : List Byte
  signature : List Byte
  key       : List Byte
  svn       : BitVec 32
  part      : Nat
  node      : BitVec 16   -- of the image of the link engine's firmware: the node identifier that it sets (R391)
  deriving DecidableEq, Repr

/-- A snoop of the host: the address, and what the host then writes there to its own memory (R210, R323). -/
structure Snoop where
  addr : Nat
  data : List Byte
  deriving DecidableEq, Repr

end Sys2Proof
end

