-- ==== Sys2Proof/Config.lean ====
section
/-!
DEFINITION. What the spec leaves open: free values without a body, which no proof can see, and the functions that an
implementation or the world outside fixes. A claim that holds of the model holds whatever they are.
-/
namespace Sys2Proof.Config

/-- A free choice of the machine (hit or miss, which cached translation serves an access), by the counter State.free
(assumption 3). -/
opaque freeBool : Nat → Bool

/-- A free 64-bit value, by the counter State.free (assumption 3). -/
opaque freeWord : Nat → BitVec 64

/-- Arithmetic-clock cycles of a core that pass with a step of the machine, by core and step number: the spec leaves the
number open, and it may be 0 (R99, assumption 5). -/
opaque stepCycles : Nat → Nat → Nat

/-- What an access of this device finds in a byte of a peer's memory, by step number and address: the peer writes it too (R364;
assumption 77). -/
opaque peerByte : Nat → Nat → BitVec 8

/-- AES-256-XTS of a 16-byte sector under a 64-byte key at a physical sector number (R216, R419; assumption 8). -/
opaque xtsEncrypt : BitVec 512 → Nat → BitVec 128 → BitVec 128

/-- AES-256-XTS decryption (R216, R419; assumption 8). -/
opaque xtsDecrypt : BitVec 512 → Nat → BitVec 128 → BitVec 128

/-- The fixed-order bit that a stage's launch image records, by the stage's handle (R366, R368). -/
opaque stageFO : BitVec 256 → Bool

/-- The stepping of the part, as dpart shows it (R99). -/
opaque stepping : BitVec 8

/-- The seed fused into the part (R416). -/
opaque fusedSeed : List (BitVec 8)

/-- The SHA3-256 digest of the vendor public key, as fused (R414). -/
opaque vendorKey : List (BitVec 8)

/-- The minimum security version number, as fused (R414). -/
opaque minSvn : BitVec 32

/-- A part number that an image may name on this part (R414). -/
opaque namesPart : Nat → Bool

/-- Whether an ML-DSA-44 signature over a message verifies under a public key (R414; assumption 28). -/
opaque mldsaVerify : List (BitVec 8) → List (BitVec 8) → List (BitVec 8) → Bool

/-- The ML-DSA-44 public key of a seed (R416, R417; assumption 28). -/
opaque mldsaPublic : List (BitVec 8) → List (BitVec 8)

/-- An ML-DSA-44 signature under the key of a seed over a message; signing may draw bits of its own, named by a number
(R418; assumption 28). -/
opaque mldsaSign : List (BitVec 8) → List (BitVec 8) → Nat → List (BitVec 8)

/-- The ML-KEM-768 public key of a seed (R416, R417; assumption 28). -/
opaque mlkemPublic : List (BitVec 8) → List (BitVec 8)

/-- The secret that a seed's key decapsulates from a ciphertext (R419; assumption 28). -/
opaque mlkemShared : List (BitVec 8) → List (BitVec 8) → BitVec 256

/-- AES-256-GCM decryption under a secret with a zero IV of 32 bytes and a tag: none when the tag fails (R419;
assumption 28). -/
opaque gcmOpen : BitVec 256 → List (BitVec 8) → Option (BitVec 256)

end Sys2Proof.Config
end

