-- ==== Sys2Proof/Syntax.lean ====
section
/-!
DEFINITION. The instruction set of the Ruavary Shorum: one constructor per row of spec/opcode_table.json.
A row with an encoding takes its instruction-word fields (hold bits x and y included, so that the word can be
written back); a row without an encoding is a device event and takes the agent or queue it names and, where the
spec lets the outside or a free choice decide, that choice.
-/
namespace Sys2Proof

/-- One row of the table of operations and events (R19 to R37; chapters 3 to 21 for the events). -/
inductive Instr where
  /-- ADD (R109): Scalar add: s[D] := s[A] + s[B] modulo 2^64. -/
  | add (y : BitVec 1) (x : BitVec 1) (b : BitVec 5) (a : BitVec 5) (d : BitVec 5)
  /-- SUB (R109): Scalar subtract: s[D] := s[A] - s[B] modulo 2^64. -/
  | sub (y : BitVec 1) (x : BitVec 1) (b : BitVec 5) (a : BitVec 5) (d : BitVec 5)
  /-- AND (R109): Scalar bitwise and of s[A] and s[B]. -/
  | and (y : BitVec 1) (x : BitVec 1) (b : BitVec 5) (a : BitVec 5) (d : BitVec 5)
  /-- OR (R109): Scalar bitwise or of s[A] and s[B]. -/
  | or (y : BitVec 1) (x : BitVec 1) (b : BitVec 5) (a : BitVec 5) (d : BitVec 5)
  /-- XOR (R109): Scalar bitwise xor of s[A] and s[B]. -/
  | xor (y : BitVec 1) (x : BitVec 1) (b : BitVec 5) (a : BitVec 5) (d : BitVec 5)
  /-- SLL (R109): Scalar shift left of s[A] by s[B][5:0]. -/
  | sll (y : BitVec 1) (x : BitVec 1) (b : BitVec 5) (a : BitVec 5) (d : BitVec 5)
  /-- SRL (R109): Scalar logical shift right of s[A] by s[B][5:0]. -/
  | srl (y : BitVec 1) (x : BitVec 1) (b : BitVec 5) (a : BitVec 5) (d : BitVec 5)
  /-- SRA (R109): Scalar arithmetic shift right of s[A] by s[B][5:0]. -/
  | sra (y : BitVec 1) (x : BitVec 1) (b : BitVec 5) (a : BitVec 5) (d : BitVec 5)
  /-- MUL (R109): Low 64 bits of the product s[A] x s[B]. -/
  | mul (y : BitVec 1) (x : BitVec 1) (b : BitVec 5) (a : BitVec 5) (d : BitVec 5)
  /-- MULH (R109): High 64 bits of the signed 128-bit product. -/
  | mulh (y : BitVec 1) (x : BitVec 1) (b : BitVec 5) (a : BitVec 5) (d : BitVec 5)
  /-- MULHU (R109): High 64 bits of the unsigned 128-bit product. -/
  | mulhu (y : BitVec 1) (x : BitVec 1) (b : BitVec 5) (a : BitVec 5) (d : BitVec 5)
  /-- DIV (R109): Signed quotient truncated towards zero, with defined results for zero and overflow. -/
  | div (y : BitVec 1) (x : BitVec 1) (b : BitVec 5) (a : BitVec 5) (d : BitVec 5)
  /-- DIVU (R109): Unsigned quotient; division by zero gives all ones. -/
  | divu (y : BitVec 1) (x : BitVec 1) (b : BitVec 5) (a : BitVec 5) (d : BitVec 5)
  /-- REM (R109): Signed remainder with the sign of s[A]. -/
  | rem (y : BitVec 1) (x : BitVec 1) (b : BitVec 5) (a : BitVec 5) (d : BitVec 5)
  /-- REMU (R109): Unsigned remainder; division by zero gives s[A]. -/
  | remu (y : BitVec 1) (x : BitVec 1) (b : BitVec 5) (a : BitVec 5) (d : BitVec 5)
  /-- MIN (R109): Signed minimum of s[A] and s[B]. -/
  | min (y : BitVec 1) (x : BitVec 1) (b : BitVec 5) (a : BitVec 5) (d : BitVec 5)
  /-- MAX (R109): Signed maximum of s[A] and s[B]. -/
  | max (y : BitVec 1) (x : BitVec 1) (b : BitVec 5) (a : BitVec 5) (d : BitVec 5)
  /-- MINU (R109): Unsigned minimum of s[A] and s[B]. -/
  | minu (y : BitVec 1) (x : BitVec 1) (b : BitVec 5) (a : BitVec 5) (d : BitVec 5)
  /-- MAXU (R109): Unsigned maximum of s[A] and s[B]. -/
  | maxu (y : BitVec 1) (x : BitVec 1) (b : BitVec 5) (a : BitVec 5) (d : BitVec 5)
  /-- CLZ (R109): Count of leading zero bits of s[A], 64 for zero. -/
  | clz (x : BitVec 1) (a : BitVec 5) (d : BitVec 5)
  /-- CTZ (R109): Count of trailing zero bits of s[A], 64 for zero. -/
  | ctz (x : BitVec 1) (a : BitVec 5) (d : BitVec 5)
  /-- POP (R109): Count of one bits of s[A]. -/
  | pop (x : BitVec 1) (a : BitVec 5) (d : BitVec 5)
  /-- RNG (R109): s[D] := limlor(s[A], s[B]). -/
  | rng (y : BitVec 1) (x : BitVec 1) (b : BitVec 5) (a : BitVec 5) (d : BitVec 5)
  /-- ADDI (R110): s[D] := s[A] + sign-extended immediate. -/
  | addi (i : BitVec 14) (x : BitVec 1) (a : BitVec 5) (d : BitVec 5)
  /-- ANDI (R110): s[D] := s[A] and sign-extended immediate. -/
  | andi (i : BitVec 14) (x : BitVec 1) (a : BitVec 5) (d : BitVec 5)
  /-- ORI (R110): s[D] := s[A] or sign-extended immediate. -/
  | ori (i : BitVec 14) (x : BitVec 1) (a : BitVec 5) (d : BitVec 5)
  /-- XORI (R110): s[D] := s[A] xor sign-extended immediate. -/
  | xori (i : BitVec 14) (x : BitVec 1) (a : BitVec 5) (d : BitVec 5)
  /-- SLLI (R110): Shift s[A] left by an immediate amount. -/
  | slli (s : BitVec 6) (x : BitVec 1) (a : BitVec 5) (d : BitVec 5)
  /-- SRLI (R110): Shift s[A] right logically by an immediate amount. -/
  | srli (s : BitVec 6) (x : BitVec 1) (a : BitVec 5) (d : BitVec 5)
  /-- SRAI (R110): Shift s[A] right arithmetically by an immediate amount. -/
  | srai (s : BitVec 6) (x : BitVec 1) (a : BitVec 5) (d : BitVec 5)
  /-- LUI (R111): s[D] := sign-extended immediate x 2^14. -/
  | lui (i : BitVec 20) (d : BitVec 5)
  /-- ADR (R111): s[D] := own address + sign-extended immediate x 2^14. -/
  | adr (i : BitVec 20) (d : BitVec 5)
  /-- CMP_EQ (R112): Condition bit := s[A] equals s[B]. -/
  | cmpEq (y : BitVec 1) (x : BitVec 1) (b : BitVec 5) (a : BitVec 5) (k : BitVec 3)
  /-- CMP_NE (R112): Condition bit := s[A] differs from s[B]. -/
  | cmpNe (y : BitVec 1) (x : BitVec 1) (b : BitVec 5) (a : BitVec 5) (k : BitVec 3)
  /-- CMP_LT (R112): Condition bit := s[A] < s[B], signed. -/
  | cmpLt (y : BitVec 1) (x : BitVec 1) (b : BitVec 5) (a : BitVec 5) (k : BitVec 3)
  /-- CMP_LTU (R112): Condition bit := s[A] < s[B], unsigned. -/
  | cmpLtu (y : BitVec 1) (x : BitVec 1) (b : BitVec 5) (a : BitVec 5) (k : BitVec 3)
  /-- FEQ_D (R112): Condition bit := f64 equality; NV only for a signalling NaN. -/
  | feqD (y : BitVec 1) (x : BitVec 1) (b : BitVec 5) (a : BitVec 5) (k : BitVec 3)
  /-- FLT_D (R112): Condition bit := f64 less than; NV for any NaN. -/
  | fltD (y : BitVec 1) (x : BitVec 1) (b : BitVec 5) (a : BitVec 5) (k : BitVec 3)
  /-- FLE_D (R112): Condition bit := f64 less or equal; NV for any NaN. -/
  | fleD (y : BitVec 1) (x : BitVec 1) (b : BitVec 5) (a : BitVec 5) (k : BitVec 3)
  /-- FUN_D (R112): Condition bit := either f64 operand is NaN. -/
  | funD (y : BitVec 1) (x : BitVec 1) (b : BitVec 5) (a : BitVec 5) (k : BitVec 3)
  /-- FEQ_S (R112): Condition bit := f32 equality. -/
  | feqS (y : BitVec 1) (x : BitVec 1) (b : BitVec 5) (a : BitVec 5) (k : BitVec 3)
  /-- FLT_S (R112): Condition bit := f32 less than. -/
  | fltS (y : BitVec 1) (x : BitVec 1) (b : BitVec 5) (a : BitVec 5) (k : BitVec 3)
  /-- FLE_S (R112): Condition bit := f32 less or equal. -/
  | fleS (y : BitVec 1) (x : BitVec 1) (b : BitVec 5) (a : BitVec 5) (k : BitVec 3)
  /-- FUN_S (R112): Condition bit := either f32 operand is NaN. -/
  | funS (y : BitVec 1) (x : BitVec 1) (b : BitVec 5) (a : BitVec 5) (k : BitVec 3)
  /-- CMPI_EQ (R112): Condition bit := s[A] equals the immediate. -/
  | cmpiEq (i : BitVec 14) (x : BitVec 1) (a : BitVec 5) (k : BitVec 3)
  /-- CMPI_NE (R112): Condition bit := s[A] differs from the immediate. -/
  | cmpiNe (i : BitVec 14) (x : BitVec 1) (a : BitVec 5) (k : BitVec 3)
  /-- CMPI_LT (R112): Condition bit := s[A] < immediate, signed. -/
  | cmpiLt (i : BitVec 14) (x : BitVec 1) (a : BitVec 5) (k : BitVec 3)
  /-- CMPI_LTU (R112): Condition bit := s[A] < immediate, unsigned. -/
  | cmpiLtu (i : BitVec 14) (x : BitVec 1) (a : BitVec 5) (k : BitVec 3)
  /-- KAND (R113): k[D] := k[A] and k[B]. -/
  | kand (y : BitVec 1) (x : BitVec 1) (b : BitVec 3) (a : BitVec 3) (d : BitVec 3)
  /-- KOR (R113): k[D] := k[A] or k[B]. -/
  | kor (y : BitVec 1) (x : BitVec 1) (b : BitVec 3) (a : BitVec 3) (d : BitVec 3)
  /-- KXOR (R113): k[D] := k[A] xor k[B]. -/
  | kxor (y : BitVec 1) (x : BitVec 1) (b : BitVec 3) (a : BitVec 3) (d : BitVec 3)
  /-- KSET (R113): k[D] := (s[A] != 0). -/
  | kset (x : BitVec 1) (a : BitVec 5) (d : BitVec 3)
  /-- KGET (R113): s[D] := k[A], zero-extended. -/
  | kget (x : BitVec 1) (a : BitVec 3) (d : BitVec 5)
  /-- FADD_D (R114): f64 add rounded by frm, flags to fst. -/
  | faddD (y : BitVec 1) (x : BitVec 1) (b : BitVec 5) (a : BitVec 5) (d : BitVec 5)
  /-- FSUB_D (R114): f64 subtract. -/
  | fsubD (y : BitVec 1) (x : BitVec 1) (b : BitVec 5) (a : BitVec 5) (d : BitVec 5)
  /-- FMUL_D (R114): f64 multiply. -/
  | fmulD (y : BitVec 1) (x : BitVec 1) (b : BitVec 5) (a : BitVec 5) (d : BitVec 5)
  /-- FDIV_D (R114): f64 divide. -/
  | fdivD (y : BitVec 1) (x : BitVec 1) (b : BitVec 5) (a : BitVec 5) (d : BitVec 5)
  /-- FSQRT_D (R114): f64 square root. -/
  | fsqrtD (x : BitVec 1) (a : BitVec 5) (d : BitVec 5)
  /-- FMIN_D (R114): f64 minimum with -0 < +0 and NaN rules. -/
  | fminD (y : BitVec 1) (x : BitVec 1) (b : BitVec 5) (a : BitVec 5) (d : BitVec 5)
  /-- FMAX_D (R114): f64 maximum. -/
  | fmaxD (y : BitVec 1) (x : BitVec 1) (b : BitVec 5) (a : BitVec 5) (d : BitVec 5)
  /-- FADD_S (R114): f32 add. -/
  | faddS (y : BitVec 1) (x : BitVec 1) (b : BitVec 5) (a : BitVec 5) (d : BitVec 5)
  /-- FSUB_S (R114): f32 subtract. -/
  | fsubS (y : BitVec 1) (x : BitVec 1) (b : BitVec 5) (a : BitVec 5) (d : BitVec 5)
  /-- FMUL_S (R114): f32 multiply. -/
  | fmulS (y : BitVec 1) (x : BitVec 1) (b : BitVec 5) (a : BitVec 5) (d : BitVec 5)
  /-- FDIV_S (R114): f32 divide. -/
  | fdivS (y : BitVec 1) (x : BitVec 1) (b : BitVec 5) (a : BitVec 5) (d : BitVec 5)
  /-- FSQRT_S (R114): f32 square root. -/
  | fsqrtS (x : BitVec 1) (a : BitVec 5) (d : BitVec 5)
  /-- FMIN_S (R114): f32 minimum. -/
  | fminS (y : BitVec 1) (x : BitVec 1) (b : BitVec 5) (a : BitVec 5) (d : BitVec 5)
  /-- FMAX_S (R114): f32 maximum. -/
  | fmaxS (y : BitVec 1) (x : BitVec 1) (b : BitVec 5) (a : BitVec 5) (d : BitVec 5)
  /-- CVT_D_L (R114): Signed i64 to f64, rounded. -/
  | cvtDL (x : BitVec 1) (a : BitVec 5) (d : BitVec 5)
  /-- CVT_L_D (R114): f64 to signed i64, rounded, with saturating edge cases. -/
  | cvtLD (x : BitVec 1) (a : BitVec 5) (d : BitVec 5)
  /-- CVT_S_L (R114): Signed i64 to f32, rounded. -/
  | cvtSL (x : BitVec 1) (a : BitVec 5) (d : BitVec 5)
  /-- CVT_L_S (R114): f32 to signed i64, rounded. -/
  | cvtLS (x : BitVec 1) (a : BitVec 5) (d : BitVec 5)
  /-- CVT_D_S (R114): f32 to f64, exact. -/
  | cvtDS (x : BitVec 1) (a : BitVec 5) (d : BitVec 5)
  /-- CVT_S_D (R114): f64 to f32, rounded. -/
  | cvtSD (x : BitVec 1) (a : BitVec 5) (d : BitVec 5)
  /-- FMADD_D (R116): Fused f64 a x b + c, rounded once. -/
  | fmaddD (c : BitVec 5) (b : BitVec 5) (a : BitVec 5) (d : BitVec 5)
  /-- FMSUB_D (R116): Fused f64 a x b - c, rounded once. -/
  | fmsubD (c : BitVec 5) (b : BitVec 5) (a : BitVec 5) (d : BitVec 5)
  /-- FMADD_S (R116): Fused f32 a x b + c, rounded once. -/
  | fmaddS (c : BitVec 5) (b : BitVec 5) (a : BitVec 5) (d : BitVec 5)
  /-- FMSUB_S (R116): Fused f32 a x b - c, rounded once. -/
  | fmsubS (c : BitVec 5) (b : BitVec 5) (a : BitVec 5) (d : BitVec 5)
  /-- B_K (R117): Branch when condition bit k[K] is 1; predicted while K is empty. -/
  | bK (o : BitVec 20) (p : BitVec 1) (k : BitVec 3)
  /-- B_NK (R117): Branch when condition bit k[K] is 0; predicted while K is empty. -/
  | bNk (o : BitVec 20) (p : BitVec 1) (k : BitVec 3)
  /-- BRANCH_CONFIRM (R105): A predicted branch is confirmed in the cycle after its condition bit becomes full. -/
  | branchConfirm (h : Nat)
  /-- JAL (R118): Jump by a word offset and write the return address to s[D]. -/
  | jal (i : BitVec 20) (d : BitVec 5)
  /-- JALR (R118): Jump to s[A] + offset, trapping 0x04 when misaligned, and link. -/
  | jalr (i : BitVec 14) (x : BitVec 1) (a : BitVec 5) (d : BitVec 5)
  /-- LD_B (R119): Load a sign-extended byte on stream S. -/
  | ldB (i : BitVec 10) (s : BitVec 2) (x : BitVec 1) (a : BitVec 5) (d : BitVec 5)
  /-- LD_BU (R119): Load a zero-extended byte. -/
  | ldBu (i : BitVec 10) (s : BitVec 2) (x : BitVec 1) (a : BitVec 5) (d : BitVec 5)
  /-- LD_H (R119): Load a sign-extended halfword. -/
  | ldH (i : BitVec 10) (s : BitVec 2) (x : BitVec 1) (a : BitVec 5) (d : BitVec 5)
  /-- LD_HU (R119): Load a zero-extended halfword. -/
  | ldHu (i : BitVec 10) (s : BitVec 2) (x : BitVec 1) (a : BitVec 5) (d : BitVec 5)
  /-- LD_W (R119): Load a sign-extended word. -/
  | ldW (i : BitVec 10) (s : BitVec 2) (x : BitVec 1) (a : BitVec 5) (d : BitVec 5)
  /-- LD_WU (R119): Load a zero-extended word. -/
  | ldWu (i : BitVec 10) (s : BitVec 2) (x : BitVec 1) (a : BitVec 5) (d : BitVec 5)
  /-- LD_D (R119): Load a doubleword. -/
  | ldD (i : BitVec 10) (s : BitVec 2) (x : BitVec 1) (a : BitVec 5) (d : BitVec 5)
  /-- LOAD_DATA_RETURN (R101): Data of a missing or window load returns and fills its empty destination, or traps 0x0E on poison. -/
  | loadDataReturn (h : Nat) (n : Nat)
  /-- ST_B (R121): Store the low byte of s[D] on stream S. -/
  | stB (i : BitVec 10) (s : BitVec 2) (x : BitVec 1) (a : BitVec 5) (d : BitVec 5)
  /-- ST_H (R121): Store a halfword. -/
  | stH (i : BitVec 10) (s : BitVec 2) (x : BitVec 1) (a : BitVec 5) (d : BitVec 5)
  /-- ST_W (R121): Store a word. -/
  | stW (i : BitVec 10) (s : BitVec 2) (x : BitVec 1) (a : BitVec 5) (d : BitVec 5)
  /-- ST_D (R121): Store a doubleword. -/
  | stD (i : BitVec 10) (s : BitVec 2) (x : BitVec 1) (a : BitVec 5) (d : BitVec 5)
  /-- AMO_ADD_W (R123): Atomic 32-bit add at the home, returning the old value. -/
  | amoAddW (c : BitVec 3) (y : BitVec 1) (x : BitVec 1) (b : BitVec 5) (a : BitVec 5) (d : BitVec 5)
  /-- AMO_ADD_D (R123): Atomic 64-bit add. -/
  | amoAddD (c : BitVec 3) (y : BitVec 1) (x : BitVec 1) (b : BitVec 5) (a : BitVec 5) (d : BitVec 5)
  /-- AMO_MIN_D (R123): Atomic signed minimum. -/
  | amoMinD (c : BitVec 3) (y : BitVec 1) (x : BitVec 1) (b : BitVec 5) (a : BitVec 5) (d : BitVec 5)
  /-- AMO_MAX_D (R123): Atomic signed maximum. -/
  | amoMaxD (c : BitVec 3) (y : BitVec 1) (x : BitVec 1) (b : BitVec 5) (a : BitVec 5) (d : BitVec 5)
  /-- AMO_MINU_D (R123): Atomic unsigned minimum. -/
  | amoMinuD (c : BitVec 3) (y : BitVec 1) (x : BitVec 1) (b : BitVec 5) (a : BitVec 5) (d : BitVec 5)
  /-- AMO_MAXU_D (R123): Atomic unsigned maximum. -/
  | amoMaxuD (c : BitVec 3) (y : BitVec 1) (x : BitVec 1) (b : BitVec 5) (a : BitVec 5) (d : BitVec 5)
  /-- AMO_SWAP_D (R123): Atomic swap. -/
  | amoSwapD (c : BitVec 3) (y : BitVec 1) (x : BitVec 1) (b : BitVec 5) (a : BitVec 5) (d : BitVec 5)
  /-- AMO_CAS_D (R123): Atomic compare-and-swap against s[D]. -/
  | amoCasD (c : BitVec 3) (y : BitVec 1) (x : BitVec 1) (b : BitVec 5) (a : BitVec 5) (d : BitVec 5)
  /-- AMO_FADD_S (R125): Atomic f32 add rounded to nearest even, no flags. -/
  | amoFaddS (c : BitVec 3) (y : BitVec 1) (x : BitVec 1) (b : BitVec 5) (a : BitVec 5) (d : BitVec 5)
  /-- AMO_FADD_D (R125): Atomic f64 add rounded to nearest even, no flags. -/
  | amoFaddD (c : BitVec 3) (y : BitVec 1) (x : BitVec 1) (b : BitVec 5) (a : BitVec 5) (d : BitVec 5)
  /-- AMO_RETURN (R123): The old value of an amo returns and fills its empty destination, or traps 0x0E on poison. -/
  | amoReturn (h : Nat) (n : Nat)
  /-- SBAR (R225): Hold back younger accesses of the named streams until older ones are performed at the scope. -/
  | sbar (c : BitVec 3) (m : BitVec 16)
  /-- FENCE (R226): sbar with all 16 streams named. -/
  | fence (c : BitVec 3)
  /-- GSYNC (R328): Arrive at a group and wait for the generation to complete. -/
  | gsync (c : BitVec 3) (g : BitVec 8)
  /-- GARRIVE (R328): Arrive at a group without waiting. -/
  | garrive (c : BitVec 3) (g : BitVec 8)
  /-- GWAIT (R328): Wait for the generation of the hart's latest arrival. -/
  | gwait (c : BitVec 3) (g : BitVec 8)
  /-- GROUP_ARRIVAL_SEND (R328): A pending arrival is sent once its older accesses are performed at its scope. -/
  | groupArrivalSend (h : Nat) (m : Nat)
  /-- CRD (R126): Read a control register into s[D], trapping on unassigned numbers or privilege. -/
  | crd (n : BitVec 12) (d : BitVec 5)
  /-- CWR (R126): Write s[A] to a control register and return its old value, as one. -/
  | cwr (n : BitVec 12) (x : BitVec 1) (a : BitVec 5) (d : BitVec 5)
  /-- TRAP (R127): Trap with cause 0x0C and the code in tval. -/
  | trap (c : BitVec 20)
  /-- TRET (R339): Return from a trap, restoring privilege, full/empty state and the frozen vector set. -/
  | tret
  /-- HALT (R127): Wait for retirement conditions and retire the hart. -/
  | halt
  /-- IDLE (R127): Wait until cyc reaches swake or a pre-emption request arrives. -/
  | idle
  /-- BRK (R127): Trap with cause 0x0D at the instruction. -/
  | brk
  /-- YIELD (R127): Take a pending pre-emption here, otherwise do nothing. -/
  | yield
  /-- IDLE_WAKE (R127): cyc reaches swake and an idle hart continues. -/
  | idleWake (h : Nat)
  /-- HART_RETIRE (R93): A halted hart retires once its queue has drained and its copies and tasks have completed. -/
  | hartRetire (h : Nat)
  /-- L1INV (R128): Drop the line of s[A] from the hart's L1. -/
  | l1inv (x : BitVec 1) (a : BitVec 5)
  /-- L2WB (R128): Write a dirty home L2 line back to memory, keeping it valid. -/
  | l2wb (x : BitVec 1) (a : BitVec 5)
  /-- TLBINV (R128): Start invalidating cached translations of a page in a context, device-wide. -/
  | tlbinv (x : BitVec 1) (a : BitVec 5)
  /-- TLBSYNC (R128): Wait until older tlbinvs and accesses using removed translations are done. -/
  | tlbsync
  /-- SETLEN (R166): Queued grant of the row length, optionally chained on a high-water record. -/
  | setlen (y : BitVec 1) (x : BitVec 1) (b : BitVec 5) (a : BitVec 5) (d : BitVec 5)
  /-- SETROWS (R167): Queued grant of the tile row count. -/
  | setrows (x : BitVec 1) (a : BitVec 5) (d : BitVec 5)
  /-- SETFMT (R168): Queued set of fmt from s[A], with ILL and re-grant. -/
  | setfmt (x : BitVec 1) (a : BitVec 5) (d : BitVec 5)
  /-- VDRAIN (R169): Queue barrier performed once older entries have completed and their accesses are performed at core scope. -/
  | vdrain
  /-- VSTAT (R169): Queued snapshot of vst into s[D]. -/
  | vstat (d : BitVec 5)
  /-- HWPUB (R170): Queued release of a high-water index into a chain record. -/
  | hwpub (y : BitVec 1) (x : BitVec 1) (b : BitVec 5) (a : BitVec 5)
  /-- SETFMTI (R168): Queued set of fmt from an immediate. -/
  | setfmti (i : BitVec 13) (d : BitVec 5)
  /-- VBLK (R164): Enqueue a vector block with a snapshot of s8-s15, scanning its reduction destinations. -/
  | vblk (i : BitVec 20)
  /-- BLOCK_INSTANCE_BEGIN (R153): The queue performs a vblk and a block instance begins at its address. -/
  | blockInstanceBegin (h : Nat)
  /-- VBIND (R237): Queued binding of registers to a patterned stream or a copy channel. -/
  | vbind (x : BitVec 1) (k : BitVec 3) (a : BitVec 5) (d : BitVec 5)
  /-- VUNBIND (R237): Queued end of the binding based at D. -/
  | vunbind (d : BitVec 5)
  /-- QPAT (R236): Queued load of a stream pattern record into a vector-side stream. -/
  | qpat (x : BitVec 1) (a : BitVec 5) (q : BitVec 4)
  /-- QSTAT (R241): Queued read of a stream's state. -/
  | qstat (q : BitVec 4) (d : BitVec 5)
  /-- STREAM_CHUNK_ARRIVE (R238): A read stream's run-ahead fills the next chunk of a bound range, making it ready. -/
  | streamChunkArrive (h : Nat) (q : Nat)
  /-- VINT_ADD (R180): Vector integer add. -/
  | vintAdd (y : BitVec 1) (x : BitVec 1) (m : BitVec 3) (b : BitVec 5) (a : BitVec 5) (d : BitVec 5)
  /-- VINT_SUB (R180): Vector integer subtract. -/
  | vintSub (y : BitVec 1) (x : BitVec 1) (m : BitVec 3) (b : BitVec 5) (a : BitVec 5) (d : BitVec 5)
  /-- VINT_MUL (R180): Vector low-half multiply. -/
  | vintMul (y : BitVec 1) (x : BitVec 1) (m : BitVec 3) (b : BitVec 5) (a : BitVec 5) (d : BitVec 5)
  /-- VINT_MULH (R180): Vector signed high-half multiply. -/
  | vintMulh (y : BitVec 1) (x : BitVec 1) (m : BitVec 3) (b : BitVec 5) (a : BitVec 5) (d : BitVec 5)
  /-- VINT_MULHU (R180): Vector unsigned high-half multiply. -/
  | vintMulhu (y : BitVec 1) (x : BitVec 1) (m : BitVec 3) (b : BitVec 5) (a : BitVec 5) (d : BitVec 5)
  /-- VINT_MIN (R180): Vector signed minimum. -/
  | vintMin (y : BitVec 1) (x : BitVec 1) (m : BitVec 3) (b : BitVec 5) (a : BitVec 5) (d : BitVec 5)
  /-- VINT_MAX (R180): Vector signed maximum. -/
  | vintMax (y : BitVec 1) (x : BitVec 1) (m : BitVec 3) (b : BitVec 5) (a : BitVec 5) (d : BitVec 5)
  /-- VINT_MINU (R180): Vector unsigned minimum. -/
  | vintMinu (y : BitVec 1) (x : BitVec 1) (m : BitVec 3) (b : BitVec 5) (a : BitVec 5) (d : BitVec 5)
  /-- VINT_MAXU (R180): Vector unsigned maximum. -/
  | vintMaxu (y : BitVec 1) (x : BitVec 1) (m : BitVec 3) (b : BitVec 5) (a : BitVec 5) (d : BitVec 5)
  /-- VINT_AND (R180): Vector bitwise and. -/
  | vintAnd (y : BitVec 1) (x : BitVec 1) (m : BitVec 3) (b : BitVec 5) (a : BitVec 5) (d : BitVec 5)
  /-- VINT_OR (R180): Vector bitwise or. -/
  | vintOr (y : BitVec 1) (x : BitVec 1) (m : BitVec 3) (b : BitVec 5) (a : BitVec 5) (d : BitVec 5)
  /-- VINT_XOR (R180): Vector bitwise xor. -/
  | vintXor (y : BitVec 1) (x : BitVec 1) (m : BitVec 3) (b : BitVec 5) (a : BitVec 5) (d : BitVec 5)
  /-- VINT_SLL (R180): Vector shift left. -/
  | vintSll (y : BitVec 1) (x : BitVec 1) (m : BitVec 3) (b : BitVec 5) (a : BitVec 5) (d : BitVec 5)
  /-- VINT_SRL (R180): Vector logical shift right. -/
  | vintSrl (y : BitVec 1) (x : BitVec 1) (m : BitVec 3) (b : BitVec 5) (a : BitVec 5) (d : BitVec 5)
  /-- VINT_SRA (R180): Vector arithmetic shift right. -/
  | vintSra (y : BitVec 1) (x : BitVec 1) (m : BitVec 3) (b : BitVec 5) (a : BitVec 5) (d : BitVec 5)
  /-- VINT_ADDS (R180): Vector signed saturating add. -/
  | vintAdds (y : BitVec 1) (x : BitVec 1) (m : BitVec 3) (b : BitVec 5) (a : BitVec 5) (d : BitVec 5)
  /-- VINT_SUBS (R180): Vector signed saturating subtract. -/
  | vintSubs (y : BitVec 1) (x : BitVec 1) (m : BitVec 3) (b : BitVec 5) (a : BitVec 5) (d : BitVec 5)
  /-- VINT_ADDSU (R180): Vector unsigned saturating add. -/
  | vintAddsu (y : BitVec 1) (x : BitVec 1) (m : BitVec 3) (b : BitVec 5) (a : BitVec 5) (d : BitVec 5)
  /-- VINT_SUBSU (R180): Vector unsigned saturating subtract. -/
  | vintSubsu (y : BitVec 1) (x : BitVec 1) (m : BitVec 3) (b : BitVec 5) (a : BitVec 5) (d : BitVec 5)
  /-- VINT_MOV (R180): Vector move of the B register. -/
  | vintMov (y : BitVec 1) (m : BitVec 3) (b : BitVec 5) (d : BitVec 5)
  /-- VINT_G_ADD (R180): Vector add of a g-register scalar. -/
  | vintGAdd (y : BitVec 1) (x : BitVec 1) (m : BitVec 3) (b : BitVec 3) (a : BitVec 5) (d : BitVec 5)
  /-- VINT_G_SUB (R180): Vector subtract of a g scalar. -/
  | vintGSub (y : BitVec 1) (x : BitVec 1) (m : BitVec 3) (b : BitVec 3) (a : BitVec 5) (d : BitVec 5)
  /-- VINT_G_MUL (R180): Vector multiply by a g scalar. -/
  | vintGMul (y : BitVec 1) (x : BitVec 1) (m : BitVec 3) (b : BitVec 3) (a : BitVec 5) (d : BitVec 5)
  /-- VINT_G_MULH (R180): Vector signed high multiply by a g scalar. -/
  | vintGMulh (y : BitVec 1) (x : BitVec 1) (m : BitVec 3) (b : BitVec 3) (a : BitVec 5) (d : BitVec 5)
  /-- VINT_G_MULHU (R180): Vector unsigned high multiply by a g scalar. -/
  | vintGMulhu (y : BitVec 1) (x : BitVec 1) (m : BitVec 3) (b : BitVec 3) (a : BitVec 5) (d : BitVec 5)
  /-- VINT_G_MIN (R180): Vector signed minimum with a g scalar. -/
  | vintGMin (y : BitVec 1) (x : BitVec 1) (m : BitVec 3) (b : BitVec 3) (a : BitVec 5) (d : BitVec 5)
  /-- VINT_G_MAX (R180): Vector signed maximum with a g scalar. -/
  | vintGMax (y : BitVec 1) (x : BitVec 1) (m : BitVec 3) (b : BitVec 3) (a : BitVec 5) (d : BitVec 5)
  /-- VINT_G_MINU (R180): Vector unsigned minimum with a g scalar. -/
  | vintGMinu (y : BitVec 1) (x : BitVec 1) (m : BitVec 3) (b : BitVec 3) (a : BitVec 5) (d : BitVec 5)
  /-- VINT_G_MAXU (R180): Vector unsigned maximum with a g scalar. -/
  | vintGMaxu (y : BitVec 1) (x : BitVec 1) (m : BitVec 3) (b : BitVec 3) (a : BitVec 5) (d : BitVec 5)
  /-- VINT_G_AND (R180): Vector and with a g scalar. -/
  | vintGAnd (y : BitVec 1) (x : BitVec 1) (m : BitVec 3) (b : BitVec 3) (a : BitVec 5) (d : BitVec 5)
  /-- VINT_G_OR (R180): Vector or with a g scalar. -/
  | vintGOr (y : BitVec 1) (x : BitVec 1) (m : BitVec 3) (b : BitVec 3) (a : BitVec 5) (d : BitVec 5)
  /-- VINT_G_XOR (R180): Vector xor with a g scalar. -/
  | vintGXor (y : BitVec 1) (x : BitVec 1) (m : BitVec 3) (b : BitVec 3) (a : BitVec 5) (d : BitVec 5)
  /-- VINT_G_SLL (R180): Vector shift left by a g scalar. -/
  | vintGSll (y : BitVec 1) (x : BitVec 1) (m : BitVec 3) (b : BitVec 3) (a : BitVec 5) (d : BitVec 5)
  /-- VINT_G_SRL (R180): Vector logical shift right by a g scalar. -/
  | vintGSrl (y : BitVec 1) (x : BitVec 1) (m : BitVec 3) (b : BitVec 3) (a : BitVec 5) (d : BitVec 5)
  /-- VINT_G_SRA (R180): Vector arithmetic shift right by a g scalar. -/
  | vintGSra (y : BitVec 1) (x : BitVec 1) (m : BitVec 3) (b : BitVec 3) (a : BitVec 5) (d : BitVec 5)
  /-- VINT_G_ADDS (R180): Vector signed saturating add of a g scalar. -/
  | vintGAdds (y : BitVec 1) (x : BitVec 1) (m : BitVec 3) (b : BitVec 3) (a : BitVec 5) (d : BitVec 5)
  /-- VINT_G_SUBS (R180): Vector signed saturating subtract of a g scalar. -/
  | vintGSubs (y : BitVec 1) (x : BitVec 1) (m : BitVec 3) (b : BitVec 3) (a : BitVec 5) (d : BitVec 5)
  /-- VINT_G_ADDSU (R180): Vector unsigned saturating add of a g scalar. -/
  | vintGAddsu (y : BitVec 1) (x : BitVec 1) (m : BitVec 3) (b : BitVec 3) (a : BitVec 5) (d : BitVec 5)
  /-- VINT_G_SUBSU (R180): Vector unsigned saturating subtract of a g scalar. -/
  | vintGSubsu (y : BitVec 1) (x : BitVec 1) (m : BitVec 3) (b : BitVec 3) (a : BitVec 5) (d : BitVec 5)
  /-- VINT_G_MOV (R180): Broadcast a g scalar into the tile. -/
  | vintGMov (y : BitVec 1) (m : BitVec 3) (b : BitVec 3) (d : BitVec 5)
  /-- VINT_I_ADD (R180): Vector add of a 5-bit immediate. -/
  | vintIAdd (y : BitVec 1) (x : BitVec 1) (m : BitVec 3) (i : BitVec 5) (a : BitVec 5) (d : BitVec 5)
  /-- VINT_I_SUB (R180): Vector subtract of an immediate. -/
  | vintISub (y : BitVec 1) (x : BitVec 1) (m : BitVec 3) (i : BitVec 5) (a : BitVec 5) (d : BitVec 5)
  /-- VINT_I_MUL (R180): Vector multiply by an immediate. -/
  | vintIMul (y : BitVec 1) (x : BitVec 1) (m : BitVec 3) (i : BitVec 5) (a : BitVec 5) (d : BitVec 5)
  /-- VINT_I_MULH (R180): Vector signed high multiply by an immediate. -/
  | vintIMulh (y : BitVec 1) (x : BitVec 1) (m : BitVec 3) (i : BitVec 5) (a : BitVec 5) (d : BitVec 5)
  /-- VINT_I_MULHU (R180): Vector unsigned high multiply by an immediate. -/
  | vintIMulhu (y : BitVec 1) (x : BitVec 1) (m : BitVec 3) (i : BitVec 5) (a : BitVec 5) (d : BitVec 5)
  /-- VINT_I_MIN (R180): Vector signed minimum with an immediate. -/
  | vintIMin (y : BitVec 1) (x : BitVec 1) (m : BitVec 3) (i : BitVec 5) (a : BitVec 5) (d : BitVec 5)
  /-- VINT_I_MAX (R180): Vector signed maximum with an immediate. -/
  | vintIMax (y : BitVec 1) (x : BitVec 1) (m : BitVec 3) (i : BitVec 5) (a : BitVec 5) (d : BitVec 5)
  /-- VINT_I_MINU (R180): Vector unsigned minimum with an immediate. -/
  | vintIMinu (y : BitVec 1) (x : BitVec 1) (m : BitVec 3) (i : BitVec 5) (a : BitVec 5) (d : BitVec 5)
  /-- VINT_I_MAXU (R180): Vector unsigned maximum with an immediate. -/
  | vintIMaxu (y : BitVec 1) (x : BitVec 1) (m : BitVec 3) (i : BitVec 5) (a : BitVec 5) (d : BitVec 5)
  /-- VINT_I_AND (R180): Vector and with an immediate. -/
  | vintIAnd (y : BitVec 1) (x : BitVec 1) (m : BitVec 3) (i : BitVec 5) (a : BitVec 5) (d : BitVec 5)
  /-- VINT_I_OR (R180): Vector or with an immediate. -/
  | vintIOr (y : BitVec 1) (x : BitVec 1) (m : BitVec 3) (i : BitVec 5) (a : BitVec 5) (d : BitVec 5)
  /-- VINT_I_XOR (R180): Vector xor with an immediate. -/
  | vintIXor (y : BitVec 1) (x : BitVec 1) (m : BitVec 3) (i : BitVec 5) (a : BitVec 5) (d : BitVec 5)
  /-- VINT_I_SLL (R180): Vector shift left by an immediate. -/
  | vintISll (y : BitVec 1) (x : BitVec 1) (m : BitVec 3) (i : BitVec 5) (a : BitVec 5) (d : BitVec 5)
  /-- VINT_I_SRL (R180): Vector logical shift right by an immediate. -/
  | vintISrl (y : BitVec 1) (x : BitVec 1) (m : BitVec 3) (i : BitVec 5) (a : BitVec 5) (d : BitVec 5)
  /-- VINT_I_SRA (R180): Vector arithmetic shift right by an immediate. -/
  | vintISra (y : BitVec 1) (x : BitVec 1) (m : BitVec 3) (i : BitVec 5) (a : BitVec 5) (d : BitVec 5)
  /-- VINT_I_ADDS (R180): Vector signed saturating add of an immediate. -/
  | vintIAdds (y : BitVec 1) (x : BitVec 1) (m : BitVec 3) (i : BitVec 5) (a : BitVec 5) (d : BitVec 5)
  /-- VINT_I_SUBS (R180): Vector signed saturating subtract of an immediate. -/
  | vintISubs (y : BitVec 1) (x : BitVec 1) (m : BitVec 3) (i : BitVec 5) (a : BitVec 5) (d : BitVec 5)
  /-- VINT_I_ADDSU (R180): Vector unsigned saturating add of an immediate. -/
  | vintIAddsu (y : BitVec 1) (x : BitVec 1) (m : BitVec 3) (i : BitVec 5) (a : BitVec 5) (d : BitVec 5)
  /-- VINT_I_SUBSU (R180): Vector unsigned saturating subtract of an immediate. -/
  | vintISubsu (y : BitVec 1) (x : BitVec 1) (m : BitVec 3) (i : BitVec 5) (a : BitVec 5) (d : BitVec 5)
  /-- VINT_I_MOV (R180): Broadcast an immediate into the tile. -/
  | vintIMov (y : BitVec 1) (m : BitVec 3) (i : BitVec 5) (d : BitVec 5)
  /-- VFP_FADD (R181): Vector floating-point add. -/
  | vfpFadd (y : BitVec 1) (x : BitVec 1) (m : BitVec 3) (b : BitVec 5) (a : BitVec 5) (d : BitVec 5)
  /-- VFP_FSUB (R181): Vector floating-point subtract. -/
  | vfpFsub (y : BitVec 1) (x : BitVec 1) (m : BitVec 3) (b : BitVec 5) (a : BitVec 5) (d : BitVec 5)
  /-- VFP_FMUL (R181): Vector floating-point multiply. -/
  | vfpFmul (y : BitVec 1) (x : BitVec 1) (m : BitVec 3) (b : BitVec 5) (a : BitVec 5) (d : BitVec 5)
  /-- VFP_FDIV (R181): Vector floating-point divide. -/
  | vfpFdiv (y : BitVec 1) (x : BitVec 1) (m : BitVec 3) (b : BitVec 5) (a : BitVec 5) (d : BitVec 5)
  /-- VFP_FSQRT (R181): Vector floating-point square root. -/
  | vfpFsqrt (x : BitVec 1) (m : BitVec 3) (a : BitVec 5) (d : BitVec 5)
  /-- VFP_FMIN (R181): Vector floating-point minimum. -/
  | vfpFmin (y : BitVec 1) (x : BitVec 1) (m : BitVec 3) (b : BitVec 5) (a : BitVec 5) (d : BitVec 5)
  /-- VFP_FMAX (R181): Vector floating-point maximum. -/
  | vfpFmax (y : BitVec 1) (x : BitVec 1) (m : BitVec 3) (b : BitVec 5) (a : BitVec 5) (d : BitVec 5)
  /-- VFP_FABS (R181): Clear the sign bit. -/
  | vfpFabs (x : BitVec 1) (m : BitVec 3) (a : BitVec 5) (d : BitVec 5)
  /-- VFP_FNEG (R181): Invert the sign bit. -/
  | vfpFneg (x : BitVec 1) (m : BitVec 3) (a : BitVec 5) (d : BitVec 5)
  /-- VFP_FSGN (R181): Replace the sign bit with that of B. -/
  | vfpFsgn (y : BitVec 1) (x : BitVec 1) (m : BitVec 3) (b : BitVec 5) (a : BitVec 5) (d : BitVec 5)
  /-- VFP_FRCP (R182): Truncated reciprocal approximation. -/
  | vfpFrcp (x : BitVec 1) (m : BitVec 3) (a : BitVec 5) (d : BitVec 5)
  /-- VFP_FRSQ (R182): Truncated reciprocal square root approximation. -/
  | vfpFrsq (x : BitVec 1) (m : BitVec 3) (a : BitVec 5) (d : BitVec 5)
  /-- VFP_FEXP2 (R182): Truncated 2^a approximation. -/
  | vfpFexp2 (x : BitVec 1) (m : BitVec 3) (a : BitVec 5) (d : BitVec 5)
  /-- VFP_G_FADD (R181): Vector add of a g scalar. -/
  | vfpGFadd (y : BitVec 1) (x : BitVec 1) (m : BitVec 3) (b : BitVec 3) (a : BitVec 5) (d : BitVec 5)
  /-- VFP_G_FSUB (R181): Vector subtract of a g scalar. -/
  | vfpGFsub (y : BitVec 1) (x : BitVec 1) (m : BitVec 3) (b : BitVec 3) (a : BitVec 5) (d : BitVec 5)
  /-- VFP_G_FMUL (R181): Vector multiply by a g scalar. -/
  | vfpGFmul (y : BitVec 1) (x : BitVec 1) (m : BitVec 3) (b : BitVec 3) (a : BitVec 5) (d : BitVec 5)
  /-- VFP_G_FDIV (R181): Vector divide by a g scalar. -/
  | vfpGFdiv (y : BitVec 1) (x : BitVec 1) (m : BitVec 3) (b : BitVec 3) (a : BitVec 5) (d : BitVec 5)
  /-- VFP_G_FSQRT (R181): Vector square root in the .g form. -/
  | vfpGFsqrt (x : BitVec 1) (m : BitVec 3) (a : BitVec 5) (d : BitVec 5)
  /-- VFP_G_FMIN (R181): Vector minimum with a g scalar. -/
  | vfpGFmin (y : BitVec 1) (x : BitVec 1) (m : BitVec 3) (b : BitVec 3) (a : BitVec 5) (d : BitVec 5)
  /-- VFP_G_FMAX (R181): Vector maximum with a g scalar. -/
  | vfpGFmax (y : BitVec 1) (x : BitVec 1) (m : BitVec 3) (b : BitVec 3) (a : BitVec 5) (d : BitVec 5)
  /-- VFP_G_FABS (R181): fabs in the .g form. -/
  | vfpGFabs (x : BitVec 1) (m : BitVec 3) (a : BitVec 5) (d : BitVec 5)
  /-- VFP_G_FNEG (R181): fneg in the .g form. -/
  | vfpGFneg (x : BitVec 1) (m : BitVec 3) (a : BitVec 5) (d : BitVec 5)
  /-- VFP_G_FSGN (R181): Sign taken from a g scalar. -/
  | vfpGFsgn (y : BitVec 1) (x : BitVec 1) (m : BitVec 3) (b : BitVec 3) (a : BitVec 5) (d : BitVec 5)
  /-- VFP_G_FRCP (R182): frcp in the .g form. -/
  | vfpGFrcp (x : BitVec 1) (m : BitVec 3) (a : BitVec 5) (d : BitVec 5)
  /-- VFP_G_FRSQ (R182): frsq in the .g form. -/
  | vfpGFrsq (x : BitVec 1) (m : BitVec 3) (a : BitVec 5) (d : BitVec 5)
  /-- VFP_G_FEXP2 (R182): fexp2 in the .g form. -/
  | vfpGFexp2 (x : BitVec 1) (m : BitVec 3) (a : BitVec 5) (d : BitVec 5)
  /-- VFMA_FMADD (R183): Vector round(a x b + c). -/
  | vfmaFmadd (m : BitVec 3) (c : BitVec 5) (b : BitVec 5) (a : BitVec 5) (d : BitVec 5)
  /-- VFMA_FMSUB (R183): Vector round(a x b - c). -/
  | vfmaFmsub (m : BitVec 3) (c : BitVec 5) (b : BitVec 5) (a : BitVec 5) (d : BitVec 5)
  /-- VFMA_FNMADD (R183): Vector round(c - a x b). -/
  | vfmaFnmadd (m : BitVec 3) (c : BitVec 5) (b : BitVec 5) (a : BitVec 5) (d : BitVec 5)
  /-- VFMA_IMADD (R183): Vector integer a x b + c modulo 2^w. -/
  | vfmaImadd (m : BitVec 3) (c : BitVec 5) (b : BitVec 5) (a : BitVec 5) (d : BitVec 5)
  /-- VCMP_EQ (R184): Mask bit := raw bits equal. -/
  | vcmpEq (y : BitVec 1) (x : BitVec 1) (m : BitVec 3) (b : BitVec 5) (a : BitVec 5) (d : BitVec 3)
  /-- VCMP_NE (R184): Mask bit := raw bits differ. -/
  | vcmpNe (y : BitVec 1) (x : BitVec 1) (m : BitVec 3) (b : BitVec 5) (a : BitVec 5) (d : BitVec 3)
  /-- VCMP_LT (R184): Mask bit := signed less than. -/
  | vcmpLt (y : BitVec 1) (x : BitVec 1) (m : BitVec 3) (b : BitVec 5) (a : BitVec 5) (d : BitVec 3)
  /-- VCMP_LE (R184): Mask bit := signed less or equal. -/
  | vcmpLe (y : BitVec 1) (x : BitVec 1) (m : BitVec 3) (b : BitVec 5) (a : BitVec 5) (d : BitVec 3)
  /-- VCMP_LTU (R184): Mask bit := unsigned less than. -/
  | vcmpLtu (y : BitVec 1) (x : BitVec 1) (m : BitVec 3) (b : BitVec 5) (a : BitVec 5) (d : BitVec 3)
  /-- VCMP_LEU (R184): Mask bit := unsigned less or equal. -/
  | vcmpLeu (y : BitVec 1) (x : BitVec 1) (m : BitVec 3) (b : BitVec 5) (a : BitVec 5) (d : BitVec 3)
  /-- VCMP_FEQ (R184): Mask bit := float equal. -/
  | vcmpFeq (y : BitVec 1) (x : BitVec 1) (m : BitVec 3) (b : BitVec 5) (a : BitVec 5) (d : BitVec 3)
  /-- VCMP_FLT (R184): Mask bit := float less than. -/
  | vcmpFlt (y : BitVec 1) (x : BitVec 1) (m : BitVec 3) (b : BitVec 5) (a : BitVec 5) (d : BitVec 3)
  /-- VCMP_FLE (R184): Mask bit := float less or equal. -/
  | vcmpFle (y : BitVec 1) (x : BitVec 1) (m : BitVec 3) (b : BitVec 5) (a : BitVec 5) (d : BitVec 3)
  /-- VCMP_FUN (R184): Mask bit := float unordered. -/
  | vcmpFun (y : BitVec 1) (x : BitVec 1) (m : BitVec 3) (b : BitVec 5) (a : BitVec 5) (d : BitVec 3)
  /-- VCMP_G_EQ (R184): Mask bit := equal to a g scalar. -/
  | vcmpGEq (y : BitVec 1) (x : BitVec 1) (m : BitVec 3) (b : BitVec 3) (a : BitVec 5) (d : BitVec 3)
  /-- VCMP_G_NE (R184): Mask bit := differs from a g scalar. -/
  | vcmpGNe (y : BitVec 1) (x : BitVec 1) (m : BitVec 3) (b : BitVec 3) (a : BitVec 5) (d : BitVec 3)
  /-- VCMP_G_LT (R184): Signed less than a g scalar. -/
  | vcmpGLt (y : BitVec 1) (x : BitVec 1) (m : BitVec 3) (b : BitVec 3) (a : BitVec 5) (d : BitVec 3)
  /-- VCMP_G_LE (R184): Signed less or equal to a g scalar. -/
  | vcmpGLe (y : BitVec 1) (x : BitVec 1) (m : BitVec 3) (b : BitVec 3) (a : BitVec 5) (d : BitVec 3)
  /-- VCMP_G_LTU (R184): Unsigned less than a g scalar. -/
  | vcmpGLtu (y : BitVec 1) (x : BitVec 1) (m : BitVec 3) (b : BitVec 3) (a : BitVec 5) (d : BitVec 3)
  /-- VCMP_G_LEU (R184): Unsigned less or equal to a g scalar. -/
  | vcmpGLeu (y : BitVec 1) (x : BitVec 1) (m : BitVec 3) (b : BitVec 3) (a : BitVec 5) (d : BitVec 3)
  /-- VCMP_G_FEQ (R184): Float equal to a g scalar. -/
  | vcmpGFeq (y : BitVec 1) (x : BitVec 1) (m : BitVec 3) (b : BitVec 3) (a : BitVec 5) (d : BitVec 3)
  /-- VCMP_G_FLT (R184): Float less than a g scalar. -/
  | vcmpGFlt (y : BitVec 1) (x : BitVec 1) (m : BitVec 3) (b : BitVec 3) (a : BitVec 5) (d : BitVec 3)
  /-- VCMP_G_FLE (R184): Float less or equal to a g scalar. -/
  | vcmpGFle (y : BitVec 1) (x : BitVec 1) (m : BitVec 3) (b : BitVec 3) (a : BitVec 5) (d : BitVec 3)
  /-- VCMP_G_FUN (R184): Float unordered with a g scalar. -/
  | vcmpGFun (y : BitVec 1) (x : BitVec 1) (m : BitVec 3) (b : BitVec 3) (a : BitVec 5) (d : BitVec 3)
  /-- MAND (R185): Mask and over live indices. -/
  | mand (y : BitVec 1) (x : BitVec 1) (b : BitVec 3) (a : BitVec 3) (d : BitVec 3)
  /-- MOR (R185): Mask or over live indices. -/
  | mor (y : BitVec 1) (x : BitVec 1) (b : BitVec 3) (a : BitVec 3) (d : BitVec 3)
  /-- MXOR (R185): Mask xor over live indices. -/
  | mxor (y : BitVec 1) (x : BitVec 1) (b : BitVec 3) (a : BitVec 3) (d : BitVec 3)
  /-- MNOT (R185): Mask complement over live indices. -/
  | mnot (x : BitVec 1) (a : BitVec 3) (d : BitVec 3)
  /-- MSET (R185): Set live mask bits. -/
  | mset (d : BitVec 3)
  /-- MCLR (R185): Clear live mask bits. -/
  | mclr (d : BitVec 3)
  /-- MPOP (R185): Count set live mask bits into a scalar register. -/
  | mpop (x : BitVec 1) (a : BitVec 3) (d : BitVec 5)
  /-- MFIRST (R185): Index of the first set live mask bit into a scalar register. -/
  | mfirst (x : BitVec 1) (a : BitVec 3) (d : BitVec 5)
  /-- RSUM (R187): Integer sum reduction into a scalar register. -/
  | rsum (x : BitVec 1) (m : BitVec 3) (a : BitVec 5) (d : BitVec 5)
  /-- RMIN (R187): Integer minimum reduction. -/
  | rmin (x : BitVec 1) (m : BitVec 3) (a : BitVec 5) (d : BitVec 5)
  /-- RMAX (R187): Integer maximum reduction. -/
  | rmax (x : BitVec 1) (m : BitVec 3) (a : BitVec 5) (d : BitVec 5)
  /-- RAND (R187): Bitwise and reduction. -/
  | rand (x : BitVec 1) (m : BitVec 3) (a : BitVec 5) (d : BitVec 5)
  /-- ROR (R187): Bitwise or reduction. -/
  | ror (x : BitVec 1) (m : BitVec 3) (a : BitVec 5) (d : BitVec 5)
  /-- RXOR (R187): Bitwise xor reduction. -/
  | rxor (x : BitVec 1) (m : BitVec 3) (a : BitVec 5) (d : BitVec 5)
  /-- RFSUM (R188): Pairwise-tree f64 sum reduction. -/
  | rfsum (x : BitVec 1) (m : BitVec 3) (a : BitVec 5) (d : BitVec 5)
  /-- RFMIN (R188): Tree f64 minimum reduction. -/
  | rfmin (x : BitVec 1) (m : BitVec 3) (a : BitVec 5) (d : BitVec 5)
  /-- RFMAX (R188): Tree f64 maximum reduction. -/
  | rfmax (x : BitVec 1) (m : BitVec 3) (a : BitVec 5) (d : BitVec 5)
  /-- RANY (R187): Condition bit := some active element is nonzero. -/
  | rany (x : BitVec 1) (m : BitVec 3) (a : BitVec 5) (d : BitVec 3)
  /-- RALL (R187): Condition bit := every active element is nonzero. -/
  | rall (x : BitVec 1) (m : BitVec 3) (a : BitVec 5) (d : BitVec 3)
  /-- VCVT (R190): Convert the tile from fmt.EW to the format in B under RM, SAT and Z. -/
  | vcvt (z : BitVec 1) (s : BitVec 1) (r : BitVec 3) (h : BitVec 1) (x : BitVec 1) (m : BitVec 3) (b : BitVec 5) (a : BitVec 5) (d : BitVec 5)
  /-- SLIDEUP (R192): Shift units up by a g amount. -/
  | slideup (y : BitVec 1) (x : BitVec 1) (m : BitVec 3) (b : BitVec 3) (a : BitVec 5) (d : BitVec 5)
  /-- SLIDEDN (R192): Shift units down by a g amount. -/
  | slidedn (y : BitVec 1) (x : BitVec 1) (m : BitVec 3) (b : BitVec 3) (a : BitVec 5) (d : BitVec 5)
  /-- PERM (R192): Permute units by indices in B. -/
  | perm (y : BitVec 1) (x : BitVec 1) (m : BitVec 3) (b : BitVec 5) (a : BitVec 5) (d : BitVec 5)
  /-- COMPRESS (R192): Pack active units to the front. -/
  | compress (x : BitVec 1) (m : BitVec 3) (a : BitVec 5) (d : BitVec 5)
  /-- EXPAND (R192): Spread source units into active positions. -/
  | expand (x : BitVec 1) (m : BitVec 3) (a : BitVec 5) (d : BitVec 5)
  /-- ZIP (R192): Interleave units of A and B. -/
  | zip (y : BitVec 1) (x : BitVec 1) (m : BitVec 3) (b : BitVec 5) (a : BitVec 5) (d : BitVec 5)
  /-- BCAST (R192): Broadcast unit k of A. -/
  | bcast (y : BitVec 1) (x : BitVec 1) (m : BitVec 3) (b : BitVec 3) (a : BitVec 5) (d : BitVec 5)
  /-- MERGE (R192): Select units of A or B by the mask. -/
  | merge (y : BitVec 1) (x : BitVec 1) (m : BitVec 3) (b : BitVec 5) (a : BitVec 5) (d : BitVec 5)
  /-- TRN (R193): Transpose square blocks of the tile. -/
  | trn (x : BitVec 1) (m : BitVec 3) (a : BitVec 5) (d : BitVec 5)
  /-- VMEM_LD (R228): Unit-stride vector load. -/
  | vmemLd (h : BitVec 1) (m : BitVec 3) (s : BitVec 4) (g : BitVec 3) (v : BitVec 5)
  /-- VMEM_ST (R228): Unit-stride vector store. -/
  | vmemSt (h : BitVec 1) (m : BitVec 3) (s : BitVec 4) (g : BitVec 3) (v : BitVec 5)
  /-- VMEM_LDS (R228): Strided vector load. -/
  | vmemLds (h : BitVec 1) (m : BitVec 3) (s : BitVec 4) (x : BitVec 3) (g : BitVec 3) (v : BitVec 5)
  /-- VMEM_STS (R228): Strided vector store. -/
  | vmemSts (h : BitVec 1) (m : BitVec 3) (s : BitVec 4) (x : BitVec 3) (g : BitVec 3) (v : BitVec 5)
  /-- VMEM_LDX (R228): Indexed gather. -/
  | vmemLdx (h : BitVec 1) (m : BitVec 3) (s : BitVec 4) (x : BitVec 5) (g : BitVec 3) (v : BitVec 5)
  /-- VMEM_STX (R228): Indexed scatter. -/
  | vmemStx (h : BitVec 1) (m : BitVec 3) (s : BitVec 4) (x : BitVec 5) (g : BitVec 3) (v : BitVec 5)
  /-- VMEM_LDL (R232): Lane-local load from lane slices. -/
  | vmemLdl (h : BitVec 1) (m : BitVec 3) (s : BitVec 4) (g : BitVec 3) (v : BitVec 5)
  /-- VMEM_STL (R232): Lane-local store to lane slices. -/
  | vmemStl (h : BitVec 1) (m : BitVec 3) (s : BitVec 4) (g : BitVec 3) (v : BitVec 5)
  /-- VMEM_LDFF (R233): Unit-stride load that truncates the mask at a later fault. -/
  | vmemLdff (h : BitVec 1) (m : BitVec 3) (s : BitVec 4) (g : BitVec 3) (v : BitVec 5)
  /-- VMEM_AMOADD (R234): Indexed atomic add of vector elements to memory. -/
  | vmemAmoadd (h : BitVec 1) (m : BitVec 3) (s : BitVec 4) (x : BitVec 5) (g : BitVec 3) (v : BitVec 5)
  /-- VBR (R173): Divergent vector branch on a mask. -/
  | vbr (o : BitVec 20) (p : BitVec 1) (k : BitVec 3)
  /-- VBR_NOT (R173): Divergent vector branch on a mask's complement. -/
  | vbrNot (o : BitVec 20) (p : BitVec 1) (k : BitVec 3)
  /-- VEND (R174): Reconverge, or end the instance when the buffer is empty. -/
  | vend
  /-- VJOIN (R174): Run the parked fragment or rejoin it. -/
  | vjoin
  /-- VNOP (R174): Advance vpc only. -/
  | vnop
  /-- ACC_RD (R195): Read accumulator lines into a vector tile with conversion. -/
  | accRd (x : BitVec 1) (a : BitVec 3) (d : BitVec 5)
  /-- ACC_WR (R195): Write a vector tile into accumulator lines as f32. -/
  | accWr (y : BitVec 1) (x : BitVec 1) (b : BitVec 5) (a : BitVec 3)
  /-- ACC_CLR (R195): Clear accumulator lines to +0.0. -/
  | accClr (x : BitVec 1) (a : BitVec 3)
  /-- CP_LAY (R244): Queued capture of source and destination layouts for a channel. -/
  | cpLay (y : BitVec 1) (x : BitVec 1) (b : BitVec 5) (a : BitVec 5) (c : BitVec 5)
  /-- CP_ARR (R245): Set a channel's arrival word and configuration. -/
  | cpArr (y : BitVec 1) (x : BitVec 1) (b : BitVec 5) (a : BitVec 5) (c : BitVec 5)
  /-- CP_GO (R246): Append a copy to a channel. -/
  | cpGo (y : BitVec 1) (x : BitVec 1) (b : BitVec 5) (a : BitVec 5) (c : BitVec 5)
  /-- CP_WM (R253): Read a channel's watermark. -/
  | cpWm (a : BitVec 5) (c : BitVec 5)
  /-- CP_WAIT (R254): Wait until a channel holds no copy. -/
  | cpWait (c : BitVec 5)
  /-- CP_STOP (R255): End every copy of a channel. -/
  | cpStop (c : BitVec 5)
  /-- CP_STAT (R256): Read a channel's status. -/
  | cpStat (a : BitVec 5) (c : BitVec 5)
  /-- COPY_ACCEPT (R246): The copy engine accepts a head copy once older accesses are performed, taking its layout pair. -/
  | copyAccept (h : Nat) (c : Nat)
  /-- COPY_ELEMENT (R247): The engine checks and writes a copy element, advancing the watermark. -/
  | copyElement (h : Nat) (c : Nat) (j : Nat)
  /-- COPY_COMPLETE (R248): A copy's last element is written and the arrival word is incremented with release. -/
  | copyComplete (h : Nat) (c : Nat)
  /-- TK_POST (R308): Read, check and post a tile-task record to the quarter's scheduler. -/
  | tkPost (x : BitVec 1) (a : BitVec 5) (d : BitVec 5)
  /-- TK_STAT (R309): Read a task's status. -/
  | tkStat (x : BitVec 1) (a : BitVec 5) (d : BitVec 5)
  /-- TK_CANCEL (R310): Cancel a task that is waiting or ready. -/
  | tkCancel (x : BitVec 1) (a : BitVec 5) (d : BitVec 5)
  /-- TASK_ISSUE (R304): The scheduler chooses a ready task for a free engine and the engine runs it. -/
  | taskIssue (e : Nat) (k : Nat)
  /-- TASK_COMPLETE (R300): A task's writes are performed; the arrival word is incremented and the event signalled. -/
  | taskComplete (q : Nat) (n : Nat)
  /-- TASK_AGING (R304): A ready task's level rises after each tkage x 1,024 cycles. -/
  | taskAging (q : Nat) (n : Nat)
  /-- EV_SIG (R311): Request an atomic increment of an event count. -/
  | evSig (y : BitVec 1) (x : BitVec 1) (b : BitVec 5) (a : BitVec 5) (d : BitVec 5)
  /-- EV_WAIT (R312): Wait until an event count reaches a target. -/
  | evWait (y : BitVec 1) (x : BitVec 1) (b : BitVec 5) (a : BitVec 5) (d : BitVec 5)
  /-- EV_RD (R313): Read an event count without ordering. -/
  | evRd (x : BitVec 1) (a : BitVec 5) (d : BitVec 5)
  /-- EV_SET (R311): Request an atomic set of an event count. -/
  | evSet (y : BitVec 1) (x : BitVec 1) (b : BitVec 5) (a : BitVec 5) (d : BitVec 5)
  /-- EVENT_UPDATE_APPLY (R311): The home applies a signal or set once older accesses are performed, waking satisfied waiters. -/
  | eventUpdateApply (h : Nat) (n : Nat)
  /-- NB_GO (R275): Read a descriptor and start a near-bank job on the unit of HOME. -/
  | nbGo (x : BitVec 1) (a : BitVec 5) (d : BitVec 5)
  /-- NB_STAT (R277): Read a near-bank job's status. -/
  | nbStat (x : BitVec 1) (a : BitVec 5) (d : BitVec 5)
  /-- NB_STOP (R278): Stop a near-bank job. -/
  | nbStop (x : BitVec 1) (a : BitVec 5)
  /-- NB_JOB_START (R262): Once ordering holds, the unit reads the code image and starts the job's threads. -/
  | nbJobStart (u : Nat)
  /-- NQ_PUSH (R266): Push a load or store request into a near-bank queue. -/
  | nqPush (x : BitVec 1) (a : BitVec 5) (q : BitVec 1)
  /-- NQ_POP (R267): Pop a filled load entry or write a store entry. -/
  | nqPop (q : BitVec 1) (d : BitVec 4)
  /-- NB_SAFE (R272): Safe point where a pending pre-emption parks or a stop ends the job. -/
  | nbSafe
  /-- NB_MC (R270): All-bank lock-step write of a register along the column. -/
  | nbMc (x : BitVec 1) (b : BitVec 4) (a : BitVec 5) (d : BitVec 5)
  /-- NQ_LOAD_FILL (R266): A pushed load request's granule read completes and fills the entry. -/
  | nqLoadFill (u : Nat) (n : Nat)
  /-- NB_JOB_END (R276): A job ends and the unit increments its arrival word with release. -/
  | nbJobEnd (u : Nat)
  /-- NB_PROGRESS_WATCHDOG (R273): No instruction retires for the limit and the job ends with code 0x80. -/
  | nbProgressWatchdog (u : Nat)
  /-- NB_SAFE_POINT_WATCHDOG (R273): A pending request sees no safe point within the limit and the memory channel is reset. -/
  | nbSafePointWatchdog (u : Nat)
  /-- CHANNEL_RESET_COMPLETE (R273): A channel reset finishes and its units become available with empty slots. -/
  | channelResetComplete (u : Nat)
  /-- DRAM_REFRESH_DUE (R271): A refresh falls due and is postponed or pauses an all-bank command at a row boundary. -/
  | dramRefreshDue (x : Nat)
  /-- LP_MARK (R280): Open a marked loop for demonstration. -/
  | lpMark (y : BitVec 1) (x : BitVec 1) (b : BitVec 5) (a : BitVec 5)
  /-- LP_ITER (R281): End a marked-loop iteration; the d-th awaits the tracers' verdict. -/
  | lpIter (k : BitVec 3)
  /-- LP_END (R288): Close the marked loop, awaiting replay completion in ST 3. -/
  | lpEnd (d : BitVec 5)
  /-- LP_STAT (R288): Read lpst. -/
  | lpStat (d : BitVec 5)
  /-- TEMPLATE_VERDICT (R283): The tracers' verdict returns and confirms the template and starts replay, or falls back. -/
  | templateVerdict (h : Nat)
  /-- REPLAY_ITERATION (R284): Owning units perform a replayed iteration and lpwm advances. -/
  | replayIteration (h : Nat)
  /-- REPLAY_DEPARTURE (R286): A conflict, fault, refusal, pre-emption or unit loss ends the replay at index k. -/
  | replayDeparture (h : Nat) (d : Nat)
  /-- REPLAY_COMPLETE (R288): Every replayed store is performed and lp.end's destination becomes 1. -/
  | replayComplete (h : Nat)
  /-- JR_REC (R382): Append a record to a journal and ship it. -/
  | jrRec (y : BitVec 1) (x : BitVec 1) (b : BitVec 5) (a : BitVec 5) (d : BitVec 5)
  /-- JR_GATE (R384): Wait until a journal's durable watermark reaches a position. -/
  | jrGate (y : BitVec 1) (x : BitVec 1) (b : BitVec 5) (a : BitVec 5) (d : BitVec 5)
  /-- JR_DUR (R387): Read a journal's durable watermark. -/
  | jrDur (x : BitVec 1) (a : BitVec 5) (d : BitVec 5)
  /-- JR_TRUNC (R388): Truncate a journal on both sides. -/
  | jrTrunc (y : BitVec 1) (x : BitVec 1) (b : BitVec 5) (a : BitVec 5) (d : BitVec 5)
  /-- JR_READ (R389): Copy one journal or mirror record to memory. -/
  | jrRead (y : BitVec 1) (x : BitVec 1) (b : BitVec 5) (a : BitVec 5) (d : BitVec 5)
  /-- JOURNAL_ACK (R383): A tailstock acknowledgment arrives; DW rises and satisfied gates answer. -/
  | journalAck (j : Nat) (n : Nat)
  /-- MIRROR_RECORD_WRITE (R383): The tailstock writes a received record into its mirror ring, or refuses it. -/
  | mirrorRecordWrite (p : Nat) (j : Nat) (n : Nat) (r : List Byte)
  /-- TRUNCATION_ACK (R388): The tailstock acknowledges a truncation and TR moves on both sides. -/
  | truncationAck (h : Nat) (j : Nat)
  /-- PL_HASH (R367): Compute a stage handle. -/
  | plHash (y : BitVec 1) (x : BitVec 1) (b : BitVec 5) (a : BitVec 5) (d : BitVec 5)
  /-- PL_BIND (R373): Bind a pipeline, attaching to shared prefixes and launching the remaining stages. -/
  | plBind (x : BitVec 1) (a : BitVec 5) (d : BitVec 5)
  /-- PL_SEND (R375): Send a message at a position after older gates have answered. -/
  | plSend (x : BitVec 1) (a : BitVec 5) (d : BitVec 5)
  /-- PL_RECV (R376): Receive the next due position. -/
  | plRecv (x : BitVec 1) (a : BitVec 5) (d : BitVec 5)
  /-- PL_END (R377): End a pipeline. -/
  | plEnd (x : BitVec 1) (a : BitVec 5) (d : BitVec 5)
  /-- PL_STAT (R378): Read a pipeline's status. -/
  | plStat (x : BitVec 1) (a : BitVec 5) (d : BitVec 5)
  /-- GO (R82): Enqueue a launch record on a launch queue. -/
  | go (y : BitVec 1) (x : BitVec 1) (b : BitVec 5) (a : BitVec 5) (d : BitVec 5)
  /-- GQ (R83): Read a launch queue's status. -/
  | gq (x : BitVec 1) (a : BitVec 5) (d : BitVec 5)
  /-- LAUNCH_DOORBELL (R81): A host doorbell write enqueues a record address, or is dropped setting OVF. -/
  | launchDoorbell (l : Nat) (v : Word)
  /-- DBSTAT_WRITE (R81): Writing 1 to bit 19 of DBSTAT clears OVF. -/
  | dbstatWrite (l : Nat) (v : Word)
  /-- LAUNCH_HEAD_CHECK (R78): A record reaching a queue head is checked against lqcfg, refused with a code or passed on. -/
  | launchHeadCheck (l : Nat)
  /-- PLACE_LAUNCH (R84): The launch unit places the highest-priority fitting head on idle or offered cores. -/
  | placeLaunch
  /-- LQCFG_WRITE (R79): A write to a queue's configuration; clearing EN refuses queued entries with code 8. -/
  | lqcfgWrite (h : Nat) (l : Nat) (v : Word)
  /-- TRAP_ENTRY (R337): The scalar stream stops, the vector instance freezes, and the handler starts at tvec. -/
  | trapEntry (h : Nat)
  /-- PREQ_REQUEST (R342): A preq write with RES 0 sends a pre-emption request to a context's harts in a domain. -/
  | preqRequest (h : Nat) (v : Word)
  /-- PREQ_RESUME (R342): A preq write with RES 1 resumes a context's units and tasks and withdraws untaken requests. -/
  | preqResume (h : Nat) (v : Word)
  /-- XIMG_SAVE (R348): A write to ximg saves the context image and empties the frozen set. -/
  | ximgSave (h : Nat) (v : Word)
  /-- XLD_LOAD (R349): A write to xld checks and loads a context image. -/
  | xldLoad (h : Nat) (v : Word)
  /-- CPARK_OFFER (R350): A write of cpark offers a core holding parked harts for placement. -/
  | cparkOffer (h : Nat) (v : Word)
  /-- FLAG_RESTORE_WRITE (R356): A cwr to fst or vst sets the flags while TS is 1, and clears them W1C otherwise. -/
  | flagRestoreWrite (h : Nat) (n : Nat) (v : Word)
  /-- VECTOR_SHAPE_WRITE (R158): A cwr to len, rows, fmt, estart, vpc or vdirty takes effect only when the queue is idle, or traps 0x07. -/
  | vectorShapeWrite (h : Nat) (n : Nat) (v : Word)
  /-- PROT_WRITE (R399): A write of prot.PM changes protected mode when the queue is idle, re-granting len. -/
  | protWrite (h : Nat) (v : Word)
  /-- EVBASE_WRITE (R314): A write of evbase reaches all four schedulers before completing. -/
  | evbaseWrite (h : Nat) (v : Word)
  /-- ACCPSN_WRITE (R291): A kernel write sets or clears the accumulator tile poison bits. -/
  | accpsnWrite (h : Nat) (v : Word)
  /-- JRCFG_WRITE (R391): A write to jrcfg enables or disables a journal, resetting its counts on enable. -/
  | jrcfgWrite (h : Nat) (v : Word)
  /-- JRCAND_WRITE (R386): A candidate write naming an up port clears REF and resumes shipping. -/
  | jrcandWrite (h : Nat) (n : Nat) (v : Word)
  /-- LTERM_WRITE (R393): Terminate the launch on a named core. -/
  | ltermWrite (h : Nat) (v : Word)
  /-- RTCORE_WRITE (R394): Retire a core from placement until reset. -/
  | rtcoreWrite (h : Nat) (v : Word)
  /-- RTQ_POP (R404): A read of rtq pops the oldest page queued for retirement. -/
  | rtqPop (h : Nat)
  /-- RTMIG_GO (R405): Start migrating a region under the watermark. -/
  | rtmigGo (h : Nat) (v : Word)
  /-- RTMIG_END (R405): Stop mirroring and free the old region. -/
  | rtmigEnd (h : Nat) (v : Word)
  /-- MIGRATION_GRANULE (R365): One 64-byte granule is copied atomically and MW advances. -/
  | migrationGranule
  /-- ELSTAT_CLEAR (R403): Writing CLR empties the selected error log and zeroes OVF. -/
  | elstatClear (h : Nat) (v : Word)
  /-- PMC_WRITE (R407): A write to a counter wins over that cycle's increment. -/
  | pmcWrite (h : Nat) (n : Nat) (v : Word)
  /-- ENERGY_WRITE (R408): A write sets a context's energy count and clears SAT and the accumulator. -/
  | energyWrite (h : Nat) (v : Word)
  /-- SMPCFG_WRITE (R413): A write to smpcfg or trcfg; setting EN restarts NEXT and the count. -/
  | smpcfgWrite (h : Nat) (n : Nat) (v : Word)
  /-- SAMPLE_TRACE_ACQUIRE_READ (R411): A crd of smpcfg or trcfg acquires every record below NEXT. -/
  | sampleTraceAcquireRead (h : Nat) (n : Nat)
  /-- SAMPLE_RECORD_WRITE (R409): A sampled vector memory instruction's record is written at completion or trap. -/
  | sampleRecordWrite (h : Nat)
  /-- TRACE_RECORD_WRITE (R410): A trace record is written for a branch, trap, tret, vblk or Duplicator event. -/
  | traceRecordWrite (h : Nat)
  /-- STOP_FIRE (R412): A named vector element is reached and the hart traps 0x0D before it. -/
  | stopFire (h : Nat)
  /-- GENERIC_REGISTER_WRITE (R126): A write to a control register with no behaviour of its own. -/
  | genericRegisterWrite (h : Nat) (n : Nat) (v : Word)
  /-- REGISTER_PARITY_REPLAY (R396): A parity error on a register read is repaired from the replay queue, or machine checks. -/
  | registerParityReplay (h : Nat) (r : Nat)
  /-- LANE_REEXECUTE (R397): A vector element-group error is repaired by lane re-execution, or machine checks. -/
  | laneReexecute (h : Nat) (r : Nat) (e : Nat)
  /-- PROTECTED_MODE_MISMATCH (R399): Mirrored lanes disagree and re-execute once, machine checking on a second mismatch. -/
  | protectedModeMismatch (h : Nat) (e : Nat)
  /-- SCRUB_READ (R402): A level's scrubber reads a protected unit, correcting or poisoning it. -/
  | scrubRead (l : Nat) (a : Nat)
  /-- L2_EVICTION_POISON (R401): An uncorrectable sector at eviction is dropped, or written back poisoned. -/
  | l2EvictionPoison (a : Nat)
  /-- CXL_MEM_REQUEST (R210): A host CXL.mem read or write of stack memory is served at the home L2. -/
  | cxlMemRequest (a : Nat) (w : List Byte) (n : Nat)
  /-- HOST_SNOOP (R210): A host snoop makes the home L2 write back, invalidate and give up or demote a line. -/
  | hostSnoop (a : Snoop)
  /-- CXL_IDE_FAILURE (R359): A CXL.cachemem IDE integrity failure takes the host link down and logs it. -/
  | cxlIdeFailure
  /-- FLIT_RECEIVE (R361): A peer flit arrives; it is checked by CRC and acknowledged, or retry is asked. -/
  | flitReceive (p : Nat) (r : List Byte)
  /-- PEER_MESSAGE_RECEIVE (R362): A complete message is authenticated and delivered, or discarded and the port taken down. -/
  | peerMessageReceive (p : Nat) (k : Nat) (x : Word) (y : Word) (z : Word) (r : List Byte)
  /-- KEY_EPOCH_CHANGE (R362): A key-epoch-change flit starts a new epoch with its counter at 0. -/
  | keyEpochChange (p : Nat)
  /-- IDLE_FLIT_SEND (R361): A port that has sent nothing for 256 cycles sends an idle flit. -/
  | idleFlitSend (p : Nat)
  /-- PORT_LIVENESS_EXPIRY (R361): No good flit arrives for lklive x 1,024 cycles and the port goes down. -/
  | portLivenessExpiry (p : Nat)
  /-- PORT_TRAIN_UP (R361): A port finishes training, learns its peer and starts a new key epoch. -/
  | portTrainUp (p : Nat) (n : Nat) (w : Nat)
  /-- INBOUND_REQUEST (R363): A peer's request is performed within the inbound window, or answered with an error. -/
  | inboundRequest (p : Nat) (k : Nat) (a : Nat) (n : Nat) (r : List Byte)
  /-- REMOTE_RESPONSE (R364): A peer's response to a remote access returns, completing it. -/
  | remoteResponse (h : Nat) (n : Nat) (k : Nat)
  /-- POWER_ON_RESET (R414): The ROM verifies and loads the firmware images, extending the measurements. -/
  | powerOnReset (k : FirmwareImage) (n : FirmwareImage) (v : FirmwareImage) (r : FirmwareImage)
  /-- STACK_TRAINING (R424): A stack training attempt ends, trained or failed after four attempts. -/
  | stackTraining (x : Nat) (k : Nat)
  /-- FULL_SERVICE_ENTRY (R423): With all stacks trained and quarter 0 empty, the device enters full service. -/
  | fullServiceEntry
  /-- QUOTE (R418): The mailbox returns a signed quote over the nonce and the measurements. -/
  | quote (r : List Byte)
  /-- PUBKEYS (R417): The mailbox returns the identity and key-transport public keys. -/
  | pubkeys
  /-- KEYLOAD (R420): Decapsulate and load a tenant key into a slot after flushing its lines. -/
  | keyload (v : Word) (w : List Byte) (r : List Byte)
  /-- KEYCLR (R420): Flush and empty a key slot. -/
  | keyclr (v : Word)
  /-- EXTEND (R415): Extend one of M4-M7 with a digest. -/
  | extend (v : Word) (r : List Byte)
  /-- EVENT (R422): The mailbox returns the oldest host-assisted event. -/
  | event
  /-- REPLY (R422): The host answers a pending host-assisted event by its tag. -/
  | reply (n : Nat) (a : List Word)
  /-- STATE (R417): The mailbox returns bstate. -/
  | state
  /-- HOST_ASSIST_EVENT (R422): A function handed to the host raises an event into the queue and an MSI-X message. -/
  | hostAssistEvent (k : Nat)
  /-- POWER_THROTTLE (R426): The draw exceeds pwlim or the die reaches 105 C, and quarters insert idle issue cycles. -/
  | powerThrottle
  /-- TLB_INVALIDATION_COMPLETE (R128): An invalidation that a tlbinv started finishes in every core and walker of the device. -/
  | tlbInvalidationComplete (n : Nat)
  /-- HOST_LINK_TRAINED (R358): The CXL host link finishes training or retraining at a negotiated width and comes up. -/
  | hostLinkTrained (w : Nat)
  /-- UNKNOWN_MAILBOX_CODE (R417): A write to the mailbox CMD with an unknown command code ends with STATUS code 1. -/
  | unknownMailboxCode (v : Word)
  /-- COUNTER_OVERFLOW (R406): A performance counter that counts cycles wraps from 2^48 - 1 to 0 and sets its bit in pmovf. -/
  | counterOverflow (c : Nat) (n : Nat)
  /-- DRAW_BELOW_LIMIT (R426): The measured draw falls below pwlim and the die temperature below 105 C, so the quarters stop inserting idle issue cycles. -/
  | drawBelowLimit
  deriving DecidableEq, Repr

end Sys2Proof
end

