-- ==== Sys2Proof/WellFormed.lean ====
section
/-!
DEFINITION. Which terms of Instr are instructions the spec has: the codes that stand in fields and that no
must-be-zero bit rules out (R14, R20, R24, R26, R27, R33, R35, R36, R39), and the ranges of the events' names.
-/
namespace Sys2Proof

/-- The control register numbers the spec assigns (R27, R40; the tables R97, R99, R155, R259, R289, R314, R331, R354,
R391, R413, R425). Every other number is unassigned, and a crd or cwr of it is illegal. -/
def controlAssigned (n : Nat) : Bool :=
  (0x000 ≤ n && n ≤ 0x005) ||
  (0x010 ≤ n && n ≤ 0x012) ||
  (0x080 ≤ n && n ≤ 0x086) ||
  n == 0x090 ||
  (0x0C0 ≤ n && n ≤ 0x0FF) ||
  (0x100 ≤ n && n ≤ 0x108) ||
  (0x180 ≤ n && n ≤ 0x182) ||
  (0x200 ≤ n && n ≤ 0x204) ||
  (0x280 ≤ n && n ≤ 0x284) ||
  (0x300 ≤ n && n ≤ 0x302) ||
  (0x380 ≤ n && n ≤ 0x395) ||
  (0x400 ≤ n && n ≤ 0x401) ||
  (0x410 ≤ n && n ≤ 0x435) ||
  (0x438 ≤ n && n ≤ 0x43D) ||
  (0x440 ≤ n && n ≤ 0x441) ||
  (0x480 ≤ n && n ≤ 0x487) ||
  (0x489 ≤ n && n ≤ 0x493) ||
  (0x4A0 ≤ n && n ≤ 0x4A1) ||
  (0x4A8 ≤ n && n ≤ 0x4AF) ||
  (0x4C0 ≤ n && n ≤ 0x4C1) ||
  (0x4C8 ≤ n && n ≤ 0x4D0) ||
  (0x4E0 ≤ n && n ≤ 0x4E1) ||
  (0x4E8 ≤ n && n ≤ 0x4EB) ||
  (0x4F0 ≤ n && n ≤ 0x4F1) ||
  (0x500 ≤ n && n ≤ 0x503)

/-- A term of Instr that is an instruction of the spec. -/
def Instr.wellFormed (i : Instr) : Bool :=
  match i with
  | .add _ _ _ _ _ => true
  | .sub _ _ _ _ _ => true
  | .and _ _ _ _ _ => true
  | .or _ _ _ _ _ => true
  | .xor _ _ _ _ _ => true
  | .sll _ _ _ _ _ => true
  | .srl _ _ _ _ _ => true
  | .sra _ _ _ _ _ => true
  | .mul _ _ _ _ _ => true
  | .mulh _ _ _ _ _ => true
  | .mulhu _ _ _ _ _ => true
  | .div _ _ _ _ _ => true
  | .divu _ _ _ _ _ => true
  | .rem _ _ _ _ _ => true
  | .remu _ _ _ _ _ => true
  | .min _ _ _ _ _ => true
  | .max _ _ _ _ _ => true
  | .minu _ _ _ _ _ => true
  | .maxu _ _ _ _ _ => true
  | .clz _ _ _ => true
  | .ctz _ _ _ => true
  | .pop _ _ _ => true
  | .rng _ _ _ _ _ => true
  | .addi _ _ _ _ => true
  | .andi _ _ _ _ => true
  | .ori _ _ _ _ => true
  | .xori _ _ _ _ => true
  | .slli _ _ _ _ => true
  | .srli _ _ _ _ => true
  | .srai _ _ _ _ => true
  | .lui _ _ => true
  | .adr _ _ => true
  | .cmpEq _ _ _ _ _ => true
  | .cmpNe _ _ _ _ _ => true
  | .cmpLt _ _ _ _ _ => true
  | .cmpLtu _ _ _ _ _ => true
  | .feqD _ _ _ _ _ => true
  | .fltD _ _ _ _ _ => true
  | .fleD _ _ _ _ _ => true
  | .funD _ _ _ _ _ => true
  | .feqS _ _ _ _ _ => true
  | .fltS _ _ _ _ _ => true
  | .fleS _ _ _ _ _ => true
  | .funS _ _ _ _ _ => true
  | .cmpiEq _ _ _ _ => true
  | .cmpiNe _ _ _ _ => true
  | .cmpiLt _ _ _ _ => true
  | .cmpiLtu _ _ _ _ => true
  | .kand _ _ _ _ _ => true
  | .kor _ _ _ _ _ => true
  | .kxor _ _ _ _ _ => true
  | .kset _ _ _ => true
  | .kget _ _ _ => true
  | .faddD _ _ _ _ _ => true
  | .fsubD _ _ _ _ _ => true
  | .fmulD _ _ _ _ _ => true
  | .fdivD _ _ _ _ _ => true
  | .fsqrtD _ _ _ => true
  | .fminD _ _ _ _ _ => true
  | .fmaxD _ _ _ _ _ => true
  | .faddS _ _ _ _ _ => true
  | .fsubS _ _ _ _ _ => true
  | .fmulS _ _ _ _ _ => true
  | .fdivS _ _ _ _ _ => true
  | .fsqrtS _ _ _ => true
  | .fminS _ _ _ _ _ => true
  | .fmaxS _ _ _ _ _ => true
  | .cvtDL _ _ _ => true
  | .cvtLD _ _ _ => true
  | .cvtSL _ _ _ => true
  | .cvtLS _ _ _ => true
  | .cvtDS _ _ _ => true
  | .cvtSD _ _ _ => true
  | .fmaddD _ _ _ _ => true
  | .fmsubD _ _ _ _ => true
  | .fmaddS _ _ _ _ => true
  | .fmsubS _ _ _ _ => true
  | .bK _ _ _ => true
  | .bNk _ _ _ => true
  | .branchConfirm h => decide (h < 1024)
  | .jal _ _ => true
  | .jalr _ _ _ _ => true
  | .ldB _ _ _ _ _ => true
  | .ldBu _ _ _ _ _ => true
  | .ldH _ _ _ _ _ => true
  | .ldHu _ _ _ _ _ => true
  | .ldW _ _ _ _ _ => true
  | .ldWu _ _ _ _ _ => true
  | .ldD _ _ _ _ _ => true
  | .loadDataReturn h _ => decide (h < 1024)
  | .stB _ _ _ _ _ => true
  | .stH _ _ _ _ _ => true
  | .stW _ _ _ _ _ => true
  | .stD _ _ _ _ _ => true
  | .amoAddW c _ _ _ _ _ => decide (c.toNat ≤ 5)
  | .amoAddD c _ _ _ _ _ => decide (c.toNat ≤ 5)
  | .amoMinD c _ _ _ _ _ => decide (c.toNat ≤ 5)
  | .amoMaxD c _ _ _ _ _ => decide (c.toNat ≤ 5)
  | .amoMinuD c _ _ _ _ _ => decide (c.toNat ≤ 5)
  | .amoMaxuD c _ _ _ _ _ => decide (c.toNat ≤ 5)
  | .amoSwapD c _ _ _ _ _ => decide (c.toNat ≤ 5)
  | .amoCasD c _ _ _ _ _ => decide (c.toNat ≤ 5)
  | .amoFaddS c _ _ _ _ _ => decide (c.toNat ≤ 5)
  | .amoFaddD c _ _ _ _ _ => decide (c.toNat ≤ 5)
  | .amoReturn h _ => decide (h < 1024)
  | .sbar c _ => decide (c.toNat ≤ 5)
  | .fence c => decide (c.toNat ≤ 5)
  | .gsync c _ => decide (c.toNat ≤ 5)
  | .garrive c _ => decide (c.toNat ≤ 5)
  | .gwait c _ => decide (c.toNat ≤ 5)
  | .groupArrivalSend h m => decide (h < 1024) && decide (m < 4)
  | .crd n _ => controlAssigned n.toNat
  | .cwr n _ _ _ => controlAssigned n.toNat
  | .trap _ => true
  | .tret => true
  | .halt => true
  | .idle => true
  | .brk => true
  | .yield => true
  | .idleWake h => decide (h < 1024)
  | .hartRetire h => decide (h < 1024)
  | .l1inv _ _ => true
  | .l2wb _ _ => true
  | .tlbinv _ _ => true
  | .tlbsync => true
  | .setlen _ _ _ _ _ => true
  | .setrows _ _ _ => true
  | .setfmt _ _ _ => true
  | .vdrain => true
  | .vstat _ => true
  | .hwpub _ _ _ _ => true
  | .setfmti _ _ => true
  | .vblk _ => true
  | .blockInstanceBegin h => decide (h < 1024)
  | .vbind _ _ _ _ => true
  | .vunbind _ => true
  | .qpat _ _ _ => true
  | .qstat _ _ => true
  | .streamChunkArrive h q => decide (h < 1024) && decide (q < 16)
  | .vintAdd _ _ _ _ _ _ => true
  | .vintSub _ _ _ _ _ _ => true
  | .vintMul _ _ _ _ _ _ => true
  | .vintMulh _ _ _ _ _ _ => true
  | .vintMulhu _ _ _ _ _ _ => true
  | .vintMin _ _ _ _ _ _ => true
  | .vintMax _ _ _ _ _ _ => true
  | .vintMinu _ _ _ _ _ _ => true
  | .vintMaxu _ _ _ _ _ _ => true
  | .vintAnd _ _ _ _ _ _ => true
  | .vintOr _ _ _ _ _ _ => true
  | .vintXor _ _ _ _ _ _ => true
  | .vintSll _ _ _ _ _ _ => true
  | .vintSrl _ _ _ _ _ _ => true
  | .vintSra _ _ _ _ _ _ => true
  | .vintAdds _ _ _ _ _ _ => true
  | .vintSubs _ _ _ _ _ _ => true
  | .vintAddsu _ _ _ _ _ _ => true
  | .vintSubsu _ _ _ _ _ _ => true
  | .vintMov _ _ _ _ => true
  | .vintGAdd _ _ _ _ _ _ => true
  | .vintGSub _ _ _ _ _ _ => true
  | .vintGMul _ _ _ _ _ _ => true
  | .vintGMulh _ _ _ _ _ _ => true
  | .vintGMulhu _ _ _ _ _ _ => true
  | .vintGMin _ _ _ _ _ _ => true
  | .vintGMax _ _ _ _ _ _ => true
  | .vintGMinu _ _ _ _ _ _ => true
  | .vintGMaxu _ _ _ _ _ _ => true
  | .vintGAnd _ _ _ _ _ _ => true
  | .vintGOr _ _ _ _ _ _ => true
  | .vintGXor _ _ _ _ _ _ => true
  | .vintGSll _ _ _ _ _ _ => true
  | .vintGSrl _ _ _ _ _ _ => true
  | .vintGSra _ _ _ _ _ _ => true
  | .vintGAdds _ _ _ _ _ _ => true
  | .vintGSubs _ _ _ _ _ _ => true
  | .vintGAddsu _ _ _ _ _ _ => true
  | .vintGSubsu _ _ _ _ _ _ => true
  | .vintGMov _ _ _ _ => true
  | .vintIAdd _ _ _ _ _ _ => true
  | .vintISub _ _ _ _ _ _ => true
  | .vintIMul _ _ _ _ _ _ => true
  | .vintIMulh _ _ _ _ _ _ => true
  | .vintIMulhu _ _ _ _ _ _ => true
  | .vintIMin _ _ _ _ _ _ => true
  | .vintIMax _ _ _ _ _ _ => true
  | .vintIMinu _ _ _ _ _ _ => true
  | .vintIMaxu _ _ _ _ _ _ => true
  | .vintIAnd _ _ _ _ _ _ => true
  | .vintIOr _ _ _ _ _ _ => true
  | .vintIXor _ _ _ _ _ _ => true
  | .vintISll _ _ _ _ _ _ => true
  | .vintISrl _ _ _ _ _ _ => true
  | .vintISra _ _ _ _ _ _ => true
  | .vintIAdds _ _ _ _ _ _ => true
  | .vintISubs _ _ _ _ _ _ => true
  | .vintIAddsu _ _ _ _ _ _ => true
  | .vintISubsu _ _ _ _ _ _ => true
  | .vintIMov _ _ _ _ => true
  | .vfpFadd _ _ _ _ _ _ => true
  | .vfpFsub _ _ _ _ _ _ => true
  | .vfpFmul _ _ _ _ _ _ => true
  | .vfpFdiv _ _ _ _ _ _ => true
  | .vfpFsqrt _ _ _ _ => true
  | .vfpFmin _ _ _ _ _ _ => true
  | .vfpFmax _ _ _ _ _ _ => true
  | .vfpFabs _ _ _ _ => true
  | .vfpFneg _ _ _ _ => true
  | .vfpFsgn _ _ _ _ _ _ => true
  | .vfpFrcp _ _ _ _ => true
  | .vfpFrsq _ _ _ _ => true
  | .vfpFexp2 _ _ _ _ => true
  | .vfpGFadd _ _ _ _ _ _ => true
  | .vfpGFsub _ _ _ _ _ _ => true
  | .vfpGFmul _ _ _ _ _ _ => true
  | .vfpGFdiv _ _ _ _ _ _ => true
  | .vfpGFsqrt _ _ _ _ => true
  | .vfpGFmin _ _ _ _ _ _ => true
  | .vfpGFmax _ _ _ _ _ _ => true
  | .vfpGFabs _ _ _ _ => true
  | .vfpGFneg _ _ _ _ => true
  | .vfpGFsgn _ _ _ _ _ _ => true
  | .vfpGFrcp _ _ _ _ => true
  | .vfpGFrsq _ _ _ _ => true
  | .vfpGFexp2 _ _ _ _ => true
  | .vfmaFmadd _ _ _ _ _ => true
  | .vfmaFmsub _ _ _ _ _ => true
  | .vfmaFnmadd _ _ _ _ _ => true
  | .vfmaImadd _ _ _ _ _ => true
  | .vcmpEq _ _ _ _ _ d => decide (d.toNat ≠ 0)
  | .vcmpNe _ _ _ _ _ d => decide (d.toNat ≠ 0)
  | .vcmpLt _ _ _ _ _ d => decide (d.toNat ≠ 0)
  | .vcmpLe _ _ _ _ _ d => decide (d.toNat ≠ 0)
  | .vcmpLtu _ _ _ _ _ d => decide (d.toNat ≠ 0)
  | .vcmpLeu _ _ _ _ _ d => decide (d.toNat ≠ 0)
  | .vcmpFeq _ _ _ _ _ d => decide (d.toNat ≠ 0)
  | .vcmpFlt _ _ _ _ _ d => decide (d.toNat ≠ 0)
  | .vcmpFle _ _ _ _ _ d => decide (d.toNat ≠ 0)
  | .vcmpFun _ _ _ _ _ d => decide (d.toNat ≠ 0)
  | .vcmpGEq _ _ _ _ _ d => decide (d.toNat ≠ 0)
  | .vcmpGNe _ _ _ _ _ d => decide (d.toNat ≠ 0)
  | .vcmpGLt _ _ _ _ _ d => decide (d.toNat ≠ 0)
  | .vcmpGLe _ _ _ _ _ d => decide (d.toNat ≠ 0)
  | .vcmpGLtu _ _ _ _ _ d => decide (d.toNat ≠ 0)
  | .vcmpGLeu _ _ _ _ _ d => decide (d.toNat ≠ 0)
  | .vcmpGFeq _ _ _ _ _ d => decide (d.toNat ≠ 0)
  | .vcmpGFlt _ _ _ _ _ d => decide (d.toNat ≠ 0)
  | .vcmpGFle _ _ _ _ _ d => decide (d.toNat ≠ 0)
  | .vcmpGFun _ _ _ _ _ d => decide (d.toNat ≠ 0)
  | .mand _ _ _ _ d => decide (d.toNat ≠ 0)
  | .mor _ _ _ _ d => decide (d.toNat ≠ 0)
  | .mxor _ _ _ _ d => decide (d.toNat ≠ 0)
  | .mnot _ _ d => decide (d.toNat ≠ 0)
  | .mset d => decide (d.toNat ≠ 0)
  | .mclr d => decide (d.toNat ≠ 0)
  | .mpop _ _ _ => true
  | .mfirst _ _ _ => true
  | .rsum _ _ _ _ => true
  | .rmin _ _ _ _ => true
  | .rmax _ _ _ _ => true
  | .rand _ _ _ _ => true
  | .ror _ _ _ _ => true
  | .rxor _ _ _ _ => true
  | .rfsum _ _ _ _ => true
  | .rfmin _ _ _ _ => true
  | .rfmax _ _ _ _ => true
  | .rany _ _ _ _ => true
  | .rall _ _ _ _ => true
  | .vcvt _ _ r _ _ _ _ _ _ => decide (r.toNat ≤ 5)
  | .slideup _ _ _ _ _ _ => true
  | .slidedn _ _ _ _ _ _ => true
  | .perm _ _ _ _ _ _ => true
  | .compress _ _ _ _ => true
  | .expand _ _ _ _ => true
  | .zip _ _ _ _ _ _ => true
  | .bcast _ _ _ _ _ _ => true
  | .merge _ _ _ _ _ _ => true
  | .trn _ _ _ _ => true
  | .vmemLd _ _ s _ _ => decide (4 ≤ s.toNat)
  | .vmemSt _ _ s _ _ => decide (4 ≤ s.toNat)
  | .vmemLds _ _ s _ _ _ => decide (4 ≤ s.toNat)
  | .vmemSts _ _ s _ _ _ => decide (4 ≤ s.toNat)
  | .vmemLdx _ _ s _ _ _ => decide (4 ≤ s.toNat)
  | .vmemStx _ _ s _ _ _ => decide (4 ≤ s.toNat)
  | .vmemLdl _ _ s _ _ => decide (4 ≤ s.toNat)
  | .vmemStl _ _ s _ _ => decide (4 ≤ s.toNat)
  | .vmemLdff _ m s _ _ => decide (4 ≤ s.toNat) && decide (m.toNat ≠ 0)
  | .vmemAmoadd _ _ s _ _ _ => decide (4 ≤ s.toNat)
  | .vbr _ _ _ => true
  | .vbrNot _ _ _ => true
  | .vend => true
  | .vjoin => true
  | .vnop => true
  | .accRd _ _ _ => true
  | .accWr _ _ _ _ => true
  | .accClr _ _ => true
  | .cpLay _ _ _ _ _ => true
  | .cpArr _ _ _ _ _ => true
  | .cpGo _ _ _ _ _ => true
  | .cpWm _ _ => true
  | .cpWait _ => true
  | .cpStop _ => true
  | .cpStat _ _ => true
  | .copyAccept h c => decide (h < 1024) && decide (c < 32)
  | .copyElement h c _ => decide (h < 1024) && decide (c < 32)
  | .copyComplete h c => decide (h < 1024) && decide (c < 32)
  | .tkPost _ _ _ => true
  | .tkStat _ _ _ => true
  | .tkCancel _ _ _ => true
  | .taskIssue e k => decide (e < 256) && decide (k < 2)
  | .taskComplete q _ => decide (q < 4)
  | .taskAging q _ => decide (q < 4)
  | .evSig _ _ _ _ _ => true
  | .evWait _ _ _ _ _ => true
  | .evRd _ _ _ => true
  | .evSet _ _ _ _ _ => true
  | .eventUpdateApply h _ => decide (h < 1024)
  | .nbGo _ _ _ => true
  | .nbStat _ _ _ => true
  | .nbStop _ _ => true
  | .nbJobStart u => decide (u < 512)
  | .nqPush _ _ _ => true
  | .nqPop _ _ => true
  | .nbSafe => true
  | .nbMc _ _ _ _ => true
  | .nqLoadFill u n => decide (u < 512) && decide (n < 16)
  | .nbJobEnd u => decide (u < 512)
  | .nbProgressWatchdog u => decide (u < 512)
  | .nbSafePointWatchdog u => decide (u < 512)
  | .channelResetComplete u => decide (u < 512)
  | .dramRefreshDue x => decide (x < 8)
  | .lpMark _ _ _ _ => true
  | .lpIter _ => true
  | .lpEnd _ => true
  | .lpStat _ => true
  | .templateVerdict h => decide (h < 1024)
  | .replayIteration h => decide (h < 1024)
  | .replayDeparture h d => decide (h < 1024) && decide (d < 8)
  | .replayComplete h => decide (h < 1024)
  | .jrRec _ _ _ _ _ => true
  | .jrGate _ _ _ _ _ => true
  | .jrDur _ _ _ => true
  | .jrTrunc _ _ _ _ _ => true
  | .jrRead _ _ _ _ _ => true
  | .journalAck j _ => decide (j < 16)
  | .mirrorRecordWrite p j _ _ => decide (p < 16) && decide (j < 16)
  | .truncationAck h j => decide (h < 1024) && decide (j < 16)
  | .plHash _ _ _ _ _ => true
  | .plBind _ _ _ => true
  | .plSend _ _ _ => true
  | .plRecv _ _ _ => true
  | .plEnd _ _ _ => true
  | .plStat _ _ _ => true
  | .go _ _ _ _ _ => true
  | .gq _ _ _ => true
  | .launchDoorbell l _ => decide (l < 64)
  | .dbstatWrite l _ => decide (l < 64)
  | .launchHeadCheck l => decide (l < 64)
  | .placeLaunch => true
  | .lqcfgWrite h l _ => decide (h < 1024) && decide (l < 64)
  | .trapEntry h => decide (h < 1024)
  | .preqRequest h _ => decide (h < 1024)
  | .preqResume h _ => decide (h < 1024)
  | .ximgSave h _ => decide (h < 1024)
  | .xldLoad h _ => decide (h < 1024)
  | .cparkOffer h _ => decide (h < 1024)
  | .flagRestoreWrite h _ _ => decide (h < 1024)
  | .vectorShapeWrite h _ _ => decide (h < 1024)
  | .protWrite h _ => decide (h < 1024)
  | .evbaseWrite h _ => decide (h < 1024)
  | .accpsnWrite h _ => decide (h < 1024)
  | .jrcfgWrite h _ => decide (h < 1024)
  | .jrcandWrite h n _ => decide (h < 1024) && decide (n < 4)
  | .ltermWrite h _ => decide (h < 1024)
  | .rtcoreWrite h _ => decide (h < 1024)
  | .rtqPop h => decide (h < 1024)
  | .rtmigGo h _ => decide (h < 1024)
  | .rtmigEnd h _ => decide (h < 1024)
  | .migrationGranule => true
  | .elstatClear h _ => decide (h < 1024)
  | .pmcWrite h n _ => decide (h < 1024) && decide (n < 8)
  | .energyWrite h _ => decide (h < 1024)
  | .smpcfgWrite h _ _ => decide (h < 1024)
  | .sampleTraceAcquireRead h _ => decide (h < 1024)
  | .sampleRecordWrite h => decide (h < 1024)
  | .traceRecordWrite h => decide (h < 1024)
  | .stopFire h => decide (h < 1024)
  | .genericRegisterWrite h _ _ => decide (h < 1024)
  | .registerParityReplay h r => decide (h < 1024) && decide (r < 2 ^ 16)
  | .laneReexecute h r e => decide (h < 1024) && decide (r < 71) && decide (e < 2048)
  | .protectedModeMismatch h e => decide (h < 1024) && decide (e < 128)
  | .scrubRead l _ => decide (l < 15)
  | .l2EvictionPoison _ => true
  | .cxlMemRequest _ _ n => decide (n < 65)
  | .hostSnoop a => decide (a.data.length < 65)
  | .cxlIdeFailure => true
  | .flitReceive p _ => decide (p < 16)
  | .peerMessageReceive p k _ _ _ _ => decide (p < 16) && decide (k < 13)
  | .keyEpochChange p => decide (p < 16)
  | .idleFlitSend p => decide (p < 16)
  | .portLivenessExpiry p => decide (p < 16)
  | .portTrainUp p n w => decide (p < 16) && decide (n < 65536) && decide (w < 9)
  | .inboundRequest p k _ n _ => decide (p < 16) && decide (k < 12) && decide (n < 65)
  | .remoteResponse h _ k => decide (h < 1024) && decide (k < 3)
  | .powerOnReset _ _ _ _ => true
  | .stackTraining x k => decide (x < 8) && decide (k < 2)
  | .fullServiceEntry => true
  | .quote _ => true
  | .pubkeys => true
  | .keyload _ _ _ => true
  | .keyclr _ => true
  | .extend _ _ => true
  | .event => true
  | .reply n _ => decide (n < 65536)
  | .state => true
  | .hostAssistEvent _ => true
  | .powerThrottle => true
  | .tlbInvalidationComplete _ => true
  | .hostLinkTrained w => decide (w < 17)
  | .unknownMailboxCode _ => true
  | .counterOverflow _ n => decide (n < 8)
  | .drawBelowLimit => true

/-- The same as a proposition, for statements. -/
abbrev Instr.WellFormed (i : Instr) : Prop := i.wellFormed = true

end Sys2Proof
end

