-- ==== Sys2Proof/Decode.lean ====
section
/-!
DEFINITION. Decoding a 32-bit instruction word (R9 to R37) and, after it, encoding.
Decoding is total on any bytes. It rejects by name: an unassigned opcode, an unassigned function, a nonzero
must-be-zero field, a reserved field code (R20, R42). The Nat n below is the word's value.
-/
namespace Sys2Proof

/-- Why a word is not an instruction (R20, R42). -/
inductive DecodeError where
  /-- the opcode is not in the map (R20) -/
  | unassignedOpcode
  /-- the FN, function or kind value is beyond its family's list (R20) -/
  | unassignedFunction
  /-- a must-be-zero, unused or reserved bit is 1 (R42) -/
  | mustBeZero
  /-- a field holds a reserved code, or names m0 as a mask destination (R14, R24, R26, R27, R33, R35) -/
  | reservedCode
  /-- fewer bytes than a word -/
  | shortWord
  deriving DecidableEq, Repr

/-- The field of k bits of the word n that starts at bit lo. -/
def field (n lo k : Nat) : BitVec k := BitVec.ofNat k (n / 2 ^ lo)

/-- The number in bits lo to lo + k - 1 of the word n. -/
def bitsOf (n lo k : Nat) : Nat := n / 2 ^ lo % 2 ^ k

/-- The instruction, once its must-be-zero bits are zero. -/
def whenZero (zero : Bool) (i : Instr) : Except DecodeError Instr :=
  if zero then .ok i else .error .mustBeZero

/-! Decoding builds constructors whose runtime tag is above the limit of Lean's runtime (244): no code can be generated
for it, so it is marked noncomputable. It is an ordinary definition that the kernel evaluates. -/
noncomputable section

/-- Opcode 0x01: ADD, SUB, AND, OR, …. -/
def decodeOp01 (n : Nat) : Except DecodeError Instr :=
  match bitsOf n 24 8 with
  | 0 => .ok (.add (field n 23 1) (field n 22 1) (field n 17 5) (field n 12 5) (field n 7 5))
  | 1 => .ok (.sub (field n 23 1) (field n 22 1) (field n 17 5) (field n 12 5) (field n 7 5))
  | 2 => .ok (.and (field n 23 1) (field n 22 1) (field n 17 5) (field n 12 5) (field n 7 5))
  | 3 => .ok (.or (field n 23 1) (field n 22 1) (field n 17 5) (field n 12 5) (field n 7 5))
  | 4 => .ok (.xor (field n 23 1) (field n 22 1) (field n 17 5) (field n 12 5) (field n 7 5))
  | 5 => .ok (.sll (field n 23 1) (field n 22 1) (field n 17 5) (field n 12 5) (field n 7 5))
  | 6 => .ok (.srl (field n 23 1) (field n 22 1) (field n 17 5) (field n 12 5) (field n 7 5))
  | 7 => .ok (.sra (field n 23 1) (field n 22 1) (field n 17 5) (field n 12 5) (field n 7 5))
  | 8 => .ok (.mul (field n 23 1) (field n 22 1) (field n 17 5) (field n 12 5) (field n 7 5))
  | 9 => .ok (.mulh (field n 23 1) (field n 22 1) (field n 17 5) (field n 12 5) (field n 7 5))
  | 10 => .ok (.mulhu (field n 23 1) (field n 22 1) (field n 17 5) (field n 12 5) (field n 7 5))
  | 11 => .ok (.div (field n 23 1) (field n 22 1) (field n 17 5) (field n 12 5) (field n 7 5))
  | 12 => .ok (.divu (field n 23 1) (field n 22 1) (field n 17 5) (field n 12 5) (field n 7 5))
  | 13 => .ok (.rem (field n 23 1) (field n 22 1) (field n 17 5) (field n 12 5) (field n 7 5))
  | 14 => .ok (.remu (field n 23 1) (field n 22 1) (field n 17 5) (field n 12 5) (field n 7 5))
  | 15 => .ok (.min (field n 23 1) (field n 22 1) (field n 17 5) (field n 12 5) (field n 7 5))
  | 16 => .ok (.max (field n 23 1) (field n 22 1) (field n 17 5) (field n 12 5) (field n 7 5))
  | 17 => .ok (.minu (field n 23 1) (field n 22 1) (field n 17 5) (field n 12 5) (field n 7 5))
  | 18 => .ok (.maxu (field n 23 1) (field n 22 1) (field n 17 5) (field n 12 5) (field n 7 5))
  | 19 => whenZero (bitsOf n 17 5 == 0 && bitsOf n 23 1 == 0) (.clz (field n 22 1) (field n 12 5) (field n 7 5))
  | 20 => whenZero (bitsOf n 17 5 == 0 && bitsOf n 23 1 == 0) (.ctz (field n 22 1) (field n 12 5) (field n 7 5))
  | 21 => whenZero (bitsOf n 17 5 == 0 && bitsOf n 23 1 == 0) (.pop (field n 22 1) (field n 12 5) (field n 7 5))
  | 22 => .ok (.rng (field n 23 1) (field n 22 1) (field n 17 5) (field n 12 5) (field n 7 5))
  | _ => .error .unassignedFunction

/-- Opcode 0x02: ADDI. -/
def decodeOp02 (n : Nat) : Except DecodeError Instr :=
  .ok (.addi (field n 18 14) (field n 17 1) (field n 12 5) (field n 7 5))

/-- Opcode 0x03: ANDI. -/
def decodeOp03 (n : Nat) : Except DecodeError Instr :=
  .ok (.andi (field n 18 14) (field n 17 1) (field n 12 5) (field n 7 5))

/-- Opcode 0x04: ORI. -/
def decodeOp04 (n : Nat) : Except DecodeError Instr :=
  .ok (.ori (field n 18 14) (field n 17 1) (field n 12 5) (field n 7 5))

/-- Opcode 0x05: XORI. -/
def decodeOp05 (n : Nat) : Except DecodeError Instr :=
  .ok (.xori (field n 18 14) (field n 17 1) (field n 12 5) (field n 7 5))

/-- Opcode 0x06: SLLI. -/
def decodeOp06 (n : Nat) : Except DecodeError Instr :=
  whenZero (bitsOf n 24 8 == 0) (.slli (field n 18 6) (field n 17 1) (field n 12 5) (field n 7 5))

/-- Opcode 0x07: SRLI. -/
def decodeOp07 (n : Nat) : Except DecodeError Instr :=
  whenZero (bitsOf n 24 8 == 0) (.srli (field n 18 6) (field n 17 1) (field n 12 5) (field n 7 5))

/-- Opcode 0x08: SRAI. -/
def decodeOp08 (n : Nat) : Except DecodeError Instr :=
  whenZero (bitsOf n 24 8 == 0) (.srai (field n 18 6) (field n 17 1) (field n 12 5) (field n 7 5))

/-- Opcode 0x09: LUI. -/
def decodeOp09 (n : Nat) : Except DecodeError Instr :=
  .ok (.lui (field n 12 20) (field n 7 5))

/-- Opcode 0x0A: ADR. -/
def decodeOp0A (n : Nat) : Except DecodeError Instr :=
  .ok (.adr (field n 12 20) (field n 7 5))

/-- Opcode 0x0B: CMP_EQ, CMP_NE, CMP_LT, CMP_LTU, …. -/
def decodeOp0B (n : Nat) : Except DecodeError Instr :=
  match bitsOf n 24 8 with
  | 0 => whenZero (bitsOf n 10 2 == 0) (.cmpEq (field n 23 1) (field n 22 1) (field n 17 5) (field n 12 5) (field n 7 3))
  | 1 => whenZero (bitsOf n 10 2 == 0) (.cmpNe (field n 23 1) (field n 22 1) (field n 17 5) (field n 12 5) (field n 7 3))
  | 2 => whenZero (bitsOf n 10 2 == 0) (.cmpLt (field n 23 1) (field n 22 1) (field n 17 5) (field n 12 5) (field n 7 3))
  | 3 => whenZero (bitsOf n 10 2 == 0) (.cmpLtu (field n 23 1) (field n 22 1) (field n 17 5) (field n 12 5) (field n 7 3))
  | 4 => whenZero (bitsOf n 10 2 == 0) (.feqD (field n 23 1) (field n 22 1) (field n 17 5) (field n 12 5) (field n 7 3))
  | 5 => whenZero (bitsOf n 10 2 == 0) (.fltD (field n 23 1) (field n 22 1) (field n 17 5) (field n 12 5) (field n 7 3))
  | 6 => whenZero (bitsOf n 10 2 == 0) (.fleD (field n 23 1) (field n 22 1) (field n 17 5) (field n 12 5) (field n 7 3))
  | 7 => whenZero (bitsOf n 10 2 == 0) (.funD (field n 23 1) (field n 22 1) (field n 17 5) (field n 12 5) (field n 7 3))
  | 8 => whenZero (bitsOf n 10 2 == 0) (.feqS (field n 23 1) (field n 22 1) (field n 17 5) (field n 12 5) (field n 7 3))
  | 9 => whenZero (bitsOf n 10 2 == 0) (.fltS (field n 23 1) (field n 22 1) (field n 17 5) (field n 12 5) (field n 7 3))
  | 10 => whenZero (bitsOf n 10 2 == 0) (.fleS (field n 23 1) (field n 22 1) (field n 17 5) (field n 12 5) (field n 7 3))
  | 11 => whenZero (bitsOf n 10 2 == 0) (.funS (field n 23 1) (field n 22 1) (field n 17 5) (field n 12 5) (field n 7 3))
  | _ => .error .unassignedFunction

/-- Opcode 0x0C: CMPI_EQ, CMPI_NE, CMPI_LT, CMPI_LTU. -/
def decodeOp0C (n : Nat) : Except DecodeError Instr :=
  match bitsOf n 10 2 with
  | 0 => .ok (.cmpiEq (field n 18 14) (field n 17 1) (field n 12 5) (field n 7 3))
  | 1 => .ok (.cmpiNe (field n 18 14) (field n 17 1) (field n 12 5) (field n 7 3))
  | 2 => .ok (.cmpiLt (field n 18 14) (field n 17 1) (field n 12 5) (field n 7 3))
  | _ => .ok (.cmpiLtu (field n 18 14) (field n 17 1) (field n 12 5) (field n 7 3))

/-- Opcode 0x0D: KAND, KOR, KXOR, KSET, …. -/
def decodeOp0D (n : Nat) : Except DecodeError Instr :=
  match bitsOf n 24 8 with
  | 0 => whenZero (bitsOf n 10 2 == 0 && bitsOf n 15 2 == 0 && bitsOf n 20 2 == 0) (.kand (field n 23 1) (field n 22 1) (field n 17 3) (field n 12 3) (field n 7 3))
  | 1 => whenZero (bitsOf n 10 2 == 0 && bitsOf n 15 2 == 0 && bitsOf n 20 2 == 0) (.kor (field n 23 1) (field n 22 1) (field n 17 3) (field n 12 3) (field n 7 3))
  | 2 => whenZero (bitsOf n 10 2 == 0 && bitsOf n 15 2 == 0 && bitsOf n 20 2 == 0) (.kxor (field n 23 1) (field n 22 1) (field n 17 3) (field n 12 3) (field n 7 3))
  | 3 => whenZero (bitsOf n 10 2 == 0 && bitsOf n 17 5 == 0 && bitsOf n 23 1 == 0) (.kset (field n 22 1) (field n 12 5) (field n 7 3))
  | 4 => whenZero (bitsOf n 15 7 == 0 && bitsOf n 23 1 == 0) (.kget (field n 22 1) (field n 12 3) (field n 7 5))
  | _ => .error .unassignedFunction

/-- Opcode 0x10: FADD_D, FSUB_D, FMUL_D, FDIV_D, …. -/
def decodeOp10 (n : Nat) : Except DecodeError Instr :=
  match bitsOf n 24 8 with
  | 0 => .ok (.faddD (field n 23 1) (field n 22 1) (field n 17 5) (field n 12 5) (field n 7 5))
  | 1 => .ok (.fsubD (field n 23 1) (field n 22 1) (field n 17 5) (field n 12 5) (field n 7 5))
  | 2 => .ok (.fmulD (field n 23 1) (field n 22 1) (field n 17 5) (field n 12 5) (field n 7 5))
  | 3 => .ok (.fdivD (field n 23 1) (field n 22 1) (field n 17 5) (field n 12 5) (field n 7 5))
  | 4 => whenZero (bitsOf n 17 5 == 0 && bitsOf n 23 1 == 0) (.fsqrtD (field n 22 1) (field n 12 5) (field n 7 5))
  | 5 => .ok (.fminD (field n 23 1) (field n 22 1) (field n 17 5) (field n 12 5) (field n 7 5))
  | 6 => .ok (.fmaxD (field n 23 1) (field n 22 1) (field n 17 5) (field n 12 5) (field n 7 5))
  | 7 => .ok (.faddS (field n 23 1) (field n 22 1) (field n 17 5) (field n 12 5) (field n 7 5))
  | 8 => .ok (.fsubS (field n 23 1) (field n 22 1) (field n 17 5) (field n 12 5) (field n 7 5))
  | 9 => .ok (.fmulS (field n 23 1) (field n 22 1) (field n 17 5) (field n 12 5) (field n 7 5))
  | 10 => .ok (.fdivS (field n 23 1) (field n 22 1) (field n 17 5) (field n 12 5) (field n 7 5))
  | 11 => whenZero (bitsOf n 17 5 == 0 && bitsOf n 23 1 == 0) (.fsqrtS (field n 22 1) (field n 12 5) (field n 7 5))
  | 12 => .ok (.fminS (field n 23 1) (field n 22 1) (field n 17 5) (field n 12 5) (field n 7 5))
  | 13 => .ok (.fmaxS (field n 23 1) (field n 22 1) (field n 17 5) (field n 12 5) (field n 7 5))
  | 14 => whenZero (bitsOf n 17 5 == 0 && bitsOf n 23 1 == 0) (.cvtDL (field n 22 1) (field n 12 5) (field n 7 5))
  | 15 => whenZero (bitsOf n 17 5 == 0 && bitsOf n 23 1 == 0) (.cvtLD (field n 22 1) (field n 12 5) (field n 7 5))
  | 16 => whenZero (bitsOf n 17 5 == 0 && bitsOf n 23 1 == 0) (.cvtSL (field n 22 1) (field n 12 5) (field n 7 5))
  | 17 => whenZero (bitsOf n 17 5 == 0 && bitsOf n 23 1 == 0) (.cvtLS (field n 22 1) (field n 12 5) (field n 7 5))
  | 18 => whenZero (bitsOf n 17 5 == 0 && bitsOf n 23 1 == 0) (.cvtDS (field n 22 1) (field n 12 5) (field n 7 5))
  | 19 => whenZero (bitsOf n 17 5 == 0 && bitsOf n 23 1 == 0) (.cvtSD (field n 22 1) (field n 12 5) (field n 7 5))
  | _ => .error .unassignedFunction

/-- Opcode 0x11: FMADD_D, FMSUB_D, FMADD_S, FMSUB_S. -/
def decodeOp11 (n : Nat) : Except DecodeError Instr :=
  match bitsOf n 30 2 with
  | 0 => whenZero (bitsOf n 27 3 == 0) (.fmaddD (field n 22 5) (field n 17 5) (field n 12 5) (field n 7 5))
  | 1 => whenZero (bitsOf n 27 3 == 0) (.fmsubD (field n 22 5) (field n 17 5) (field n 12 5) (field n 7 5))
  | 2 => whenZero (bitsOf n 27 3 == 0) (.fmaddS (field n 22 5) (field n 17 5) (field n 12 5) (field n 7 5))
  | _ => whenZero (bitsOf n 27 3 == 0) (.fmsubS (field n 22 5) (field n 17 5) (field n 12 5) (field n 7 5))

/-- Opcode 0x20: B_K, B_NK. -/
def decodeOp20 (n : Nat) : Except DecodeError Instr :=
  match bitsOf n 10 1 with
  | 0 => .ok (.bK (field n 12 20) (field n 11 1) (field n 7 3))
  | _ => .ok (.bNk (field n 12 20) (field n 11 1) (field n 7 3))

/-- Opcode 0x21: JAL. -/
def decodeOp21 (n : Nat) : Except DecodeError Instr :=
  .ok (.jal (field n 12 20) (field n 7 5))

/-- Opcode 0x22: JALR. -/
def decodeOp22 (n : Nat) : Except DecodeError Instr :=
  .ok (.jalr (field n 18 14) (field n 17 1) (field n 12 5) (field n 7 5))

/-- Opcode 0x28: LD_B. -/
def decodeOp28 (n : Nat) : Except DecodeError Instr :=
  whenZero (bitsOf n 20 2 == 0) (.ldB (field n 22 10) (field n 18 2) (field n 17 1) (field n 12 5) (field n 7 5))

/-- Opcode 0x29: LD_BU. -/
def decodeOp29 (n : Nat) : Except DecodeError Instr :=
  whenZero (bitsOf n 20 2 == 0) (.ldBu (field n 22 10) (field n 18 2) (field n 17 1) (field n 12 5) (field n 7 5))

/-- Opcode 0x2A: LD_H. -/
def decodeOp2A (n : Nat) : Except DecodeError Instr :=
  whenZero (bitsOf n 20 2 == 0) (.ldH (field n 22 10) (field n 18 2) (field n 17 1) (field n 12 5) (field n 7 5))

/-- Opcode 0x2B: LD_HU. -/
def decodeOp2B (n : Nat) : Except DecodeError Instr :=
  whenZero (bitsOf n 20 2 == 0) (.ldHu (field n 22 10) (field n 18 2) (field n 17 1) (field n 12 5) (field n 7 5))

/-- Opcode 0x2C: LD_W. -/
def decodeOp2C (n : Nat) : Except DecodeError Instr :=
  whenZero (bitsOf n 20 2 == 0) (.ldW (field n 22 10) (field n 18 2) (field n 17 1) (field n 12 5) (field n 7 5))

/-- Opcode 0x2D: LD_WU. -/
def decodeOp2D (n : Nat) : Except DecodeError Instr :=
  whenZero (bitsOf n 20 2 == 0) (.ldWu (field n 22 10) (field n 18 2) (field n 17 1) (field n 12 5) (field n 7 5))

/-- Opcode 0x2E: LD_D. -/
def decodeOp2E (n : Nat) : Except DecodeError Instr :=
  whenZero (bitsOf n 20 2 == 0) (.ldD (field n 22 10) (field n 18 2) (field n 17 1) (field n 12 5) (field n 7 5))

/-- Opcode 0x30: ST_B. -/
def decodeOp30 (n : Nat) : Except DecodeError Instr :=
  whenZero (bitsOf n 20 2 == 0) (.stB (field n 22 10) (field n 18 2) (field n 17 1) (field n 12 5) (field n 7 5))

/-- Opcode 0x31: ST_H. -/
def decodeOp31 (n : Nat) : Except DecodeError Instr :=
  whenZero (bitsOf n 20 2 == 0) (.stH (field n 22 10) (field n 18 2) (field n 17 1) (field n 12 5) (field n 7 5))

/-- Opcode 0x32: ST_W. -/
def decodeOp32 (n : Nat) : Except DecodeError Instr :=
  whenZero (bitsOf n 20 2 == 0) (.stW (field n 22 10) (field n 18 2) (field n 17 1) (field n 12 5) (field n 7 5))

/-- Opcode 0x33: ST_D. -/
def decodeOp33 (n : Nat) : Except DecodeError Instr :=
  whenZero (bitsOf n 20 2 == 0) (.stD (field n 22 10) (field n 18 2) (field n 17 1) (field n 12 5) (field n 7 5))

/-- Opcode 0x34: AMO_ADD_W, AMO_ADD_D, AMO_MIN_D, AMO_MAX_D, …. -/
def decodeOp34 (n : Nat) : Except DecodeError Instr :=
  match bitsOf n 24 5 with
  | 0 => .ok (.amoAddW (field n 29 3) (field n 23 1) (field n 22 1) (field n 17 5) (field n 12 5) (field n 7 5))
  | 1 => .ok (.amoAddD (field n 29 3) (field n 23 1) (field n 22 1) (field n 17 5) (field n 12 5) (field n 7 5))
  | 2 => .ok (.amoMinD (field n 29 3) (field n 23 1) (field n 22 1) (field n 17 5) (field n 12 5) (field n 7 5))
  | 3 => .ok (.amoMaxD (field n 29 3) (field n 23 1) (field n 22 1) (field n 17 5) (field n 12 5) (field n 7 5))
  | 4 => .ok (.amoMinuD (field n 29 3) (field n 23 1) (field n 22 1) (field n 17 5) (field n 12 5) (field n 7 5))
  | 5 => .ok (.amoMaxuD (field n 29 3) (field n 23 1) (field n 22 1) (field n 17 5) (field n 12 5) (field n 7 5))
  | 6 => .ok (.amoSwapD (field n 29 3) (field n 23 1) (field n 22 1) (field n 17 5) (field n 12 5) (field n 7 5))
  | 7 => .ok (.amoCasD (field n 29 3) (field n 23 1) (field n 22 1) (field n 17 5) (field n 12 5) (field n 7 5))
  | 8 => .ok (.amoFaddS (field n 29 3) (field n 23 1) (field n 22 1) (field n 17 5) (field n 12 5) (field n 7 5))
  | 9 => .ok (.amoFaddD (field n 29 3) (field n 23 1) (field n 22 1) (field n 17 5) (field n 12 5) (field n 7 5))
  | _ => .error .unassignedFunction

/-- Opcode 0x35: SBAR. -/
def decodeOp35 (n : Nat) : Except DecodeError Instr :=
  whenZero (bitsOf n 26 6 == 0) (.sbar (field n 23 3) (field n 7 16))

/-- Opcode 0x36: FENCE. -/
def decodeOp36 (n : Nat) : Except DecodeError Instr :=
  whenZero (bitsOf n 10 22 == 0) (.fence (field n 7 3))

/-- Opcode 0x37: GSYNC, GARRIVE, GWAIT. -/
def decodeOp37 (n : Nat) : Except DecodeError Instr :=
  match bitsOf n 18 2 with
  | 0 => whenZero (bitsOf n 20 12 == 0) (.gsync (field n 15 3) (field n 7 8))
  | 1 => whenZero (bitsOf n 20 12 == 0) (.garrive (field n 15 3) (field n 7 8))
  | 2 => whenZero (bitsOf n 20 12 == 0) (.gwait (field n 15 3) (field n 7 8))
  | _ => .error .unassignedFunction

/-- Opcode 0x38: CRD. -/
def decodeOp38 (n : Nat) : Except DecodeError Instr :=
  whenZero (bitsOf n 12 6 == 0 && bitsOf n 30 2 == 0) (.crd (field n 18 12) (field n 7 5))

/-- Opcode 0x39: CWR. -/
def decodeOp39 (n : Nat) : Except DecodeError Instr :=
  whenZero (bitsOf n 30 2 == 0) (.cwr (field n 18 12) (field n 17 1) (field n 12 5) (field n 7 5))

/-- Opcode 0x3A: TRAP, TRET, HALT, IDLE, …. -/
def decodeOp3A (n : Nat) : Except DecodeError Instr :=
  match bitsOf n 7 5 with
  | 0 => .ok (.trap (field n 12 20))
  | 1 => whenZero (bitsOf n 12 20 == 0) (.tret)
  | 2 => whenZero (bitsOf n 12 20 == 0) (.halt)
  | 3 => whenZero (bitsOf n 12 20 == 0) (.idle)
  | 4 => whenZero (bitsOf n 12 20 == 0) (.brk)
  | 5 => whenZero (bitsOf n 12 20 == 0) (.yield)
  | _ => .error .unassignedFunction

/-- Opcode 0x3B: L1INV, L2WB, TLBINV, TLBSYNC. -/
def decodeOp3B (n : Nat) : Except DecodeError Instr :=
  match bitsOf n 24 8 with
  | 0 => whenZero (bitsOf n 7 5 == 0 && bitsOf n 17 5 == 0 && bitsOf n 23 1 == 0) (.l1inv (field n 22 1) (field n 12 5))
  | 1 => whenZero (bitsOf n 7 5 == 0 && bitsOf n 17 5 == 0 && bitsOf n 23 1 == 0) (.l2wb (field n 22 1) (field n 12 5))
  | 2 => whenZero (bitsOf n 7 5 == 0 && bitsOf n 17 5 == 0 && bitsOf n 23 1 == 0) (.tlbinv (field n 22 1) (field n 12 5))
  | 3 => whenZero (bitsOf n 7 17 == 0) (.tlbsync)
  | _ => .error .unassignedFunction

/-- Opcode 0x3C: SETLEN, SETROWS, SETFMT, VDRAIN, …. -/
def decodeOp3C (n : Nat) : Except DecodeError Instr :=
  match bitsOf n 24 8 with
  | 0 => .ok (.setlen (field n 23 1) (field n 22 1) (field n 17 5) (field n 12 5) (field n 7 5))
  | 1 => whenZero (bitsOf n 17 5 == 0 && bitsOf n 23 1 == 0) (.setrows (field n 22 1) (field n 12 5) (field n 7 5))
  | 2 => whenZero (bitsOf n 17 5 == 0 && bitsOf n 23 1 == 0) (.setfmt (field n 22 1) (field n 12 5) (field n 7 5))
  | 3 => whenZero (bitsOf n 7 17 == 0) (.vdrain)
  | 4 => whenZero (bitsOf n 12 12 == 0) (.vstat (field n 7 5))
  | 5 => whenZero (bitsOf n 7 5 == 0) (.hwpub (field n 23 1) (field n 22 1) (field n 17 5) (field n 12 5))
  | _ => .error .unassignedFunction

/-- Opcode 0x3D: SETFMTI. -/
def decodeOp3D (n : Nat) : Except DecodeError Instr :=
  whenZero (bitsOf n 12 6 == 0 && bitsOf n 31 1 == 0) (.setfmti (field n 18 13) (field n 7 5))

/-- Opcode 0x3E: VBLK. -/
def decodeOp3E (n : Nat) : Except DecodeError Instr :=
  whenZero (bitsOf n 7 5 == 0) (.vblk (field n 12 20))

/-- Opcode 0x40: VINT_ADD, VINT_SUB, VINT_MUL, VINT_MULH, …. -/
def decodeOp40 (n : Nat) : Except DecodeError Instr :=
  match bitsOf n 27 5 with
  | 0 => .ok (.vintAdd (field n 26 1) (field n 25 1) (field n 22 3) (field n 17 5) (field n 12 5) (field n 7 5))
  | 1 => .ok (.vintSub (field n 26 1) (field n 25 1) (field n 22 3) (field n 17 5) (field n 12 5) (field n 7 5))
  | 2 => .ok (.vintMul (field n 26 1) (field n 25 1) (field n 22 3) (field n 17 5) (field n 12 5) (field n 7 5))
  | 3 => .ok (.vintMulh (field n 26 1) (field n 25 1) (field n 22 3) (field n 17 5) (field n 12 5) (field n 7 5))
  | 4 => .ok (.vintMulhu (field n 26 1) (field n 25 1) (field n 22 3) (field n 17 5) (field n 12 5) (field n 7 5))
  | 5 => .ok (.vintMin (field n 26 1) (field n 25 1) (field n 22 3) (field n 17 5) (field n 12 5) (field n 7 5))
  | 6 => .ok (.vintMax (field n 26 1) (field n 25 1) (field n 22 3) (field n 17 5) (field n 12 5) (field n 7 5))
  | 7 => .ok (.vintMinu (field n 26 1) (field n 25 1) (field n 22 3) (field n 17 5) (field n 12 5) (field n 7 5))
  | 8 => .ok (.vintMaxu (field n 26 1) (field n 25 1) (field n 22 3) (field n 17 5) (field n 12 5) (field n 7 5))
  | 9 => .ok (.vintAnd (field n 26 1) (field n 25 1) (field n 22 3) (field n 17 5) (field n 12 5) (field n 7 5))
  | 10 => .ok (.vintOr (field n 26 1) (field n 25 1) (field n 22 3) (field n 17 5) (field n 12 5) (field n 7 5))
  | 11 => .ok (.vintXor (field n 26 1) (field n 25 1) (field n 22 3) (field n 17 5) (field n 12 5) (field n 7 5))
  | 12 => .ok (.vintSll (field n 26 1) (field n 25 1) (field n 22 3) (field n 17 5) (field n 12 5) (field n 7 5))
  | 13 => .ok (.vintSrl (field n 26 1) (field n 25 1) (field n 22 3) (field n 17 5) (field n 12 5) (field n 7 5))
  | 14 => .ok (.vintSra (field n 26 1) (field n 25 1) (field n 22 3) (field n 17 5) (field n 12 5) (field n 7 5))
  | 15 => .ok (.vintAdds (field n 26 1) (field n 25 1) (field n 22 3) (field n 17 5) (field n 12 5) (field n 7 5))
  | 16 => .ok (.vintSubs (field n 26 1) (field n 25 1) (field n 22 3) (field n 17 5) (field n 12 5) (field n 7 5))
  | 17 => .ok (.vintAddsu (field n 26 1) (field n 25 1) (field n 22 3) (field n 17 5) (field n 12 5) (field n 7 5))
  | 18 => .ok (.vintSubsu (field n 26 1) (field n 25 1) (field n 22 3) (field n 17 5) (field n 12 5) (field n 7 5))
  | 19 => whenZero (bitsOf n 12 5 == 0 && bitsOf n 25 1 == 0) (.vintMov (field n 26 1) (field n 22 3) (field n 17 5) (field n 7 5))
  | _ => .error .unassignedFunction

/-- Opcode 0x41: VINT_G_ADD, VINT_G_SUB, VINT_G_MUL, VINT_G_MULH, …. -/
def decodeOp41 (n : Nat) : Except DecodeError Instr :=
  match bitsOf n 27 5 with
  | 0 => whenZero (bitsOf n 20 2 == 0) (.vintGAdd (field n 26 1) (field n 25 1) (field n 22 3) (field n 17 3) (field n 12 5) (field n 7 5))
  | 1 => whenZero (bitsOf n 20 2 == 0) (.vintGSub (field n 26 1) (field n 25 1) (field n 22 3) (field n 17 3) (field n 12 5) (field n 7 5))
  | 2 => whenZero (bitsOf n 20 2 == 0) (.vintGMul (field n 26 1) (field n 25 1) (field n 22 3) (field n 17 3) (field n 12 5) (field n 7 5))
  | 3 => whenZero (bitsOf n 20 2 == 0) (.vintGMulh (field n 26 1) (field n 25 1) (field n 22 3) (field n 17 3) (field n 12 5) (field n 7 5))
  | 4 => whenZero (bitsOf n 20 2 == 0) (.vintGMulhu (field n 26 1) (field n 25 1) (field n 22 3) (field n 17 3) (field n 12 5) (field n 7 5))
  | 5 => whenZero (bitsOf n 20 2 == 0) (.vintGMin (field n 26 1) (field n 25 1) (field n 22 3) (field n 17 3) (field n 12 5) (field n 7 5))
  | 6 => whenZero (bitsOf n 20 2 == 0) (.vintGMax (field n 26 1) (field n 25 1) (field n 22 3) (field n 17 3) (field n 12 5) (field n 7 5))
  | 7 => whenZero (bitsOf n 20 2 == 0) (.vintGMinu (field n 26 1) (field n 25 1) (field n 22 3) (field n 17 3) (field n 12 5) (field n 7 5))
  | 8 => whenZero (bitsOf n 20 2 == 0) (.vintGMaxu (field n 26 1) (field n 25 1) (field n 22 3) (field n 17 3) (field n 12 5) (field n 7 5))
  | 9 => whenZero (bitsOf n 20 2 == 0) (.vintGAnd (field n 26 1) (field n 25 1) (field n 22 3) (field n 17 3) (field n 12 5) (field n 7 5))
  | 10 => whenZero (bitsOf n 20 2 == 0) (.vintGOr (field n 26 1) (field n 25 1) (field n 22 3) (field n 17 3) (field n 12 5) (field n 7 5))
  | 11 => whenZero (bitsOf n 20 2 == 0) (.vintGXor (field n 26 1) (field n 25 1) (field n 22 3) (field n 17 3) (field n 12 5) (field n 7 5))
  | 12 => whenZero (bitsOf n 20 2 == 0) (.vintGSll (field n 26 1) (field n 25 1) (field n 22 3) (field n 17 3) (field n 12 5) (field n 7 5))
  | 13 => whenZero (bitsOf n 20 2 == 0) (.vintGSrl (field n 26 1) (field n 25 1) (field n 22 3) (field n 17 3) (field n 12 5) (field n 7 5))
  | 14 => whenZero (bitsOf n 20 2 == 0) (.vintGSra (field n 26 1) (field n 25 1) (field n 22 3) (field n 17 3) (field n 12 5) (field n 7 5))
  | 15 => whenZero (bitsOf n 20 2 == 0) (.vintGAdds (field n 26 1) (field n 25 1) (field n 22 3) (field n 17 3) (field n 12 5) (field n 7 5))
  | 16 => whenZero (bitsOf n 20 2 == 0) (.vintGSubs (field n 26 1) (field n 25 1) (field n 22 3) (field n 17 3) (field n 12 5) (field n 7 5))
  | 17 => whenZero (bitsOf n 20 2 == 0) (.vintGAddsu (field n 26 1) (field n 25 1) (field n 22 3) (field n 17 3) (field n 12 5) (field n 7 5))
  | 18 => whenZero (bitsOf n 20 2 == 0) (.vintGSubsu (field n 26 1) (field n 25 1) (field n 22 3) (field n 17 3) (field n 12 5) (field n 7 5))
  | 19 => whenZero (bitsOf n 12 5 == 0 && bitsOf n 20 2 == 0 && bitsOf n 25 1 == 0) (.vintGMov (field n 26 1) (field n 22 3) (field n 17 3) (field n 7 5))
  | _ => .error .unassignedFunction

/-- Opcode 0x42: VINT_I_ADD, VINT_I_SUB, VINT_I_MUL, VINT_I_MULH, …. -/
def decodeOp42 (n : Nat) : Except DecodeError Instr :=
  match bitsOf n 27 5 with
  | 0 => .ok (.vintIAdd (field n 26 1) (field n 25 1) (field n 22 3) (field n 17 5) (field n 12 5) (field n 7 5))
  | 1 => .ok (.vintISub (field n 26 1) (field n 25 1) (field n 22 3) (field n 17 5) (field n 12 5) (field n 7 5))
  | 2 => .ok (.vintIMul (field n 26 1) (field n 25 1) (field n 22 3) (field n 17 5) (field n 12 5) (field n 7 5))
  | 3 => .ok (.vintIMulh (field n 26 1) (field n 25 1) (field n 22 3) (field n 17 5) (field n 12 5) (field n 7 5))
  | 4 => .ok (.vintIMulhu (field n 26 1) (field n 25 1) (field n 22 3) (field n 17 5) (field n 12 5) (field n 7 5))
  | 5 => .ok (.vintIMin (field n 26 1) (field n 25 1) (field n 22 3) (field n 17 5) (field n 12 5) (field n 7 5))
  | 6 => .ok (.vintIMax (field n 26 1) (field n 25 1) (field n 22 3) (field n 17 5) (field n 12 5) (field n 7 5))
  | 7 => .ok (.vintIMinu (field n 26 1) (field n 25 1) (field n 22 3) (field n 17 5) (field n 12 5) (field n 7 5))
  | 8 => .ok (.vintIMaxu (field n 26 1) (field n 25 1) (field n 22 3) (field n 17 5) (field n 12 5) (field n 7 5))
  | 9 => .ok (.vintIAnd (field n 26 1) (field n 25 1) (field n 22 3) (field n 17 5) (field n 12 5) (field n 7 5))
  | 10 => .ok (.vintIOr (field n 26 1) (field n 25 1) (field n 22 3) (field n 17 5) (field n 12 5) (field n 7 5))
  | 11 => .ok (.vintIXor (field n 26 1) (field n 25 1) (field n 22 3) (field n 17 5) (field n 12 5) (field n 7 5))
  | 12 => .ok (.vintISll (field n 26 1) (field n 25 1) (field n 22 3) (field n 17 5) (field n 12 5) (field n 7 5))
  | 13 => .ok (.vintISrl (field n 26 1) (field n 25 1) (field n 22 3) (field n 17 5) (field n 12 5) (field n 7 5))
  | 14 => .ok (.vintISra (field n 26 1) (field n 25 1) (field n 22 3) (field n 17 5) (field n 12 5) (field n 7 5))
  | 15 => .ok (.vintIAdds (field n 26 1) (field n 25 1) (field n 22 3) (field n 17 5) (field n 12 5) (field n 7 5))
  | 16 => .ok (.vintISubs (field n 26 1) (field n 25 1) (field n 22 3) (field n 17 5) (field n 12 5) (field n 7 5))
  | 17 => .ok (.vintIAddsu (field n 26 1) (field n 25 1) (field n 22 3) (field n 17 5) (field n 12 5) (field n 7 5))
  | 18 => .ok (.vintISubsu (field n 26 1) (field n 25 1) (field n 22 3) (field n 17 5) (field n 12 5) (field n 7 5))
  | 19 => whenZero (bitsOf n 12 5 == 0 && bitsOf n 25 1 == 0) (.vintIMov (field n 26 1) (field n 22 3) (field n 17 5) (field n 7 5))
  | _ => .error .unassignedFunction

/-- Opcode 0x43: VFP_FADD, VFP_FSUB, VFP_FMUL, VFP_FDIV, …. -/
def decodeOp43 (n : Nat) : Except DecodeError Instr :=
  match bitsOf n 27 5 with
  | 0 => .ok (.vfpFadd (field n 26 1) (field n 25 1) (field n 22 3) (field n 17 5) (field n 12 5) (field n 7 5))
  | 1 => .ok (.vfpFsub (field n 26 1) (field n 25 1) (field n 22 3) (field n 17 5) (field n 12 5) (field n 7 5))
  | 2 => .ok (.vfpFmul (field n 26 1) (field n 25 1) (field n 22 3) (field n 17 5) (field n 12 5) (field n 7 5))
  | 3 => .ok (.vfpFdiv (field n 26 1) (field n 25 1) (field n 22 3) (field n 17 5) (field n 12 5) (field n 7 5))
  | 4 => whenZero (bitsOf n 17 5 == 0 && bitsOf n 26 1 == 0) (.vfpFsqrt (field n 25 1) (field n 22 3) (field n 12 5) (field n 7 5))
  | 5 => .ok (.vfpFmin (field n 26 1) (field n 25 1) (field n 22 3) (field n 17 5) (field n 12 5) (field n 7 5))
  | 6 => .ok (.vfpFmax (field n 26 1) (field n 25 1) (field n 22 3) (field n 17 5) (field n 12 5) (field n 7 5))
  | 7 => whenZero (bitsOf n 17 5 == 0 && bitsOf n 26 1 == 0) (.vfpFabs (field n 25 1) (field n 22 3) (field n 12 5) (field n 7 5))
  | 8 => whenZero (bitsOf n 17 5 == 0 && bitsOf n 26 1 == 0) (.vfpFneg (field n 25 1) (field n 22 3) (field n 12 5) (field n 7 5))
  | 9 => .ok (.vfpFsgn (field n 26 1) (field n 25 1) (field n 22 3) (field n 17 5) (field n 12 5) (field n 7 5))
  | 10 => whenZero (bitsOf n 17 5 == 0 && bitsOf n 26 1 == 0) (.vfpFrcp (field n 25 1) (field n 22 3) (field n 12 5) (field n 7 5))
  | 11 => whenZero (bitsOf n 17 5 == 0 && bitsOf n 26 1 == 0) (.vfpFrsq (field n 25 1) (field n 22 3) (field n 12 5) (field n 7 5))
  | 12 => whenZero (bitsOf n 17 5 == 0 && bitsOf n 26 1 == 0) (.vfpFexp2 (field n 25 1) (field n 22 3) (field n 12 5) (field n 7 5))
  | _ => .error .unassignedFunction

/-- Opcode 0x44: VFP_G_FADD, VFP_G_FSUB, VFP_G_FMUL, VFP_G_FDIV, …. -/
def decodeOp44 (n : Nat) : Except DecodeError Instr :=
  match bitsOf n 27 5 with
  | 0 => whenZero (bitsOf n 20 2 == 0) (.vfpGFadd (field n 26 1) (field n 25 1) (field n 22 3) (field n 17 3) (field n 12 5) (field n 7 5))
  | 1 => whenZero (bitsOf n 20 2 == 0) (.vfpGFsub (field n 26 1) (field n 25 1) (field n 22 3) (field n 17 3) (field n 12 5) (field n 7 5))
  | 2 => whenZero (bitsOf n 20 2 == 0) (.vfpGFmul (field n 26 1) (field n 25 1) (field n 22 3) (field n 17 3) (field n 12 5) (field n 7 5))
  | 3 => whenZero (bitsOf n 20 2 == 0) (.vfpGFdiv (field n 26 1) (field n 25 1) (field n 22 3) (field n 17 3) (field n 12 5) (field n 7 5))
  | 4 => whenZero (bitsOf n 17 5 == 0 && bitsOf n 26 1 == 0) (.vfpGFsqrt (field n 25 1) (field n 22 3) (field n 12 5) (field n 7 5))
  | 5 => whenZero (bitsOf n 20 2 == 0) (.vfpGFmin (field n 26 1) (field n 25 1) (field n 22 3) (field n 17 3) (field n 12 5) (field n 7 5))
  | 6 => whenZero (bitsOf n 20 2 == 0) (.vfpGFmax (field n 26 1) (field n 25 1) (field n 22 3) (field n 17 3) (field n 12 5) (field n 7 5))
  | 7 => whenZero (bitsOf n 17 5 == 0 && bitsOf n 26 1 == 0) (.vfpGFabs (field n 25 1) (field n 22 3) (field n 12 5) (field n 7 5))
  | 8 => whenZero (bitsOf n 17 5 == 0 && bitsOf n 26 1 == 0) (.vfpGFneg (field n 25 1) (field n 22 3) (field n 12 5) (field n 7 5))
  | 9 => whenZero (bitsOf n 20 2 == 0) (.vfpGFsgn (field n 26 1) (field n 25 1) (field n 22 3) (field n 17 3) (field n 12 5) (field n 7 5))
  | 10 => whenZero (bitsOf n 17 5 == 0 && bitsOf n 26 1 == 0) (.vfpGFrcp (field n 25 1) (field n 22 3) (field n 12 5) (field n 7 5))
  | 11 => whenZero (bitsOf n 17 5 == 0 && bitsOf n 26 1 == 0) (.vfpGFrsq (field n 25 1) (field n 22 3) (field n 12 5) (field n 7 5))
  | 12 => whenZero (bitsOf n 17 5 == 0 && bitsOf n 26 1 == 0) (.vfpGFexp2 (field n 25 1) (field n 22 3) (field n 12 5) (field n 7 5))
  | _ => .error .unassignedFunction

/-- Opcode 0x45: VFMA_FMADD, VFMA_FMSUB, VFMA_FNMADD, VFMA_IMADD. -/
def decodeOp45 (n : Nat) : Except DecodeError Instr :=
  match bitsOf n 30 2 with
  | 0 => .ok (.vfmaFmadd (field n 27 3) (field n 22 5) (field n 17 5) (field n 12 5) (field n 7 5))
  | 1 => .ok (.vfmaFmsub (field n 27 3) (field n 22 5) (field n 17 5) (field n 12 5) (field n 7 5))
  | 2 => .ok (.vfmaFnmadd (field n 27 3) (field n 22 5) (field n 17 5) (field n 12 5) (field n 7 5))
  | _ => .ok (.vfmaImadd (field n 27 3) (field n 22 5) (field n 17 5) (field n 12 5) (field n 7 5))

/-- Opcode 0x46: VCMP_EQ, VCMP_NE, VCMP_LT, VCMP_LE, …. -/
def decodeOp46 (n : Nat) : Except DecodeError Instr :=
  match bitsOf n 27 5 with
  | 0 => whenZero (bitsOf n 10 2 == 0) (.vcmpEq (field n 26 1) (field n 25 1) (field n 22 3) (field n 17 5) (field n 12 5) (field n 7 3))
  | 1 => whenZero (bitsOf n 10 2 == 0) (.vcmpNe (field n 26 1) (field n 25 1) (field n 22 3) (field n 17 5) (field n 12 5) (field n 7 3))
  | 2 => whenZero (bitsOf n 10 2 == 0) (.vcmpLt (field n 26 1) (field n 25 1) (field n 22 3) (field n 17 5) (field n 12 5) (field n 7 3))
  | 3 => whenZero (bitsOf n 10 2 == 0) (.vcmpLe (field n 26 1) (field n 25 1) (field n 22 3) (field n 17 5) (field n 12 5) (field n 7 3))
  | 4 => whenZero (bitsOf n 10 2 == 0) (.vcmpLtu (field n 26 1) (field n 25 1) (field n 22 3) (field n 17 5) (field n 12 5) (field n 7 3))
  | 5 => whenZero (bitsOf n 10 2 == 0) (.vcmpLeu (field n 26 1) (field n 25 1) (field n 22 3) (field n 17 5) (field n 12 5) (field n 7 3))
  | 6 => whenZero (bitsOf n 10 2 == 0) (.vcmpFeq (field n 26 1) (field n 25 1) (field n 22 3) (field n 17 5) (field n 12 5) (field n 7 3))
  | 7 => whenZero (bitsOf n 10 2 == 0) (.vcmpFlt (field n 26 1) (field n 25 1) (field n 22 3) (field n 17 5) (field n 12 5) (field n 7 3))
  | 8 => whenZero (bitsOf n 10 2 == 0) (.vcmpFle (field n 26 1) (field n 25 1) (field n 22 3) (field n 17 5) (field n 12 5) (field n 7 3))
  | 9 => whenZero (bitsOf n 10 2 == 0) (.vcmpFun (field n 26 1) (field n 25 1) (field n 22 3) (field n 17 5) (field n 12 5) (field n 7 3))
  | _ => .error .unassignedFunction

/-- Opcode 0x47: VCMP_G_EQ, VCMP_G_NE, VCMP_G_LT, VCMP_G_LE, …. -/
def decodeOp47 (n : Nat) : Except DecodeError Instr :=
  match bitsOf n 27 5 with
  | 0 => whenZero (bitsOf n 10 2 == 0 && bitsOf n 20 2 == 0) (.vcmpGEq (field n 26 1) (field n 25 1) (field n 22 3) (field n 17 3) (field n 12 5) (field n 7 3))
  | 1 => whenZero (bitsOf n 10 2 == 0 && bitsOf n 20 2 == 0) (.vcmpGNe (field n 26 1) (field n 25 1) (field n 22 3) (field n 17 3) (field n 12 5) (field n 7 3))
  | 2 => whenZero (bitsOf n 10 2 == 0 && bitsOf n 20 2 == 0) (.vcmpGLt (field n 26 1) (field n 25 1) (field n 22 3) (field n 17 3) (field n 12 5) (field n 7 3))
  | 3 => whenZero (bitsOf n 10 2 == 0 && bitsOf n 20 2 == 0) (.vcmpGLe (field n 26 1) (field n 25 1) (field n 22 3) (field n 17 3) (field n 12 5) (field n 7 3))
  | 4 => whenZero (bitsOf n 10 2 == 0 && bitsOf n 20 2 == 0) (.vcmpGLtu (field n 26 1) (field n 25 1) (field n 22 3) (field n 17 3) (field n 12 5) (field n 7 3))
  | 5 => whenZero (bitsOf n 10 2 == 0 && bitsOf n 20 2 == 0) (.vcmpGLeu (field n 26 1) (field n 25 1) (field n 22 3) (field n 17 3) (field n 12 5) (field n 7 3))
  | 6 => whenZero (bitsOf n 10 2 == 0 && bitsOf n 20 2 == 0) (.vcmpGFeq (field n 26 1) (field n 25 1) (field n 22 3) (field n 17 3) (field n 12 5) (field n 7 3))
  | 7 => whenZero (bitsOf n 10 2 == 0 && bitsOf n 20 2 == 0) (.vcmpGFlt (field n 26 1) (field n 25 1) (field n 22 3) (field n 17 3) (field n 12 5) (field n 7 3))
  | 8 => whenZero (bitsOf n 10 2 == 0 && bitsOf n 20 2 == 0) (.vcmpGFle (field n 26 1) (field n 25 1) (field n 22 3) (field n 17 3) (field n 12 5) (field n 7 3))
  | 9 => whenZero (bitsOf n 10 2 == 0 && bitsOf n 20 2 == 0) (.vcmpGFun (field n 26 1) (field n 25 1) (field n 22 3) (field n 17 3) (field n 12 5) (field n 7 3))
  | _ => .error .unassignedFunction

/-- Opcode 0x48: MAND, MOR, MXOR, MNOT, …. -/
def decodeOp48 (n : Nat) : Except DecodeError Instr :=
  match bitsOf n 27 5 with
  | 0 => whenZero (bitsOf n 10 2 == 0 && bitsOf n 15 2 == 0 && bitsOf n 20 5 == 0) (.mand (field n 26 1) (field n 25 1) (field n 17 3) (field n 12 3) (field n 7 3))
  | 1 => whenZero (bitsOf n 10 2 == 0 && bitsOf n 15 2 == 0 && bitsOf n 20 5 == 0) (.mor (field n 26 1) (field n 25 1) (field n 17 3) (field n 12 3) (field n 7 3))
  | 2 => whenZero (bitsOf n 10 2 == 0 && bitsOf n 15 2 == 0 && bitsOf n 20 5 == 0) (.mxor (field n 26 1) (field n 25 1) (field n 17 3) (field n 12 3) (field n 7 3))
  | 3 => whenZero (bitsOf n 10 2 == 0 && bitsOf n 15 10 == 0 && bitsOf n 26 1 == 0) (.mnot (field n 25 1) (field n 12 3) (field n 7 3))
  | 4 => whenZero (bitsOf n 10 17 == 0) (.mset (field n 7 3))
  | 5 => whenZero (bitsOf n 10 17 == 0) (.mclr (field n 7 3))
  | 6 => whenZero (bitsOf n 15 10 == 0 && bitsOf n 26 1 == 0) (.mpop (field n 25 1) (field n 12 3) (field n 7 5))
  | 7 => whenZero (bitsOf n 15 10 == 0 && bitsOf n 26 1 == 0) (.mfirst (field n 25 1) (field n 12 3) (field n 7 5))
  | _ => .error .unassignedFunction

/-- Opcode 0x49: RSUM, RMIN, RMAX, RAND, …. -/
def decodeOp49 (n : Nat) : Except DecodeError Instr :=
  match bitsOf n 27 5 with
  | 0 => whenZero (bitsOf n 17 5 == 0 && bitsOf n 26 1 == 0) (.rsum (field n 25 1) (field n 22 3) (field n 12 5) (field n 7 5))
  | 1 => whenZero (bitsOf n 17 5 == 0 && bitsOf n 26 1 == 0) (.rmin (field n 25 1) (field n 22 3) (field n 12 5) (field n 7 5))
  | 2 => whenZero (bitsOf n 17 5 == 0 && bitsOf n 26 1 == 0) (.rmax (field n 25 1) (field n 22 3) (field n 12 5) (field n 7 5))
  | 3 => whenZero (bitsOf n 17 5 == 0 && bitsOf n 26 1 == 0) (.rand (field n 25 1) (field n 22 3) (field n 12 5) (field n 7 5))
  | 4 => whenZero (bitsOf n 17 5 == 0 && bitsOf n 26 1 == 0) (.ror (field n 25 1) (field n 22 3) (field n 12 5) (field n 7 5))
  | 5 => whenZero (bitsOf n 17 5 == 0 && bitsOf n 26 1 == 0) (.rxor (field n 25 1) (field n 22 3) (field n 12 5) (field n 7 5))
  | 6 => whenZero (bitsOf n 17 5 == 0 && bitsOf n 26 1 == 0) (.rfsum (field n 25 1) (field n 22 3) (field n 12 5) (field n 7 5))
  | 7 => whenZero (bitsOf n 17 5 == 0 && bitsOf n 26 1 == 0) (.rfmin (field n 25 1) (field n 22 3) (field n 12 5) (field n 7 5))
  | 8 => whenZero (bitsOf n 17 5 == 0 && bitsOf n 26 1 == 0) (.rfmax (field n 25 1) (field n 22 3) (field n 12 5) (field n 7 5))
  | 9 => whenZero (bitsOf n 10 2 == 0 && bitsOf n 17 5 == 0 && bitsOf n 26 1 == 0) (.rany (field n 25 1) (field n 22 3) (field n 12 5) (field n 7 3))
  | 10 => whenZero (bitsOf n 10 2 == 0 && bitsOf n 17 5 == 0 && bitsOf n 26 1 == 0) (.rall (field n 25 1) (field n 22 3) (field n 12 5) (field n 7 3))
  | _ => .error .unassignedFunction

/-- Opcode 0x4A: VCVT. -/
def decodeOp4A (n : Nat) : Except DecodeError Instr :=
  .ok (.vcvt (field n 31 1) (field n 30 1) (field n 27 3) (field n 26 1) (field n 25 1) (field n 22 3) (field n 17 5) (field n 12 5) (field n 7 5))

/-- Opcode 0x4B: SLIDEUP, SLIDEDN, PERM, COMPRESS, …. -/
def decodeOp4B (n : Nat) : Except DecodeError Instr :=
  match bitsOf n 27 5 with
  | 0 => whenZero (bitsOf n 20 2 == 0) (.slideup (field n 26 1) (field n 25 1) (field n 22 3) (field n 17 3) (field n 12 5) (field n 7 5))
  | 1 => whenZero (bitsOf n 20 2 == 0) (.slidedn (field n 26 1) (field n 25 1) (field n 22 3) (field n 17 3) (field n 12 5) (field n 7 5))
  | 2 => .ok (.perm (field n 26 1) (field n 25 1) (field n 22 3) (field n 17 5) (field n 12 5) (field n 7 5))
  | 3 => whenZero (bitsOf n 17 5 == 0 && bitsOf n 26 1 == 0) (.compress (field n 25 1) (field n 22 3) (field n 12 5) (field n 7 5))
  | 4 => whenZero (bitsOf n 17 5 == 0 && bitsOf n 26 1 == 0) (.expand (field n 25 1) (field n 22 3) (field n 12 5) (field n 7 5))
  | 5 => .ok (.zip (field n 26 1) (field n 25 1) (field n 22 3) (field n 17 5) (field n 12 5) (field n 7 5))
  | 6 => whenZero (bitsOf n 20 2 == 0) (.bcast (field n 26 1) (field n 25 1) (field n 22 3) (field n 17 3) (field n 12 5) (field n 7 5))
  | 7 => .ok (.merge (field n 26 1) (field n 25 1) (field n 22 3) (field n 17 5) (field n 12 5) (field n 7 5))
  | 8 => whenZero (bitsOf n 17 5 == 0 && bitsOf n 26 1 == 0) (.trn (field n 25 1) (field n 22 3) (field n 12 5) (field n 7 5))
  | _ => .error .unassignedFunction

/-- Opcode 0x4C: VMEM_LD, VMEM_ST, VMEM_LDS, VMEM_STS, …. -/
def decodeOp4C (n : Nat) : Except DecodeError Instr :=
  match bitsOf n 28 4 with
  | 0 => whenZero (bitsOf n 15 5 == 0) (.vmemLd (field n 27 1) (field n 24 3) (field n 20 4) (field n 12 3) (field n 7 5))
  | 1 => whenZero (bitsOf n 15 5 == 0) (.vmemSt (field n 27 1) (field n 24 3) (field n 20 4) (field n 12 3) (field n 7 5))
  | 2 => whenZero (bitsOf n 18 2 == 0) (.vmemLds (field n 27 1) (field n 24 3) (field n 20 4) (field n 15 3) (field n 12 3) (field n 7 5))
  | 3 => whenZero (bitsOf n 18 2 == 0) (.vmemSts (field n 27 1) (field n 24 3) (field n 20 4) (field n 15 3) (field n 12 3) (field n 7 5))
  | 4 => .ok (.vmemLdx (field n 27 1) (field n 24 3) (field n 20 4) (field n 15 5) (field n 12 3) (field n 7 5))
  | 5 => .ok (.vmemStx (field n 27 1) (field n 24 3) (field n 20 4) (field n 15 5) (field n 12 3) (field n 7 5))
  | 6 => whenZero (bitsOf n 15 5 == 0) (.vmemLdl (field n 27 1) (field n 24 3) (field n 20 4) (field n 12 3) (field n 7 5))
  | 7 => whenZero (bitsOf n 15 5 == 0) (.vmemStl (field n 27 1) (field n 24 3) (field n 20 4) (field n 12 3) (field n 7 5))
  | 8 => whenZero (bitsOf n 15 5 == 0) (.vmemLdff (field n 27 1) (field n 24 3) (field n 20 4) (field n 12 3) (field n 7 5))
  | 9 => .ok (.vmemAmoadd (field n 27 1) (field n 24 3) (field n 20 4) (field n 15 5) (field n 12 3) (field n 7 5))
  | _ => .error .unassignedFunction

/-- Opcode 0x4D: VBR, VBR_NOT. -/
def decodeOp4D (n : Nat) : Except DecodeError Instr :=
  match bitsOf n 10 1 with
  | 0 => .ok (.vbr (field n 12 20) (field n 11 1) (field n 7 3))
  | _ => .ok (.vbrNot (field n 12 20) (field n 11 1) (field n 7 3))

/-- Opcode 0x4E: VEND, VJOIN, VNOP. -/
def decodeOp4E (n : Nat) : Except DecodeError Instr :=
  match bitsOf n 7 5 with
  | 0 => whenZero (bitsOf n 12 20 == 0) (.vend)
  | 1 => whenZero (bitsOf n 12 20 == 0) (.vjoin)
  | 2 => whenZero (bitsOf n 12 20 == 0) (.vnop)
  | _ => .error .unassignedFunction

/-- Opcode 0x4F: VBIND, VUNBIND, QPAT, QSTAT. -/
def decodeOp4F (n : Nat) : Except DecodeError Instr :=
  match bitsOf n 24 8 with
  | 0 => whenZero (bitsOf n 20 2 == 0 && bitsOf n 23 1 == 0) (.vbind (field n 22 1) (field n 17 3) (field n 12 5) (field n 7 5))
  | 1 => whenZero (bitsOf n 12 12 == 0) (.vunbind (field n 7 5))
  | 2 => whenZero (bitsOf n 11 1 == 0 && bitsOf n 17 5 == 0 && bitsOf n 23 1 == 0) (.qpat (field n 22 1) (field n 12 5) (field n 7 4))
  | 3 => whenZero (bitsOf n 16 8 == 0) (.qstat (field n 12 4) (field n 7 5))
  | _ => .error .unassignedFunction

/-- Opcode 0x50: CP_LAY, CP_ARR, CP_GO, CP_WM, …. -/
def decodeOp50 (n : Nat) : Except DecodeError Instr :=
  match bitsOf n 24 8 with
  | 0 => .ok (.cpLay (field n 23 1) (field n 22 1) (field n 17 5) (field n 12 5) (field n 7 5))
  | 1 => .ok (.cpArr (field n 23 1) (field n 22 1) (field n 17 5) (field n 12 5) (field n 7 5))
  | 2 => .ok (.cpGo (field n 23 1) (field n 22 1) (field n 17 5) (field n 12 5) (field n 7 5))
  | 3 => whenZero (bitsOf n 17 7 == 0) (.cpWm (field n 12 5) (field n 7 5))
  | 4 => whenZero (bitsOf n 12 12 == 0) (.cpWait (field n 7 5))
  | 5 => whenZero (bitsOf n 12 12 == 0) (.cpStop (field n 7 5))
  | 6 => whenZero (bitsOf n 17 7 == 0) (.cpStat (field n 12 5) (field n 7 5))
  | _ => .error .unassignedFunction

/-- Opcode 0x51: TK_POST, TK_STAT, TK_CANCEL. -/
def decodeOp51 (n : Nat) : Except DecodeError Instr :=
  match bitsOf n 24 8 with
  | 0 => whenZero (bitsOf n 17 5 == 0 && bitsOf n 23 1 == 0) (.tkPost (field n 22 1) (field n 12 5) (field n 7 5))
  | 1 => whenZero (bitsOf n 17 5 == 0 && bitsOf n 23 1 == 0) (.tkStat (field n 22 1) (field n 12 5) (field n 7 5))
  | 2 => whenZero (bitsOf n 17 5 == 0 && bitsOf n 23 1 == 0) (.tkCancel (field n 22 1) (field n 12 5) (field n 7 5))
  | _ => .error .unassignedFunction

/-- Opcode 0x52: EV_SIG, EV_WAIT, EV_RD, EV_SET. -/
def decodeOp52 (n : Nat) : Except DecodeError Instr :=
  match bitsOf n 24 8 with
  | 0 => .ok (.evSig (field n 23 1) (field n 22 1) (field n 17 5) (field n 12 5) (field n 7 5))
  | 1 => .ok (.evWait (field n 23 1) (field n 22 1) (field n 17 5) (field n 12 5) (field n 7 5))
  | 2 => whenZero (bitsOf n 17 5 == 0 && bitsOf n 23 1 == 0) (.evRd (field n 22 1) (field n 12 5) (field n 7 5))
  | 3 => .ok (.evSet (field n 23 1) (field n 22 1) (field n 17 5) (field n 12 5) (field n 7 5))
  | _ => .error .unassignedFunction

/-- Opcode 0x53: NB_GO, NB_STAT, NB_STOP. -/
def decodeOp53 (n : Nat) : Except DecodeError Instr :=
  match bitsOf n 24 8 with
  | 0 => whenZero (bitsOf n 17 5 == 0 && bitsOf n 23 1 == 0) (.nbGo (field n 22 1) (field n 12 5) (field n 7 5))
  | 1 => whenZero (bitsOf n 17 5 == 0 && bitsOf n 23 1 == 0) (.nbStat (field n 22 1) (field n 12 5) (field n 7 5))
  | 2 => whenZero (bitsOf n 7 5 == 0 && bitsOf n 17 5 == 0 && bitsOf n 23 1 == 0) (.nbStop (field n 22 1) (field n 12 5))
  | _ => .error .unassignedFunction

/-- Opcode 0x54: NQ_PUSH, NQ_POP, NB_SAFE, NB_MC. -/
def decodeOp54 (n : Nat) : Except DecodeError Instr :=
  match bitsOf n 24 8 with
  | 0 => whenZero (bitsOf n 8 4 == 0 && bitsOf n 17 5 == 0 && bitsOf n 23 1 == 0) (.nqPush (field n 22 1) (field n 12 5) (field n 7 1))
  | 1 => whenZero (bitsOf n 11 1 == 0 && bitsOf n 13 11 == 0) (.nqPop (field n 12 1) (field n 7 4))
  | 2 => whenZero (bitsOf n 7 17 == 0) (.nbSafe)
  | 3 => whenZero (bitsOf n 21 1 == 0 && bitsOf n 23 1 == 0) (.nbMc (field n 22 1) (field n 17 4) (field n 12 5) (field n 7 5))
  | _ => .error .unassignedFunction

/-- Opcode 0x55: LP_MARK, LP_ITER, LP_END, LP_STAT. -/
def decodeOp55 (n : Nat) : Except DecodeError Instr :=
  match bitsOf n 24 8 with
  | 0 => whenZero (bitsOf n 7 5 == 0) (.lpMark (field n 23 1) (field n 22 1) (field n 17 5) (field n 12 5))
  | 1 => whenZero (bitsOf n 10 14 == 0) (.lpIter (field n 7 3))
  | 2 => whenZero (bitsOf n 12 12 == 0) (.lpEnd (field n 7 5))
  | 3 => whenZero (bitsOf n 12 12 == 0) (.lpStat (field n 7 5))
  | _ => .error .unassignedFunction

/-- Opcode 0x56: JR_REC, JR_GATE, JR_DUR, JR_TRUNC, …. -/
def decodeOp56 (n : Nat) : Except DecodeError Instr :=
  match bitsOf n 24 8 with
  | 0 => .ok (.jrRec (field n 23 1) (field n 22 1) (field n 17 5) (field n 12 5) (field n 7 5))
  | 1 => .ok (.jrGate (field n 23 1) (field n 22 1) (field n 17 5) (field n 12 5) (field n 7 5))
  | 2 => whenZero (bitsOf n 17 5 == 0 && bitsOf n 23 1 == 0) (.jrDur (field n 22 1) (field n 12 5) (field n 7 5))
  | 3 => .ok (.jrTrunc (field n 23 1) (field n 22 1) (field n 17 5) (field n 12 5) (field n 7 5))
  | 4 => .ok (.jrRead (field n 23 1) (field n 22 1) (field n 17 5) (field n 12 5) (field n 7 5))
  | _ => .error .unassignedFunction

/-- Opcode 0x57: PL_HASH, PL_BIND, PL_SEND, PL_RECV, …. -/
def decodeOp57 (n : Nat) : Except DecodeError Instr :=
  match bitsOf n 24 8 with
  | 0 => .ok (.plHash (field n 23 1) (field n 22 1) (field n 17 5) (field n 12 5) (field n 7 5))
  | 1 => whenZero (bitsOf n 17 5 == 0 && bitsOf n 23 1 == 0) (.plBind (field n 22 1) (field n 12 5) (field n 7 5))
  | 2 => whenZero (bitsOf n 17 5 == 0 && bitsOf n 23 1 == 0) (.plSend (field n 22 1) (field n 12 5) (field n 7 5))
  | 3 => whenZero (bitsOf n 17 5 == 0 && bitsOf n 23 1 == 0) (.plRecv (field n 22 1) (field n 12 5) (field n 7 5))
  | 4 => whenZero (bitsOf n 17 5 == 0 && bitsOf n 23 1 == 0) (.plEnd (field n 22 1) (field n 12 5) (field n 7 5))
  | 5 => whenZero (bitsOf n 17 5 == 0 && bitsOf n 23 1 == 0) (.plStat (field n 22 1) (field n 12 5) (field n 7 5))
  | _ => .error .unassignedFunction

/-- Opcode 0x58: GO, GQ. -/
def decodeOp58 (n : Nat) : Except DecodeError Instr :=
  match bitsOf n 24 8 with
  | 0 => .ok (.go (field n 23 1) (field n 22 1) (field n 17 5) (field n 12 5) (field n 7 5))
  | 1 => whenZero (bitsOf n 17 5 == 0 && bitsOf n 23 1 == 0) (.gq (field n 22 1) (field n 12 5) (field n 7 5))
  | _ => .error .unassignedFunction

/-- Opcode 0x59: ACC_RD, ACC_WR, ACC_CLR. -/
def decodeOp59 (n : Nat) : Except DecodeError Instr :=
  match bitsOf n 24 8 with
  | 0 => whenZero (bitsOf n 15 7 == 0 && bitsOf n 23 1 == 0) (.accRd (field n 22 1) (field n 12 3) (field n 7 5))
  | 1 => whenZero (bitsOf n 7 5 == 0 && bitsOf n 15 2 == 0) (.accWr (field n 23 1) (field n 22 1) (field n 17 5) (field n 12 3))
  | 2 => whenZero (bitsOf n 7 5 == 0 && bitsOf n 15 7 == 0 && bitsOf n 23 1 == 0) (.accClr (field n 22 1) (field n 12 3))
  | _ => .error .unassignedFunction

/-- The instruction whose opcode, function and must-be-zero fields the word n has (R20, R42). -/
def decodeFields (n : Nat) : Except DecodeError Instr :=
  match bitsOf n 0 7 with
  | 0x01 => decodeOp01 n
  | 0x02 => decodeOp02 n
  | 0x03 => decodeOp03 n
  | 0x04 => decodeOp04 n
  | 0x05 => decodeOp05 n
  | 0x06 => decodeOp06 n
  | 0x07 => decodeOp07 n
  | 0x08 => decodeOp08 n
  | 0x09 => decodeOp09 n
  | 0x0A => decodeOp0A n
  | 0x0B => decodeOp0B n
  | 0x0C => decodeOp0C n
  | 0x0D => decodeOp0D n
  | 0x10 => decodeOp10 n
  | 0x11 => decodeOp11 n
  | 0x20 => decodeOp20 n
  | 0x21 => decodeOp21 n
  | 0x22 => decodeOp22 n
  | 0x28 => decodeOp28 n
  | 0x29 => decodeOp29 n
  | 0x2A => decodeOp2A n
  | 0x2B => decodeOp2B n
  | 0x2C => decodeOp2C n
  | 0x2D => decodeOp2D n
  | 0x2E => decodeOp2E n
  | 0x30 => decodeOp30 n
  | 0x31 => decodeOp31 n
  | 0x32 => decodeOp32 n
  | 0x33 => decodeOp33 n
  | 0x34 => decodeOp34 n
  | 0x35 => decodeOp35 n
  | 0x36 => decodeOp36 n
  | 0x37 => decodeOp37 n
  | 0x38 => decodeOp38 n
  | 0x39 => decodeOp39 n
  | 0x3A => decodeOp3A n
  | 0x3B => decodeOp3B n
  | 0x3C => decodeOp3C n
  | 0x3D => decodeOp3D n
  | 0x3E => decodeOp3E n
  | 0x40 => decodeOp40 n
  | 0x41 => decodeOp41 n
  | 0x42 => decodeOp42 n
  | 0x43 => decodeOp43 n
  | 0x44 => decodeOp44 n
  | 0x45 => decodeOp45 n
  | 0x46 => decodeOp46 n
  | 0x47 => decodeOp47 n
  | 0x48 => decodeOp48 n
  | 0x49 => decodeOp49 n
  | 0x4A => decodeOp4A n
  | 0x4B => decodeOp4B n
  | 0x4C => decodeOp4C n
  | 0x4D => decodeOp4D n
  | 0x4E => decodeOp4E n
  | 0x4F => decodeOp4F n
  | 0x50 => decodeOp50 n
  | 0x51 => decodeOp51 n
  | 0x52 => decodeOp52 n
  | 0x53 => decodeOp53 n
  | 0x54 => decodeOp54 n
  | 0x55 => decodeOp55 n
  | 0x56 => decodeOp56 n
  | 0x57 => decodeOp57 n
  | 0x58 => decodeOp58 n
  | 0x59 => decodeOp59 n
  | _ => .error .unassignedOpcode

/-- Decode a word: its fields, then the codes in them (R20, R42, step 1 of R43). -/
def decode (w : BitVec 32) : Except DecodeError Instr :=
  match decodeFields w.toNat with
  | .ok i => if i.wellFormed then .ok i else .error .reservedCode
  | .error e => .error e

/-- The little-endian word of four bytes (R3, R9). -/
def wordOfBytes (b0 b1 b2 b3 : Byte) : BitVec 32 :=
  BitVec.ofNat 32 (b0.toNat + 256 * b1.toNat + 65536 * b2.toNat + 16777216 * b3.toNat)

/-- Decode the first word of a list of bytes. -/
def decodeBytes : List Byte → Except DecodeError Instr
  | b0 :: b1 :: b2 :: b3 :: _ => decode (wordOfBytes b0 b1 b2 b3)
  | _ => .error .shortWord

/-- The four bytes of a word, lowest address first (R3). -/
def bytesOfWord (n : Nat) : List Byte :=
  [BitVec.ofNat 8 n, BitVec.ofNat 8 (n / 256), BitVec.ofNat 8 (n / 65536), BitVec.ofNat 8 (n / 16777216)]

/-- The host's question: the instruction this decoder reads from the nbits-bit word w, higher bits zero. -/
def decodeTableWord (nbits w : Nat) : Option Instr :=
  match decodeBytes (bytesOfWord (w % 2 ^ nbits)) with
  | .ok i => some i
  | .error _ => none

end

/-- Whether the row has an instruction word (an event has none). -/
def Instr.hasWord (i : Instr) : Bool :=
  match i with
  | .add _ _ _ _ _ => true
  | .sub _ _ _ _ _ => true
  | .and _ _ _ _ _ => true
  | .or _ _ _ _ _ => true
  | .xor _ _ _ _ _ => true
  | .sll _ _ _ _ _ => true
  | .srl _ _ _ _ _ => true
  | .sra _ _ _ _ _ => true
  | .mul _ _ _ _ _ => true
  | .mulh _ _ _ _ _ => true
  | .mulhu _ _ _ _ _ => true
  | .div _ _ _ _ _ => true
  | .divu _ _ _ _ _ => true
  | .rem _ _ _ _ _ => true
  | .remu _ _ _ _ _ => true
  | .min _ _ _ _ _ => true
  | .max _ _ _ _ _ => true
  | .minu _ _ _ _ _ => true
  | .maxu _ _ _ _ _ => true
  | .clz _ _ _ => true
  | .ctz _ _ _ => true
  | .pop _ _ _ => true
  | .rng _ _ _ _ _ => true
  | .addi _ _ _ _ => true
  | .andi _ _ _ _ => true
  | .ori _ _ _ _ => true
  | .xori _ _ _ _ => true
  | .slli _ _ _ _ => true
  | .srli _ _ _ _ => true
  | .srai _ _ _ _ => true
  | .lui _ _ => true
  | .adr _ _ => true
  | .cmpEq _ _ _ _ _ => true
  | .cmpNe _ _ _ _ _ => true
  | .cmpLt _ _ _ _ _ => true
  | .cmpLtu _ _ _ _ _ => true
  | .feqD _ _ _ _ _ => true
  | .fltD _ _ _ _ _ => true
  | .fleD _ _ _ _ _ => true
  | .funD _ _ _ _ _ => true
  | .feqS _ _ _ _ _ => true
  | .fltS _ _ _ _ _ => true
  | .fleS _ _ _ _ _ => true
  | .funS _ _ _ _ _ => true
  | .cmpiEq _ _ _ _ => true
  | .cmpiNe _ _ _ _ => true
  | .cmpiLt _ _ _ _ => true
  | .cmpiLtu _ _ _ _ => true
  | .kand _ _ _ _ _ => true
  | .kor _ _ _ _ _ => true
  | .kxor _ _ _ _ _ => true
  | .kset _ _ _ => true
  | .kget _ _ _ => true
  | .faddD _ _ _ _ _ => true
  | .fsubD _ _ _ _ _ => true
  | .fmulD _ _ _ _ _ => true
  | .fdivD _ _ _ _ _ => true
  | .fsqrtD _ _ _ => true
  | .fminD _ _ _ _ _ => true
  | .fmaxD _ _ _ _ _ => true
  | .faddS _ _ _ _ _ => true
  | .fsubS _ _ _ _ _ => true
  | .fmulS _ _ _ _ _ => true
  | .fdivS _ _ _ _ _ => true
  | .fsqrtS _ _ _ => true
  | .fminS _ _ _ _ _ => true
  | .fmaxS _ _ _ _ _ => true
  | .cvtDL _ _ _ => true
  | .cvtLD _ _ _ => true
  | .cvtSL _ _ _ => true
  | .cvtLS _ _ _ => true
  | .cvtDS _ _ _ => true
  | .cvtSD _ _ _ => true
  | .fmaddD _ _ _ _ => true
  | .fmsubD _ _ _ _ => true
  | .fmaddS _ _ _ _ => true
  | .fmsubS _ _ _ _ => true
  | .bK _ _ _ => true
  | .bNk _ _ _ => true
  | .branchConfirm _ => false
  | .jal _ _ => true
  | .jalr _ _ _ _ => true
  | .ldB _ _ _ _ _ => true
  | .ldBu _ _ _ _ _ => true
  | .ldH _ _ _ _ _ => true
  | .ldHu _ _ _ _ _ => true
  | .ldW _ _ _ _ _ => true
  | .ldWu _ _ _ _ _ => true
  | .ldD _ _ _ _ _ => true
  | .loadDataReturn _ _ => false
  | .stB _ _ _ _ _ => true
  | .stH _ _ _ _ _ => true
  | .stW _ _ _ _ _ => true
  | .stD _ _ _ _ _ => true
  | .amoAddW _ _ _ _ _ _ => true
  | .amoAddD _ _ _ _ _ _ => true
  | .amoMinD _ _ _ _ _ _ => true
  | .amoMaxD _ _ _ _ _ _ => true
  | .amoMinuD _ _ _ _ _ _ => true
  | .amoMaxuD _ _ _ _ _ _ => true
  | .amoSwapD _ _ _ _ _ _ => true
  | .amoCasD _ _ _ _ _ _ => true
  | .amoFaddS _ _ _ _ _ _ => true
  | .amoFaddD _ _ _ _ _ _ => true
  | .amoReturn _ _ => false
  | .sbar _ _ => true
  | .fence _ => true
  | .gsync _ _ => true
  | .garrive _ _ => true
  | .gwait _ _ => true
  | .groupArrivalSend _ _ => false
  | .crd _ _ => true
  | .cwr _ _ _ _ => true
  | .trap _ => true
  | .tret => true
  | .halt => true
  | .idle => true
  | .brk => true
  | .yield => true
  | .idleWake _ => false
  | .hartRetire _ => false
  | .l1inv _ _ => true
  | .l2wb _ _ => true
  | .tlbinv _ _ => true
  | .tlbsync => true
  | .setlen _ _ _ _ _ => true
  | .setrows _ _ _ => true
  | .setfmt _ _ _ => true
  | .vdrain => true
  | .vstat _ => true
  | .hwpub _ _ _ _ => true
  | .setfmti _ _ => true
  | .vblk _ => true
  | .blockInstanceBegin _ => false
  | .vbind _ _ _ _ => true
  | .vunbind _ => true
  | .qpat _ _ _ => true
  | .qstat _ _ => true
  | .streamChunkArrive _ _ => false
  | .vintAdd _ _ _ _ _ _ => true
  | .vintSub _ _ _ _ _ _ => true
  | .vintMul _ _ _ _ _ _ => true
  | .vintMulh _ _ _ _ _ _ => true
  | .vintMulhu _ _ _ _ _ _ => true
  | .vintMin _ _ _ _ _ _ => true
  | .vintMax _ _ _ _ _ _ => true
  | .vintMinu _ _ _ _ _ _ => true
  | .vintMaxu _ _ _ _ _ _ => true
  | .vintAnd _ _ _ _ _ _ => true
  | .vintOr _ _ _ _ _ _ => true
  | .vintXor _ _ _ _ _ _ => true
  | .vintSll _ _ _ _ _ _ => true
  | .vintSrl _ _ _ _ _ _ => true
  | .vintSra _ _ _ _ _ _ => true
  | .vintAdds _ _ _ _ _ _ => true
  | .vintSubs _ _ _ _ _ _ => true
  | .vintAddsu _ _ _ _ _ _ => true
  | .vintSubsu _ _ _ _ _ _ => true
  | .vintMov _ _ _ _ => true
  | .vintGAdd _ _ _ _ _ _ => true
  | .vintGSub _ _ _ _ _ _ => true
  | .vintGMul _ _ _ _ _ _ => true
  | .vintGMulh _ _ _ _ _ _ => true
  | .vintGMulhu _ _ _ _ _ _ => true
  | .vintGMin _ _ _ _ _ _ => true
  | .vintGMax _ _ _ _ _ _ => true
  | .vintGMinu _ _ _ _ _ _ => true
  | .vintGMaxu _ _ _ _ _ _ => true
  | .vintGAnd _ _ _ _ _ _ => true
  | .vintGOr _ _ _ _ _ _ => true
  | .vintGXor _ _ _ _ _ _ => true
  | .vintGSll _ _ _ _ _ _ => true
  | .vintGSrl _ _ _ _ _ _ => true
  | .vintGSra _ _ _ _ _ _ => true
  | .vintGAdds _ _ _ _ _ _ => true
  | .vintGSubs _ _ _ _ _ _ => true
  | .vintGAddsu _ _ _ _ _ _ => true
  | .vintGSubsu _ _ _ _ _ _ => true
  | .vintGMov _ _ _ _ => true
  | .vintIAdd _ _ _ _ _ _ => true
  | .vintISub _ _ _ _ _ _ => true
  | .vintIMul _ _ _ _ _ _ => true
  | .vintIMulh _ _ _ _ _ _ => true
  | .vintIMulhu _ _ _ _ _ _ => true
  | .vintIMin _ _ _ _ _ _ => true
  | .vintIMax _ _ _ _ _ _ => true
  | .vintIMinu _ _ _ _ _ _ => true
  | .vintIMaxu _ _ _ _ _ _ => true
  | .vintIAnd _ _ _ _ _ _ => true
  | .vintIOr _ _ _ _ _ _ => true
  | .vintIXor _ _ _ _ _ _ => true
  | .vintISll _ _ _ _ _ _ => true
  | .vintISrl _ _ _ _ _ _ => true
  | .vintISra _ _ _ _ _ _ => true
  | .vintIAdds _ _ _ _ _ _ => true
  | .vintISubs _ _ _ _ _ _ => true
  | .vintIAddsu _ _ _ _ _ _ => true
  | .vintISubsu _ _ _ _ _ _ => true
  | .vintIMov _ _ _ _ => true
  | .vfpFadd _ _ _ _ _ _ => true
  | .vfpFsub _ _ _ _ _ _ => true
  | .vfpFmul _ _ _ _ _ _ => true
  | .vfpFdiv _ _ _ _ _ _ => true
  | .vfpFsqrt _ _ _ _ => true
  | .vfpFmin _ _ _ _ _ _ => true
  | .vfpFmax _ _ _ _ _ _ => true
  | .vfpFabs _ _ _ _ => true
  | .vfpFneg _ _ _ _ => true
  | .vfpFsgn _ _ _ _ _ _ => true
  | .vfpFrcp _ _ _ _ => true
  | .vfpFrsq _ _ _ _ => true
  | .vfpFexp2 _ _ _ _ => true
  | .vfpGFadd _ _ _ _ _ _ => true
  | .vfpGFsub _ _ _ _ _ _ => true
  | .vfpGFmul _ _ _ _ _ _ => true
  | .vfpGFdiv _ _ _ _ _ _ => true
  | .vfpGFsqrt _ _ _ _ => true
  | .vfpGFmin _ _ _ _ _ _ => true
  | .vfpGFmax _ _ _ _ _ _ => true
  | .vfpGFabs _ _ _ _ => true
  | .vfpGFneg _ _ _ _ => true
  | .vfpGFsgn _ _ _ _ _ _ => true
  | .vfpGFrcp _ _ _ _ => true
  | .vfpGFrsq _ _ _ _ => true
  | .vfpGFexp2 _ _ _ _ => true
  | .vfmaFmadd _ _ _ _ _ => true
  | .vfmaFmsub _ _ _ _ _ => true
  | .vfmaFnmadd _ _ _ _ _ => true
  | .vfmaImadd _ _ _ _ _ => true
  | .vcmpEq _ _ _ _ _ _ => true
  | .vcmpNe _ _ _ _ _ _ => true
  | .vcmpLt _ _ _ _ _ _ => true
  | .vcmpLe _ _ _ _ _ _ => true
  | .vcmpLtu _ _ _ _ _ _ => true
  | .vcmpLeu _ _ _ _ _ _ => true
  | .vcmpFeq _ _ _ _ _ _ => true
  | .vcmpFlt _ _ _ _ _ _ => true
  | .vcmpFle _ _ _ _ _ _ => true
  | .vcmpFun _ _ _ _ _ _ => true
  | .vcmpGEq _ _ _ _ _ _ => true
  | .vcmpGNe _ _ _ _ _ _ => true
  | .vcmpGLt _ _ _ _ _ _ => true
  | .vcmpGLe _ _ _ _ _ _ => true
  | .vcmpGLtu _ _ _ _ _ _ => true
  | .vcmpGLeu _ _ _ _ _ _ => true
  | .vcmpGFeq _ _ _ _ _ _ => true
  | .vcmpGFlt _ _ _ _ _ _ => true
  | .vcmpGFle _ _ _ _ _ _ => true
  | .vcmpGFun _ _ _ _ _ _ => true
  | .mand _ _ _ _ _ => true
  | .mor _ _ _ _ _ => true
  | .mxor _ _ _ _ _ => true
  | .mnot _ _ _ => true
  | .mset _ => true
  | .mclr _ => true
  | .mpop _ _ _ => true
  | .mfirst _ _ _ => true
  | .rsum _ _ _ _ => true
  | .rmin _ _ _ _ => true
  | .rmax _ _ _ _ => true
  | .rand _ _ _ _ => true
  | .ror _ _ _ _ => true
  | .rxor _ _ _ _ => true
  | .rfsum _ _ _ _ => true
  | .rfmin _ _ _ _ => true
  | .rfmax _ _ _ _ => true
  | .rany _ _ _ _ => true
  | .rall _ _ _ _ => true
  | .vcvt _ _ _ _ _ _ _ _ _ => true
  | .slideup _ _ _ _ _ _ => true
  | .slidedn _ _ _ _ _ _ => true
  | .perm _ _ _ _ _ _ => true
  | .compress _ _ _ _ => true
  | .expand _ _ _ _ => true
  | .zip _ _ _ _ _ _ => true
  | .bcast _ _ _ _ _ _ => true
  | .merge _ _ _ _ _ _ => true
  | .trn _ _ _ _ => true
  | .vmemLd _ _ _ _ _ => true
  | .vmemSt _ _ _ _ _ => true
  | .vmemLds _ _ _ _ _ _ => true
  | .vmemSts _ _ _ _ _ _ => true
  | .vmemLdx _ _ _ _ _ _ => true
  | .vmemStx _ _ _ _ _ _ => true
  | .vmemLdl _ _ _ _ _ => true
  | .vmemStl _ _ _ _ _ => true
  | .vmemLdff _ _ _ _ _ => true
  | .vmemAmoadd _ _ _ _ _ _ => true
  | .vbr _ _ _ => true
  | .vbrNot _ _ _ => true
  | .vend => true
  | .vjoin => true
  | .vnop => true
  | .accRd _ _ _ => true
  | .accWr _ _ _ _ => true
  | .accClr _ _ => true
  | .cpLay _ _ _ _ _ => true
  | .cpArr _ _ _ _ _ => true
  | .cpGo _ _ _ _ _ => true
  | .cpWm _ _ => true
  | .cpWait _ => true
  | .cpStop _ => true
  | .cpStat _ _ => true
  | .copyAccept _ _ => false
  | .copyElement _ _ _ => false
  | .copyComplete _ _ => false
  | .tkPost _ _ _ => true
  | .tkStat _ _ _ => true
  | .tkCancel _ _ _ => true
  | .taskIssue _ _ => false
  | .taskComplete _ _ => false
  | .taskAging _ _ => false
  | .evSig _ _ _ _ _ => true
  | .evWait _ _ _ _ _ => true
  | .evRd _ _ _ => true
  | .evSet _ _ _ _ _ => true
  | .eventUpdateApply _ _ => false
  | .nbGo _ _ _ => true
  | .nbStat _ _ _ => true
  | .nbStop _ _ => true
  | .nbJobStart _ => false
  | .nqPush _ _ _ => true
  | .nqPop _ _ => true
  | .nbSafe => true
  | .nbMc _ _ _ _ => true
  | .nqLoadFill _ _ => false
  | .nbJobEnd _ => false
  | .nbProgressWatchdog _ => false
  | .nbSafePointWatchdog _ => false
  | .channelResetComplete _ => false
  | .dramRefreshDue _ => false
  | .lpMark _ _ _ _ => true
  | .lpIter _ => true
  | .lpEnd _ => true
  | .lpStat _ => true
  | .templateVerdict _ => false
  | .replayIteration _ => false
  | .replayDeparture _ _ => false
  | .replayComplete _ => false
  | .jrRec _ _ _ _ _ => true
  | .jrGate _ _ _ _ _ => true
  | .jrDur _ _ _ => true
  | .jrTrunc _ _ _ _ _ => true
  | .jrRead _ _ _ _ _ => true
  | .journalAck _ _ => false
  | .mirrorRecordWrite _ _ _ _ => false
  | .truncationAck _ _ => false
  | .plHash _ _ _ _ _ => true
  | .plBind _ _ _ => true
  | .plSend _ _ _ => true
  | .plRecv _ _ _ => true
  | .plEnd _ _ _ => true
  | .plStat _ _ _ => true
  | .go _ _ _ _ _ => true
  | .gq _ _ _ => true
  | .launchDoorbell _ _ => false
  | .dbstatWrite _ _ => false
  | .launchHeadCheck _ => false
  | .placeLaunch => false
  | .lqcfgWrite _ _ _ => false
  | .trapEntry _ => false
  | .preqRequest _ _ => false
  | .preqResume _ _ => false
  | .ximgSave _ _ => false
  | .xldLoad _ _ => false
  | .cparkOffer _ _ => false
  | .flagRestoreWrite _ _ _ => false
  | .vectorShapeWrite _ _ _ => false
  | .protWrite _ _ => false
  | .evbaseWrite _ _ => false
  | .accpsnWrite _ _ => false
  | .jrcfgWrite _ _ => false
  | .jrcandWrite _ _ _ => false
  | .ltermWrite _ _ => false
  | .rtcoreWrite _ _ => false
  | .rtqPop _ => false
  | .rtmigGo _ _ => false
  | .rtmigEnd _ _ => false
  | .migrationGranule => false
  | .elstatClear _ _ => false
  | .pmcWrite _ _ _ => false
  | .energyWrite _ _ => false
  | .smpcfgWrite _ _ _ => false
  | .sampleTraceAcquireRead _ _ => false
  | .sampleRecordWrite _ => false
  | .traceRecordWrite _ => false
  | .stopFire _ => false
  | .genericRegisterWrite _ _ _ => false
  | .registerParityReplay _ _ => false
  | .laneReexecute _ _ _ => false
  | .protectedModeMismatch _ _ => false
  | .scrubRead _ _ => false
  | .l2EvictionPoison _ => false
  | .cxlMemRequest _ _ _ => false
  | .hostSnoop _ => false
  | .cxlIdeFailure => false
  | .flitReceive _ _ => false
  | .peerMessageReceive _ _ _ _ _ _ => false
  | .keyEpochChange _ => false
  | .idleFlitSend _ => false
  | .portLivenessExpiry _ => false
  | .portTrainUp _ _ _ => false
  | .inboundRequest _ _ _ _ _ => false
  | .remoteResponse _ _ _ => false
  | .powerOnReset _ _ _ _ => false
  | .stackTraining _ _ => false
  | .fullServiceEntry => false
  | .quote _ => false
  | .pubkeys => false
  | .keyload _ _ _ => false
  | .keyclr _ => false
  | .extend _ _ => false
  | .event => false
  | .reply _ _ => false
  | .state => false
  | .hostAssistEvent _ => false
  | .powerThrottle => false
  | .tlbInvalidationComplete _ => false
  | .hostLinkTrained _ => false
  | .unknownMailboxCode _ => false
  | .counterOverflow _ _ => false
  | .drawBelowLimit => false

/-! The words, row by row: the row's fixed bits plus each field in its place (R10, R21 to R37). -/
def addWord (y : BitVec 1) (x : BitVec 1) (b : BitVec 5) (a : BitVec 5) (d : BitVec 5) : Nat := 1 + 8388608 * y.toNat + 4194304 * x.toNat + 131072 * b.toNat + 4096 * a.toNat + 128 * d.toNat
def subWord (y : BitVec 1) (x : BitVec 1) (b : BitVec 5) (a : BitVec 5) (d : BitVec 5) : Nat := 16777217 + 8388608 * y.toNat + 4194304 * x.toNat + 131072 * b.toNat + 4096 * a.toNat + 128 * d.toNat
def andWord (y : BitVec 1) (x : BitVec 1) (b : BitVec 5) (a : BitVec 5) (d : BitVec 5) : Nat := 33554433 + 8388608 * y.toNat + 4194304 * x.toNat + 131072 * b.toNat + 4096 * a.toNat + 128 * d.toNat
def orWord (y : BitVec 1) (x : BitVec 1) (b : BitVec 5) (a : BitVec 5) (d : BitVec 5) : Nat := 50331649 + 8388608 * y.toNat + 4194304 * x.toNat + 131072 * b.toNat + 4096 * a.toNat + 128 * d.toNat
def xorWord (y : BitVec 1) (x : BitVec 1) (b : BitVec 5) (a : BitVec 5) (d : BitVec 5) : Nat := 67108865 + 8388608 * y.toNat + 4194304 * x.toNat + 131072 * b.toNat + 4096 * a.toNat + 128 * d.toNat
def sllWord (y : BitVec 1) (x : BitVec 1) (b : BitVec 5) (a : BitVec 5) (d : BitVec 5) : Nat := 83886081 + 8388608 * y.toNat + 4194304 * x.toNat + 131072 * b.toNat + 4096 * a.toNat + 128 * d.toNat
def srlWord (y : BitVec 1) (x : BitVec 1) (b : BitVec 5) (a : BitVec 5) (d : BitVec 5) : Nat := 100663297 + 8388608 * y.toNat + 4194304 * x.toNat + 131072 * b.toNat + 4096 * a.toNat + 128 * d.toNat
def sraWord (y : BitVec 1) (x : BitVec 1) (b : BitVec 5) (a : BitVec 5) (d : BitVec 5) : Nat := 117440513 + 8388608 * y.toNat + 4194304 * x.toNat + 131072 * b.toNat + 4096 * a.toNat + 128 * d.toNat
def mulWord (y : BitVec 1) (x : BitVec 1) (b : BitVec 5) (a : BitVec 5) (d : BitVec 5) : Nat := 134217729 + 8388608 * y.toNat + 4194304 * x.toNat + 131072 * b.toNat + 4096 * a.toNat + 128 * d.toNat
def mulhWord (y : BitVec 1) (x : BitVec 1) (b : BitVec 5) (a : BitVec 5) (d : BitVec 5) : Nat := 150994945 + 8388608 * y.toNat + 4194304 * x.toNat + 131072 * b.toNat + 4096 * a.toNat + 128 * d.toNat
def mulhuWord (y : BitVec 1) (x : BitVec 1) (b : BitVec 5) (a : BitVec 5) (d : BitVec 5) : Nat := 167772161 + 8388608 * y.toNat + 4194304 * x.toNat + 131072 * b.toNat + 4096 * a.toNat + 128 * d.toNat
def divWord (y : BitVec 1) (x : BitVec 1) (b : BitVec 5) (a : BitVec 5) (d : BitVec 5) : Nat := 184549377 + 8388608 * y.toNat + 4194304 * x.toNat + 131072 * b.toNat + 4096 * a.toNat + 128 * d.toNat
def divuWord (y : BitVec 1) (x : BitVec 1) (b : BitVec 5) (a : BitVec 5) (d : BitVec 5) : Nat := 201326593 + 8388608 * y.toNat + 4194304 * x.toNat + 131072 * b.toNat + 4096 * a.toNat + 128 * d.toNat
def remWord (y : BitVec 1) (x : BitVec 1) (b : BitVec 5) (a : BitVec 5) (d : BitVec 5) : Nat := 218103809 + 8388608 * y.toNat + 4194304 * x.toNat + 131072 * b.toNat + 4096 * a.toNat + 128 * d.toNat
def remuWord (y : BitVec 1) (x : BitVec 1) (b : BitVec 5) (a : BitVec 5) (d : BitVec 5) : Nat := 234881025 + 8388608 * y.toNat + 4194304 * x.toNat + 131072 * b.toNat + 4096 * a.toNat + 128 * d.toNat
def minWord (y : BitVec 1) (x : BitVec 1) (b : BitVec 5) (a : BitVec 5) (d : BitVec 5) : Nat := 251658241 + 8388608 * y.toNat + 4194304 * x.toNat + 131072 * b.toNat + 4096 * a.toNat + 128 * d.toNat
def maxWord (y : BitVec 1) (x : BitVec 1) (b : BitVec 5) (a : BitVec 5) (d : BitVec 5) : Nat := 268435457 + 8388608 * y.toNat + 4194304 * x.toNat + 131072 * b.toNat + 4096 * a.toNat + 128 * d.toNat
def minuWord (y : BitVec 1) (x : BitVec 1) (b : BitVec 5) (a : BitVec 5) (d : BitVec 5) : Nat := 285212673 + 8388608 * y.toNat + 4194304 * x.toNat + 131072 * b.toNat + 4096 * a.toNat + 128 * d.toNat
def maxuWord (y : BitVec 1) (x : BitVec 1) (b : BitVec 5) (a : BitVec 5) (d : BitVec 5) : Nat := 301989889 + 8388608 * y.toNat + 4194304 * x.toNat + 131072 * b.toNat + 4096 * a.toNat + 128 * d.toNat
def clzWord (x : BitVec 1) (a : BitVec 5) (d : BitVec 5) : Nat := 318767105 + 4194304 * x.toNat + 4096 * a.toNat + 128 * d.toNat
def ctzWord (x : BitVec 1) (a : BitVec 5) (d : BitVec 5) : Nat := 335544321 + 4194304 * x.toNat + 4096 * a.toNat + 128 * d.toNat
def popWord (x : BitVec 1) (a : BitVec 5) (d : BitVec 5) : Nat := 352321537 + 4194304 * x.toNat + 4096 * a.toNat + 128 * d.toNat
def rngWord (y : BitVec 1) (x : BitVec 1) (b : BitVec 5) (a : BitVec 5) (d : BitVec 5) : Nat := 369098753 + 8388608 * y.toNat + 4194304 * x.toNat + 131072 * b.toNat + 4096 * a.toNat + 128 * d.toNat
def addiWord (i : BitVec 14) (x : BitVec 1) (a : BitVec 5) (d : BitVec 5) : Nat := 2 + 262144 * i.toNat + 131072 * x.toNat + 4096 * a.toNat + 128 * d.toNat
def andiWord (i : BitVec 14) (x : BitVec 1) (a : BitVec 5) (d : BitVec 5) : Nat := 3 + 262144 * i.toNat + 131072 * x.toNat + 4096 * a.toNat + 128 * d.toNat
def oriWord (i : BitVec 14) (x : BitVec 1) (a : BitVec 5) (d : BitVec 5) : Nat := 4 + 262144 * i.toNat + 131072 * x.toNat + 4096 * a.toNat + 128 * d.toNat
def xoriWord (i : BitVec 14) (x : BitVec 1) (a : BitVec 5) (d : BitVec 5) : Nat := 5 + 262144 * i.toNat + 131072 * x.toNat + 4096 * a.toNat + 128 * d.toNat
def slliWord (s : BitVec 6) (x : BitVec 1) (a : BitVec 5) (d : BitVec 5) : Nat := 6 + 262144 * s.toNat + 131072 * x.toNat + 4096 * a.toNat + 128 * d.toNat
def srliWord (s : BitVec 6) (x : BitVec 1) (a : BitVec 5) (d : BitVec 5) : Nat := 7 + 262144 * s.toNat + 131072 * x.toNat + 4096 * a.toNat + 128 * d.toNat
def sraiWord (s : BitVec 6) (x : BitVec 1) (a : BitVec 5) (d : BitVec 5) : Nat := 8 + 262144 * s.toNat + 131072 * x.toNat + 4096 * a.toNat + 128 * d.toNat
def luiWord (i : BitVec 20) (d : BitVec 5) : Nat := 9 + 4096 * i.toNat + 128 * d.toNat
def adrWord (i : BitVec 20) (d : BitVec 5) : Nat := 10 + 4096 * i.toNat + 128 * d.toNat
def cmpEqWord (y : BitVec 1) (x : BitVec 1) (b : BitVec 5) (a : BitVec 5) (k : BitVec 3) : Nat := 11 + 8388608 * y.toNat + 4194304 * x.toNat + 131072 * b.toNat + 4096 * a.toNat + 128 * k.toNat
def cmpNeWord (y : BitVec 1) (x : BitVec 1) (b : BitVec 5) (a : BitVec 5) (k : BitVec 3) : Nat := 16777227 + 8388608 * y.toNat + 4194304 * x.toNat + 131072 * b.toNat + 4096 * a.toNat + 128 * k.toNat
def cmpLtWord (y : BitVec 1) (x : BitVec 1) (b : BitVec 5) (a : BitVec 5) (k : BitVec 3) : Nat := 33554443 + 8388608 * y.toNat + 4194304 * x.toNat + 131072 * b.toNat + 4096 * a.toNat + 128 * k.toNat
def cmpLtuWord (y : BitVec 1) (x : BitVec 1) (b : BitVec 5) (a : BitVec 5) (k : BitVec 3) : Nat := 50331659 + 8388608 * y.toNat + 4194304 * x.toNat + 131072 * b.toNat + 4096 * a.toNat + 128 * k.toNat
def feqDWord (y : BitVec 1) (x : BitVec 1) (b : BitVec 5) (a : BitVec 5) (k : BitVec 3) : Nat := 67108875 + 8388608 * y.toNat + 4194304 * x.toNat + 131072 * b.toNat + 4096 * a.toNat + 128 * k.toNat
def fltDWord (y : BitVec 1) (x : BitVec 1) (b : BitVec 5) (a : BitVec 5) (k : BitVec 3) : Nat := 83886091 + 8388608 * y.toNat + 4194304 * x.toNat + 131072 * b.toNat + 4096 * a.toNat + 128 * k.toNat
def fleDWord (y : BitVec 1) (x : BitVec 1) (b : BitVec 5) (a : BitVec 5) (k : BitVec 3) : Nat := 100663307 + 8388608 * y.toNat + 4194304 * x.toNat + 131072 * b.toNat + 4096 * a.toNat + 128 * k.toNat
def funDWord (y : BitVec 1) (x : BitVec 1) (b : BitVec 5) (a : BitVec 5) (k : BitVec 3) : Nat := 117440523 + 8388608 * y.toNat + 4194304 * x.toNat + 131072 * b.toNat + 4096 * a.toNat + 128 * k.toNat
def feqSWord (y : BitVec 1) (x : BitVec 1) (b : BitVec 5) (a : BitVec 5) (k : BitVec 3) : Nat := 134217739 + 8388608 * y.toNat + 4194304 * x.toNat + 131072 * b.toNat + 4096 * a.toNat + 128 * k.toNat
def fltSWord (y : BitVec 1) (x : BitVec 1) (b : BitVec 5) (a : BitVec 5) (k : BitVec 3) : Nat := 150994955 + 8388608 * y.toNat + 4194304 * x.toNat + 131072 * b.toNat + 4096 * a.toNat + 128 * k.toNat
def fleSWord (y : BitVec 1) (x : BitVec 1) (b : BitVec 5) (a : BitVec 5) (k : BitVec 3) : Nat := 167772171 + 8388608 * y.toNat + 4194304 * x.toNat + 131072 * b.toNat + 4096 * a.toNat + 128 * k.toNat
def funSWord (y : BitVec 1) (x : BitVec 1) (b : BitVec 5) (a : BitVec 5) (k : BitVec 3) : Nat := 184549387 + 8388608 * y.toNat + 4194304 * x.toNat + 131072 * b.toNat + 4096 * a.toNat + 128 * k.toNat
def cmpiEqWord (i : BitVec 14) (x : BitVec 1) (a : BitVec 5) (k : BitVec 3) : Nat := 12 + 262144 * i.toNat + 131072 * x.toNat + 4096 * a.toNat + 128 * k.toNat
def cmpiNeWord (i : BitVec 14) (x : BitVec 1) (a : BitVec 5) (k : BitVec 3) : Nat := 1036 + 262144 * i.toNat + 131072 * x.toNat + 4096 * a.toNat + 128 * k.toNat
def cmpiLtWord (i : BitVec 14) (x : BitVec 1) (a : BitVec 5) (k : BitVec 3) : Nat := 2060 + 262144 * i.toNat + 131072 * x.toNat + 4096 * a.toNat + 128 * k.toNat
def cmpiLtuWord (i : BitVec 14) (x : BitVec 1) (a : BitVec 5) (k : BitVec 3) : Nat := 3084 + 262144 * i.toNat + 131072 * x.toNat + 4096 * a.toNat + 128 * k.toNat
def kandWord (y : BitVec 1) (x : BitVec 1) (b : BitVec 3) (a : BitVec 3) (d : BitVec 3) : Nat := 13 + 8388608 * y.toNat + 4194304 * x.toNat + 131072 * b.toNat + 4096 * a.toNat + 128 * d.toNat
def korWord (y : BitVec 1) (x : BitVec 1) (b : BitVec 3) (a : BitVec 3) (d : BitVec 3) : Nat := 16777229 + 8388608 * y.toNat + 4194304 * x.toNat + 131072 * b.toNat + 4096 * a.toNat + 128 * d.toNat
def kxorWord (y : BitVec 1) (x : BitVec 1) (b : BitVec 3) (a : BitVec 3) (d : BitVec 3) : Nat := 33554445 + 8388608 * y.toNat + 4194304 * x.toNat + 131072 * b.toNat + 4096 * a.toNat + 128 * d.toNat
def ksetWord (x : BitVec 1) (a : BitVec 5) (d : BitVec 3) : Nat := 50331661 + 4194304 * x.toNat + 4096 * a.toNat + 128 * d.toNat
def kgetWord (x : BitVec 1) (a : BitVec 3) (d : BitVec 5) : Nat := 67108877 + 4194304 * x.toNat + 4096 * a.toNat + 128 * d.toNat
def faddDWord (y : BitVec 1) (x : BitVec 1) (b : BitVec 5) (a : BitVec 5) (d : BitVec 5) : Nat := 16 + 8388608 * y.toNat + 4194304 * x.toNat + 131072 * b.toNat + 4096 * a.toNat + 128 * d.toNat
def fsubDWord (y : BitVec 1) (x : BitVec 1) (b : BitVec 5) (a : BitVec 5) (d : BitVec 5) : Nat := 16777232 + 8388608 * y.toNat + 4194304 * x.toNat + 131072 * b.toNat + 4096 * a.toNat + 128 * d.toNat
def fmulDWord (y : BitVec 1) (x : BitVec 1) (b : BitVec 5) (a : BitVec 5) (d : BitVec 5) : Nat := 33554448 + 8388608 * y.toNat + 4194304 * x.toNat + 131072 * b.toNat + 4096 * a.toNat + 128 * d.toNat
def fdivDWord (y : BitVec 1) (x : BitVec 1) (b : BitVec 5) (a : BitVec 5) (d : BitVec 5) : Nat := 50331664 + 8388608 * y.toNat + 4194304 * x.toNat + 131072 * b.toNat + 4096 * a.toNat + 128 * d.toNat
def fsqrtDWord (x : BitVec 1) (a : BitVec 5) (d : BitVec 5) : Nat := 67108880 + 4194304 * x.toNat + 4096 * a.toNat + 128 * d.toNat
def fminDWord (y : BitVec 1) (x : BitVec 1) (b : BitVec 5) (a : BitVec 5) (d : BitVec 5) : Nat := 83886096 + 8388608 * y.toNat + 4194304 * x.toNat + 131072 * b.toNat + 4096 * a.toNat + 128 * d.toNat
def fmaxDWord (y : BitVec 1) (x : BitVec 1) (b : BitVec 5) (a : BitVec 5) (d : BitVec 5) : Nat := 100663312 + 8388608 * y.toNat + 4194304 * x.toNat + 131072 * b.toNat + 4096 * a.toNat + 128 * d.toNat
def faddSWord (y : BitVec 1) (x : BitVec 1) (b : BitVec 5) (a : BitVec 5) (d : BitVec 5) : Nat := 117440528 + 8388608 * y.toNat + 4194304 * x.toNat + 131072 * b.toNat + 4096 * a.toNat + 128 * d.toNat
def fsubSWord (y : BitVec 1) (x : BitVec 1) (b : BitVec 5) (a : BitVec 5) (d : BitVec 5) : Nat := 134217744 + 8388608 * y.toNat + 4194304 * x.toNat + 131072 * b.toNat + 4096 * a.toNat + 128 * d.toNat
def fmulSWord (y : BitVec 1) (x : BitVec 1) (b : BitVec 5) (a : BitVec 5) (d : BitVec 5) : Nat := 150994960 + 8388608 * y.toNat + 4194304 * x.toNat + 131072 * b.toNat + 4096 * a.toNat + 128 * d.toNat
def fdivSWord (y : BitVec 1) (x : BitVec 1) (b : BitVec 5) (a : BitVec 5) (d : BitVec 5) : Nat := 167772176 + 8388608 * y.toNat + 4194304 * x.toNat + 131072 * b.toNat + 4096 * a.toNat + 128 * d.toNat
def fsqrtSWord (x : BitVec 1) (a : BitVec 5) (d : BitVec 5) : Nat := 184549392 + 4194304 * x.toNat + 4096 * a.toNat + 128 * d.toNat
def fminSWord (y : BitVec 1) (x : BitVec 1) (b : BitVec 5) (a : BitVec 5) (d : BitVec 5) : Nat := 201326608 + 8388608 * y.toNat + 4194304 * x.toNat + 131072 * b.toNat + 4096 * a.toNat + 128 * d.toNat
def fmaxSWord (y : BitVec 1) (x : BitVec 1) (b : BitVec 5) (a : BitVec 5) (d : BitVec 5) : Nat := 218103824 + 8388608 * y.toNat + 4194304 * x.toNat + 131072 * b.toNat + 4096 * a.toNat + 128 * d.toNat
def cvtDLWord (x : BitVec 1) (a : BitVec 5) (d : BitVec 5) : Nat := 234881040 + 4194304 * x.toNat + 4096 * a.toNat + 128 * d.toNat
def cvtLDWord (x : BitVec 1) (a : BitVec 5) (d : BitVec 5) : Nat := 251658256 + 4194304 * x.toNat + 4096 * a.toNat + 128 * d.toNat
def cvtSLWord (x : BitVec 1) (a : BitVec 5) (d : BitVec 5) : Nat := 268435472 + 4194304 * x.toNat + 4096 * a.toNat + 128 * d.toNat
def cvtLSWord (x : BitVec 1) (a : BitVec 5) (d : BitVec 5) : Nat := 285212688 + 4194304 * x.toNat + 4096 * a.toNat + 128 * d.toNat
def cvtDSWord (x : BitVec 1) (a : BitVec 5) (d : BitVec 5) : Nat := 301989904 + 4194304 * x.toNat + 4096 * a.toNat + 128 * d.toNat
def cvtSDWord (x : BitVec 1) (a : BitVec 5) (d : BitVec 5) : Nat := 318767120 + 4194304 * x.toNat + 4096 * a.toNat + 128 * d.toNat
def fmaddDWord (c : BitVec 5) (b : BitVec 5) (a : BitVec 5) (d : BitVec 5) : Nat := 17 + 4194304 * c.toNat + 131072 * b.toNat + 4096 * a.toNat + 128 * d.toNat
def fmsubDWord (c : BitVec 5) (b : BitVec 5) (a : BitVec 5) (d : BitVec 5) : Nat := 1073741841 + 4194304 * c.toNat + 131072 * b.toNat + 4096 * a.toNat + 128 * d.toNat
def fmaddSWord (c : BitVec 5) (b : BitVec 5) (a : BitVec 5) (d : BitVec 5) : Nat := 2147483665 + 4194304 * c.toNat + 131072 * b.toNat + 4096 * a.toNat + 128 * d.toNat
def fmsubSWord (c : BitVec 5) (b : BitVec 5) (a : BitVec 5) (d : BitVec 5) : Nat := 3221225489 + 4194304 * c.toNat + 131072 * b.toNat + 4096 * a.toNat + 128 * d.toNat
def bKWord (o : BitVec 20) (p : BitVec 1) (k : BitVec 3) : Nat := 32 + 4096 * o.toNat + 2048 * p.toNat + 128 * k.toNat
def bNkWord (o : BitVec 20) (p : BitVec 1) (k : BitVec 3) : Nat := 1056 + 4096 * o.toNat + 2048 * p.toNat + 128 * k.toNat
def jalWord (i : BitVec 20) (d : BitVec 5) : Nat := 33 + 4096 * i.toNat + 128 * d.toNat
def jalrWord (i : BitVec 14) (x : BitVec 1) (a : BitVec 5) (d : BitVec 5) : Nat := 34 + 262144 * i.toNat + 131072 * x.toNat + 4096 * a.toNat + 128 * d.toNat
def ldBWord (i : BitVec 10) (s : BitVec 2) (x : BitVec 1) (a : BitVec 5) (d : BitVec 5) : Nat := 40 + 4194304 * i.toNat + 262144 * s.toNat + 131072 * x.toNat + 4096 * a.toNat + 128 * d.toNat
def ldBuWord (i : BitVec 10) (s : BitVec 2) (x : BitVec 1) (a : BitVec 5) (d : BitVec 5) : Nat := 41 + 4194304 * i.toNat + 262144 * s.toNat + 131072 * x.toNat + 4096 * a.toNat + 128 * d.toNat
def ldHWord (i : BitVec 10) (s : BitVec 2) (x : BitVec 1) (a : BitVec 5) (d : BitVec 5) : Nat := 42 + 4194304 * i.toNat + 262144 * s.toNat + 131072 * x.toNat + 4096 * a.toNat + 128 * d.toNat
def ldHuWord (i : BitVec 10) (s : BitVec 2) (x : BitVec 1) (a : BitVec 5) (d : BitVec 5) : Nat := 43 + 4194304 * i.toNat + 262144 * s.toNat + 131072 * x.toNat + 4096 * a.toNat + 128 * d.toNat
def ldWWord (i : BitVec 10) (s : BitVec 2) (x : BitVec 1) (a : BitVec 5) (d : BitVec 5) : Nat := 44 + 4194304 * i.toNat + 262144 * s.toNat + 131072 * x.toNat + 4096 * a.toNat + 128 * d.toNat
def ldWuWord (i : BitVec 10) (s : BitVec 2) (x : BitVec 1) (a : BitVec 5) (d : BitVec 5) : Nat := 45 + 4194304 * i.toNat + 262144 * s.toNat + 131072 * x.toNat + 4096 * a.toNat + 128 * d.toNat
def ldDWord (i : BitVec 10) (s : BitVec 2) (x : BitVec 1) (a : BitVec 5) (d : BitVec 5) : Nat := 46 + 4194304 * i.toNat + 262144 * s.toNat + 131072 * x.toNat + 4096 * a.toNat + 128 * d.toNat
def stBWord (i : BitVec 10) (s : BitVec 2) (x : BitVec 1) (a : BitVec 5) (d : BitVec 5) : Nat := 48 + 4194304 * i.toNat + 262144 * s.toNat + 131072 * x.toNat + 4096 * a.toNat + 128 * d.toNat
def stHWord (i : BitVec 10) (s : BitVec 2) (x : BitVec 1) (a : BitVec 5) (d : BitVec 5) : Nat := 49 + 4194304 * i.toNat + 262144 * s.toNat + 131072 * x.toNat + 4096 * a.toNat + 128 * d.toNat
def stWWord (i : BitVec 10) (s : BitVec 2) (x : BitVec 1) (a : BitVec 5) (d : BitVec 5) : Nat := 50 + 4194304 * i.toNat + 262144 * s.toNat + 131072 * x.toNat + 4096 * a.toNat + 128 * d.toNat
def stDWord (i : BitVec 10) (s : BitVec 2) (x : BitVec 1) (a : BitVec 5) (d : BitVec 5) : Nat := 51 + 4194304 * i.toNat + 262144 * s.toNat + 131072 * x.toNat + 4096 * a.toNat + 128 * d.toNat
def amoAddWWord (c : BitVec 3) (y : BitVec 1) (x : BitVec 1) (b : BitVec 5) (a : BitVec 5) (d : BitVec 5) : Nat := 52 + 536870912 * c.toNat + 8388608 * y.toNat + 4194304 * x.toNat + 131072 * b.toNat + 4096 * a.toNat + 128 * d.toNat
def amoAddDWord (c : BitVec 3) (y : BitVec 1) (x : BitVec 1) (b : BitVec 5) (a : BitVec 5) (d : BitVec 5) : Nat := 16777268 + 536870912 * c.toNat + 8388608 * y.toNat + 4194304 * x.toNat + 131072 * b.toNat + 4096 * a.toNat + 128 * d.toNat
def amoMinDWord (c : BitVec 3) (y : BitVec 1) (x : BitVec 1) (b : BitVec 5) (a : BitVec 5) (d : BitVec 5) : Nat := 33554484 + 536870912 * c.toNat + 8388608 * y.toNat + 4194304 * x.toNat + 131072 * b.toNat + 4096 * a.toNat + 128 * d.toNat
def amoMaxDWord (c : BitVec 3) (y : BitVec 1) (x : BitVec 1) (b : BitVec 5) (a : BitVec 5) (d : BitVec 5) : Nat := 50331700 + 536870912 * c.toNat + 8388608 * y.toNat + 4194304 * x.toNat + 131072 * b.toNat + 4096 * a.toNat + 128 * d.toNat
def amoMinuDWord (c : BitVec 3) (y : BitVec 1) (x : BitVec 1) (b : BitVec 5) (a : BitVec 5) (d : BitVec 5) : Nat := 67108916 + 536870912 * c.toNat + 8388608 * y.toNat + 4194304 * x.toNat + 131072 * b.toNat + 4096 * a.toNat + 128 * d.toNat
def amoMaxuDWord (c : BitVec 3) (y : BitVec 1) (x : BitVec 1) (b : BitVec 5) (a : BitVec 5) (d : BitVec 5) : Nat := 83886132 + 536870912 * c.toNat + 8388608 * y.toNat + 4194304 * x.toNat + 131072 * b.toNat + 4096 * a.toNat + 128 * d.toNat
def amoSwapDWord (c : BitVec 3) (y : BitVec 1) (x : BitVec 1) (b : BitVec 5) (a : BitVec 5) (d : BitVec 5) : Nat := 100663348 + 536870912 * c.toNat + 8388608 * y.toNat + 4194304 * x.toNat + 131072 * b.toNat + 4096 * a.toNat + 128 * d.toNat
def amoCasDWord (c : BitVec 3) (y : BitVec 1) (x : BitVec 1) (b : BitVec 5) (a : BitVec 5) (d : BitVec 5) : Nat := 117440564 + 536870912 * c.toNat + 8388608 * y.toNat + 4194304 * x.toNat + 131072 * b.toNat + 4096 * a.toNat + 128 * d.toNat
def amoFaddSWord (c : BitVec 3) (y : BitVec 1) (x : BitVec 1) (b : BitVec 5) (a : BitVec 5) (d : BitVec 5) : Nat := 134217780 + 536870912 * c.toNat + 8388608 * y.toNat + 4194304 * x.toNat + 131072 * b.toNat + 4096 * a.toNat + 128 * d.toNat
def amoFaddDWord (c : BitVec 3) (y : BitVec 1) (x : BitVec 1) (b : BitVec 5) (a : BitVec 5) (d : BitVec 5) : Nat := 150994996 + 536870912 * c.toNat + 8388608 * y.toNat + 4194304 * x.toNat + 131072 * b.toNat + 4096 * a.toNat + 128 * d.toNat
def sbarWord (c : BitVec 3) (m : BitVec 16) : Nat := 53 + 8388608 * c.toNat + 128 * m.toNat
def fenceWord (c : BitVec 3) : Nat := 54 + 128 * c.toNat
def gsyncWord (c : BitVec 3) (g : BitVec 8) : Nat := 55 + 32768 * c.toNat + 128 * g.toNat
def garriveWord (c : BitVec 3) (g : BitVec 8) : Nat := 262199 + 32768 * c.toNat + 128 * g.toNat
def gwaitWord (c : BitVec 3) (g : BitVec 8) : Nat := 524343 + 32768 * c.toNat + 128 * g.toNat
def crdWord (n : BitVec 12) (d : BitVec 5) : Nat := 56 + 262144 * n.toNat + 128 * d.toNat
def cwrWord (n : BitVec 12) (x : BitVec 1) (a : BitVec 5) (d : BitVec 5) : Nat := 57 + 262144 * n.toNat + 131072 * x.toNat + 4096 * a.toNat + 128 * d.toNat
def trapWord (c : BitVec 20) : Nat := 58 + 4096 * c.toNat
def tretWord : Nat := 186
def haltWord : Nat := 314
def idleWord : Nat := 442
def brkWord : Nat := 570
def yieldWord : Nat := 698
def l1invWord (x : BitVec 1) (a : BitVec 5) : Nat := 59 + 4194304 * x.toNat + 4096 * a.toNat
def l2wbWord (x : BitVec 1) (a : BitVec 5) : Nat := 16777275 + 4194304 * x.toNat + 4096 * a.toNat
def tlbinvWord (x : BitVec 1) (a : BitVec 5) : Nat := 33554491 + 4194304 * x.toNat + 4096 * a.toNat
def tlbsyncWord : Nat := 50331707
def setlenWord (y : BitVec 1) (x : BitVec 1) (b : BitVec 5) (a : BitVec 5) (d : BitVec 5) : Nat := 60 + 8388608 * y.toNat + 4194304 * x.toNat + 131072 * b.toNat + 4096 * a.toNat + 128 * d.toNat
def setrowsWord (x : BitVec 1) (a : BitVec 5) (d : BitVec 5) : Nat := 16777276 + 4194304 * x.toNat + 4096 * a.toNat + 128 * d.toNat
def setfmtWord (x : BitVec 1) (a : BitVec 5) (d : BitVec 5) : Nat := 33554492 + 4194304 * x.toNat + 4096 * a.toNat + 128 * d.toNat
def vdrainWord : Nat := 50331708
def vstatWord (d : BitVec 5) : Nat := 67108924 + 128 * d.toNat
def hwpubWord (y : BitVec 1) (x : BitVec 1) (b : BitVec 5) (a : BitVec 5) : Nat := 83886140 + 8388608 * y.toNat + 4194304 * x.toNat + 131072 * b.toNat + 4096 * a.toNat
def setfmtiWord (i : BitVec 13) (d : BitVec 5) : Nat := 61 + 262144 * i.toNat + 128 * d.toNat
def vblkWord (i : BitVec 20) : Nat := 62 + 4096 * i.toNat
def vbindWord (x : BitVec 1) (k : BitVec 3) (a : BitVec 5) (d : BitVec 5) : Nat := 79 + 4194304 * x.toNat + 131072 * k.toNat + 4096 * a.toNat + 128 * d.toNat
def vunbindWord (d : BitVec 5) : Nat := 16777295 + 128 * d.toNat
def qpatWord (x : BitVec 1) (a : BitVec 5) (q : BitVec 4) : Nat := 33554511 + 4194304 * x.toNat + 4096 * a.toNat + 128 * q.toNat
def qstatWord (q : BitVec 4) (d : BitVec 5) : Nat := 50331727 + 4096 * q.toNat + 128 * d.toNat
def vintAddWord (y : BitVec 1) (x : BitVec 1) (m : BitVec 3) (b : BitVec 5) (a : BitVec 5) (d : BitVec 5) : Nat := 64 + 67108864 * y.toNat + 33554432 * x.toNat + 4194304 * m.toNat + 131072 * b.toNat + 4096 * a.toNat + 128 * d.toNat
def vintSubWord (y : BitVec 1) (x : BitVec 1) (m : BitVec 3) (b : BitVec 5) (a : BitVec 5) (d : BitVec 5) : Nat := 134217792 + 67108864 * y.toNat + 33554432 * x.toNat + 4194304 * m.toNat + 131072 * b.toNat + 4096 * a.toNat + 128 * d.toNat
def vintMulWord (y : BitVec 1) (x : BitVec 1) (m : BitVec 3) (b : BitVec 5) (a : BitVec 5) (d : BitVec 5) : Nat := 268435520 + 67108864 * y.toNat + 33554432 * x.toNat + 4194304 * m.toNat + 131072 * b.toNat + 4096 * a.toNat + 128 * d.toNat
def vintMulhWord (y : BitVec 1) (x : BitVec 1) (m : BitVec 3) (b : BitVec 5) (a : BitVec 5) (d : BitVec 5) : Nat := 402653248 + 67108864 * y.toNat + 33554432 * x.toNat + 4194304 * m.toNat + 131072 * b.toNat + 4096 * a.toNat + 128 * d.toNat
def vintMulhuWord (y : BitVec 1) (x : BitVec 1) (m : BitVec 3) (b : BitVec 5) (a : BitVec 5) (d : BitVec 5) : Nat := 536870976 + 67108864 * y.toNat + 33554432 * x.toNat + 4194304 * m.toNat + 131072 * b.toNat + 4096 * a.toNat + 128 * d.toNat
def vintMinWord (y : BitVec 1) (x : BitVec 1) (m : BitVec 3) (b : BitVec 5) (a : BitVec 5) (d : BitVec 5) : Nat := 671088704 + 67108864 * y.toNat + 33554432 * x.toNat + 4194304 * m.toNat + 131072 * b.toNat + 4096 * a.toNat + 128 * d.toNat
def vintMaxWord (y : BitVec 1) (x : BitVec 1) (m : BitVec 3) (b : BitVec 5) (a : BitVec 5) (d : BitVec 5) : Nat := 805306432 + 67108864 * y.toNat + 33554432 * x.toNat + 4194304 * m.toNat + 131072 * b.toNat + 4096 * a.toNat + 128 * d.toNat
def vintMinuWord (y : BitVec 1) (x : BitVec 1) (m : BitVec 3) (b : BitVec 5) (a : BitVec 5) (d : BitVec 5) : Nat := 939524160 + 67108864 * y.toNat + 33554432 * x.toNat + 4194304 * m.toNat + 131072 * b.toNat + 4096 * a.toNat + 128 * d.toNat
def vintMaxuWord (y : BitVec 1) (x : BitVec 1) (m : BitVec 3) (b : BitVec 5) (a : BitVec 5) (d : BitVec 5) : Nat := 1073741888 + 67108864 * y.toNat + 33554432 * x.toNat + 4194304 * m.toNat + 131072 * b.toNat + 4096 * a.toNat + 128 * d.toNat
def vintAndWord (y : BitVec 1) (x : BitVec 1) (m : BitVec 3) (b : BitVec 5) (a : BitVec 5) (d : BitVec 5) : Nat := 1207959616 + 67108864 * y.toNat + 33554432 * x.toNat + 4194304 * m.toNat + 131072 * b.toNat + 4096 * a.toNat + 128 * d.toNat
def vintOrWord (y : BitVec 1) (x : BitVec 1) (m : BitVec 3) (b : BitVec 5) (a : BitVec 5) (d : BitVec 5) : Nat := 1342177344 + 67108864 * y.toNat + 33554432 * x.toNat + 4194304 * m.toNat + 131072 * b.toNat + 4096 * a.toNat + 128 * d.toNat
def vintXorWord (y : BitVec 1) (x : BitVec 1) (m : BitVec 3) (b : BitVec 5) (a : BitVec 5) (d : BitVec 5) : Nat := 1476395072 + 67108864 * y.toNat + 33554432 * x.toNat + 4194304 * m.toNat + 131072 * b.toNat + 4096 * a.toNat + 128 * d.toNat
def vintSllWord (y : BitVec 1) (x : BitVec 1) (m : BitVec 3) (b : BitVec 5) (a : BitVec 5) (d : BitVec 5) : Nat := 1610612800 + 67108864 * y.toNat + 33554432 * x.toNat + 4194304 * m.toNat + 131072 * b.toNat + 4096 * a.toNat + 128 * d.toNat
def vintSrlWord (y : BitVec 1) (x : BitVec 1) (m : BitVec 3) (b : BitVec 5) (a : BitVec 5) (d : BitVec 5) : Nat := 1744830528 + 67108864 * y.toNat + 33554432 * x.toNat + 4194304 * m.toNat + 131072 * b.toNat + 4096 * a.toNat + 128 * d.toNat
def vintSraWord (y : BitVec 1) (x : BitVec 1) (m : BitVec 3) (b : BitVec 5) (a : BitVec 5) (d : BitVec 5) : Nat := 1879048256 + 67108864 * y.toNat + 33554432 * x.toNat + 4194304 * m.toNat + 131072 * b.toNat + 4096 * a.toNat + 128 * d.toNat
def vintAddsWord (y : BitVec 1) (x : BitVec 1) (m : BitVec 3) (b : BitVec 5) (a : BitVec 5) (d : BitVec 5) : Nat := 2013265984 + 67108864 * y.toNat + 33554432 * x.toNat + 4194304 * m.toNat + 131072 * b.toNat + 4096 * a.toNat + 128 * d.toNat
def vintSubsWord (y : BitVec 1) (x : BitVec 1) (m : BitVec 3) (b : BitVec 5) (a : BitVec 5) (d : BitVec 5) : Nat := 2147483712 + 67108864 * y.toNat + 33554432 * x.toNat + 4194304 * m.toNat + 131072 * b.toNat + 4096 * a.toNat + 128 * d.toNat
def vintAddsuWord (y : BitVec 1) (x : BitVec 1) (m : BitVec 3) (b : BitVec 5) (a : BitVec 5) (d : BitVec 5) : Nat := 2281701440 + 67108864 * y.toNat + 33554432 * x.toNat + 4194304 * m.toNat + 131072 * b.toNat + 4096 * a.toNat + 128 * d.toNat
def vintSubsuWord (y : BitVec 1) (x : BitVec 1) (m : BitVec 3) (b : BitVec 5) (a : BitVec 5) (d : BitVec 5) : Nat := 2415919168 + 67108864 * y.toNat + 33554432 * x.toNat + 4194304 * m.toNat + 131072 * b.toNat + 4096 * a.toNat + 128 * d.toNat
def vintMovWord (y : BitVec 1) (m : BitVec 3) (b : BitVec 5) (d : BitVec 5) : Nat := 2550136896 + 67108864 * y.toNat + 4194304 * m.toNat + 131072 * b.toNat + 128 * d.toNat
def vintGAddWord (y : BitVec 1) (x : BitVec 1) (m : BitVec 3) (b : BitVec 3) (a : BitVec 5) (d : BitVec 5) : Nat := 65 + 67108864 * y.toNat + 33554432 * x.toNat + 4194304 * m.toNat + 131072 * b.toNat + 4096 * a.toNat + 128 * d.toNat
def vintGSubWord (y : BitVec 1) (x : BitVec 1) (m : BitVec 3) (b : BitVec 3) (a : BitVec 5) (d : BitVec 5) : Nat := 134217793 + 67108864 * y.toNat + 33554432 * x.toNat + 4194304 * m.toNat + 131072 * b.toNat + 4096 * a.toNat + 128 * d.toNat
def vintGMulWord (y : BitVec 1) (x : BitVec 1) (m : BitVec 3) (b : BitVec 3) (a : BitVec 5) (d : BitVec 5) : Nat := 268435521 + 67108864 * y.toNat + 33554432 * x.toNat + 4194304 * m.toNat + 131072 * b.toNat + 4096 * a.toNat + 128 * d.toNat
def vintGMulhWord (y : BitVec 1) (x : BitVec 1) (m : BitVec 3) (b : BitVec 3) (a : BitVec 5) (d : BitVec 5) : Nat := 402653249 + 67108864 * y.toNat + 33554432 * x.toNat + 4194304 * m.toNat + 131072 * b.toNat + 4096 * a.toNat + 128 * d.toNat
def vintGMulhuWord (y : BitVec 1) (x : BitVec 1) (m : BitVec 3) (b : BitVec 3) (a : BitVec 5) (d : BitVec 5) : Nat := 536870977 + 67108864 * y.toNat + 33554432 * x.toNat + 4194304 * m.toNat + 131072 * b.toNat + 4096 * a.toNat + 128 * d.toNat
def vintGMinWord (y : BitVec 1) (x : BitVec 1) (m : BitVec 3) (b : BitVec 3) (a : BitVec 5) (d : BitVec 5) : Nat := 671088705 + 67108864 * y.toNat + 33554432 * x.toNat + 4194304 * m.toNat + 131072 * b.toNat + 4096 * a.toNat + 128 * d.toNat
def vintGMaxWord (y : BitVec 1) (x : BitVec 1) (m : BitVec 3) (b : BitVec 3) (a : BitVec 5) (d : BitVec 5) : Nat := 805306433 + 67108864 * y.toNat + 33554432 * x.toNat + 4194304 * m.toNat + 131072 * b.toNat + 4096 * a.toNat + 128 * d.toNat
def vintGMinuWord (y : BitVec 1) (x : BitVec 1) (m : BitVec 3) (b : BitVec 3) (a : BitVec 5) (d : BitVec 5) : Nat := 939524161 + 67108864 * y.toNat + 33554432 * x.toNat + 4194304 * m.toNat + 131072 * b.toNat + 4096 * a.toNat + 128 * d.toNat
def vintGMaxuWord (y : BitVec 1) (x : BitVec 1) (m : BitVec 3) (b : BitVec 3) (a : BitVec 5) (d : BitVec 5) : Nat := 1073741889 + 67108864 * y.toNat + 33554432 * x.toNat + 4194304 * m.toNat + 131072 * b.toNat + 4096 * a.toNat + 128 * d.toNat
def vintGAndWord (y : BitVec 1) (x : BitVec 1) (m : BitVec 3) (b : BitVec 3) (a : BitVec 5) (d : BitVec 5) : Nat := 1207959617 + 67108864 * y.toNat + 33554432 * x.toNat + 4194304 * m.toNat + 131072 * b.toNat + 4096 * a.toNat + 128 * d.toNat
def vintGOrWord (y : BitVec 1) (x : BitVec 1) (m : BitVec 3) (b : BitVec 3) (a : BitVec 5) (d : BitVec 5) : Nat := 1342177345 + 67108864 * y.toNat + 33554432 * x.toNat + 4194304 * m.toNat + 131072 * b.toNat + 4096 * a.toNat + 128 * d.toNat
def vintGXorWord (y : BitVec 1) (x : BitVec 1) (m : BitVec 3) (b : BitVec 3) (a : BitVec 5) (d : BitVec 5) : Nat := 1476395073 + 67108864 * y.toNat + 33554432 * x.toNat + 4194304 * m.toNat + 131072 * b.toNat + 4096 * a.toNat + 128 * d.toNat
def vintGSllWord (y : BitVec 1) (x : BitVec 1) (m : BitVec 3) (b : BitVec 3) (a : BitVec 5) (d : BitVec 5) : Nat := 1610612801 + 67108864 * y.toNat + 33554432 * x.toNat + 4194304 * m.toNat + 131072 * b.toNat + 4096 * a.toNat + 128 * d.toNat
def vintGSrlWord (y : BitVec 1) (x : BitVec 1) (m : BitVec 3) (b : BitVec 3) (a : BitVec 5) (d : BitVec 5) : Nat := 1744830529 + 67108864 * y.toNat + 33554432 * x.toNat + 4194304 * m.toNat + 131072 * b.toNat + 4096 * a.toNat + 128 * d.toNat
def vintGSraWord (y : BitVec 1) (x : BitVec 1) (m : BitVec 3) (b : BitVec 3) (a : BitVec 5) (d : BitVec 5) : Nat := 1879048257 + 67108864 * y.toNat + 33554432 * x.toNat + 4194304 * m.toNat + 131072 * b.toNat + 4096 * a.toNat + 128 * d.toNat
def vintGAddsWord (y : BitVec 1) (x : BitVec 1) (m : BitVec 3) (b : BitVec 3) (a : BitVec 5) (d : BitVec 5) : Nat := 2013265985 + 67108864 * y.toNat + 33554432 * x.toNat + 4194304 * m.toNat + 131072 * b.toNat + 4096 * a.toNat + 128 * d.toNat
def vintGSubsWord (y : BitVec 1) (x : BitVec 1) (m : BitVec 3) (b : BitVec 3) (a : BitVec 5) (d : BitVec 5) : Nat := 2147483713 + 67108864 * y.toNat + 33554432 * x.toNat + 4194304 * m.toNat + 131072 * b.toNat + 4096 * a.toNat + 128 * d.toNat
def vintGAddsuWord (y : BitVec 1) (x : BitVec 1) (m : BitVec 3) (b : BitVec 3) (a : BitVec 5) (d : BitVec 5) : Nat := 2281701441 + 67108864 * y.toNat + 33554432 * x.toNat + 4194304 * m.toNat + 131072 * b.toNat + 4096 * a.toNat + 128 * d.toNat
def vintGSubsuWord (y : BitVec 1) (x : BitVec 1) (m : BitVec 3) (b : BitVec 3) (a : BitVec 5) (d : BitVec 5) : Nat := 2415919169 + 67108864 * y.toNat + 33554432 * x.toNat + 4194304 * m.toNat + 131072 * b.toNat + 4096 * a.toNat + 128 * d.toNat
def vintGMovWord (y : BitVec 1) (m : BitVec 3) (b : BitVec 3) (d : BitVec 5) : Nat := 2550136897 + 67108864 * y.toNat + 4194304 * m.toNat + 131072 * b.toNat + 128 * d.toNat
def vintIAddWord (y : BitVec 1) (x : BitVec 1) (m : BitVec 3) (i : BitVec 5) (a : BitVec 5) (d : BitVec 5) : Nat := 66 + 67108864 * y.toNat + 33554432 * x.toNat + 4194304 * m.toNat + 131072 * i.toNat + 4096 * a.toNat + 128 * d.toNat
def vintISubWord (y : BitVec 1) (x : BitVec 1) (m : BitVec 3) (i : BitVec 5) (a : BitVec 5) (d : BitVec 5) : Nat := 134217794 + 67108864 * y.toNat + 33554432 * x.toNat + 4194304 * m.toNat + 131072 * i.toNat + 4096 * a.toNat + 128 * d.toNat
def vintIMulWord (y : BitVec 1) (x : BitVec 1) (m : BitVec 3) (i : BitVec 5) (a : BitVec 5) (d : BitVec 5) : Nat := 268435522 + 67108864 * y.toNat + 33554432 * x.toNat + 4194304 * m.toNat + 131072 * i.toNat + 4096 * a.toNat + 128 * d.toNat
def vintIMulhWord (y : BitVec 1) (x : BitVec 1) (m : BitVec 3) (i : BitVec 5) (a : BitVec 5) (d : BitVec 5) : Nat := 402653250 + 67108864 * y.toNat + 33554432 * x.toNat + 4194304 * m.toNat + 131072 * i.toNat + 4096 * a.toNat + 128 * d.toNat
def vintIMulhuWord (y : BitVec 1) (x : BitVec 1) (m : BitVec 3) (i : BitVec 5) (a : BitVec 5) (d : BitVec 5) : Nat := 536870978 + 67108864 * y.toNat + 33554432 * x.toNat + 4194304 * m.toNat + 131072 * i.toNat + 4096 * a.toNat + 128 * d.toNat
def vintIMinWord (y : BitVec 1) (x : BitVec 1) (m : BitVec 3) (i : BitVec 5) (a : BitVec 5) (d : BitVec 5) : Nat := 671088706 + 67108864 * y.toNat + 33554432 * x.toNat + 4194304 * m.toNat + 131072 * i.toNat + 4096 * a.toNat + 128 * d.toNat
def vintIMaxWord (y : BitVec 1) (x : BitVec 1) (m : BitVec 3) (i : BitVec 5) (a : BitVec 5) (d : BitVec 5) : Nat := 805306434 + 67108864 * y.toNat + 33554432 * x.toNat + 4194304 * m.toNat + 131072 * i.toNat + 4096 * a.toNat + 128 * d.toNat
def vintIMinuWord (y : BitVec 1) (x : BitVec 1) (m : BitVec 3) (i : BitVec 5) (a : BitVec 5) (d : BitVec 5) : Nat := 939524162 + 67108864 * y.toNat + 33554432 * x.toNat + 4194304 * m.toNat + 131072 * i.toNat + 4096 * a.toNat + 128 * d.toNat
def vintIMaxuWord (y : BitVec 1) (x : BitVec 1) (m : BitVec 3) (i : BitVec 5) (a : BitVec 5) (d : BitVec 5) : Nat := 1073741890 + 67108864 * y.toNat + 33554432 * x.toNat + 4194304 * m.toNat + 131072 * i.toNat + 4096 * a.toNat + 128 * d.toNat
def vintIAndWord (y : BitVec 1) (x : BitVec 1) (m : BitVec 3) (i : BitVec 5) (a : BitVec 5) (d : BitVec 5) : Nat := 1207959618 + 67108864 * y.toNat + 33554432 * x.toNat + 4194304 * m.toNat + 131072 * i.toNat + 4096 * a.toNat + 128 * d.toNat
def vintIOrWord (y : BitVec 1) (x : BitVec 1) (m : BitVec 3) (i : BitVec 5) (a : BitVec 5) (d : BitVec 5) : Nat := 1342177346 + 67108864 * y.toNat + 33554432 * x.toNat + 4194304 * m.toNat + 131072 * i.toNat + 4096 * a.toNat + 128 * d.toNat
def vintIXorWord (y : BitVec 1) (x : BitVec 1) (m : BitVec 3) (i : BitVec 5) (a : BitVec 5) (d : BitVec 5) : Nat := 1476395074 + 67108864 * y.toNat + 33554432 * x.toNat + 4194304 * m.toNat + 131072 * i.toNat + 4096 * a.toNat + 128 * d.toNat
def vintISllWord (y : BitVec 1) (x : BitVec 1) (m : BitVec 3) (i : BitVec 5) (a : BitVec 5) (d : BitVec 5) : Nat := 1610612802 + 67108864 * y.toNat + 33554432 * x.toNat + 4194304 * m.toNat + 131072 * i.toNat + 4096 * a.toNat + 128 * d.toNat
def vintISrlWord (y : BitVec 1) (x : BitVec 1) (m : BitVec 3) (i : BitVec 5) (a : BitVec 5) (d : BitVec 5) : Nat := 1744830530 + 67108864 * y.toNat + 33554432 * x.toNat + 4194304 * m.toNat + 131072 * i.toNat + 4096 * a.toNat + 128 * d.toNat
def vintISraWord (y : BitVec 1) (x : BitVec 1) (m : BitVec 3) (i : BitVec 5) (a : BitVec 5) (d : BitVec 5) : Nat := 1879048258 + 67108864 * y.toNat + 33554432 * x.toNat + 4194304 * m.toNat + 131072 * i.toNat + 4096 * a.toNat + 128 * d.toNat
def vintIAddsWord (y : BitVec 1) (x : BitVec 1) (m : BitVec 3) (i : BitVec 5) (a : BitVec 5) (d : BitVec 5) : Nat := 2013265986 + 67108864 * y.toNat + 33554432 * x.toNat + 4194304 * m.toNat + 131072 * i.toNat + 4096 * a.toNat + 128 * d.toNat
def vintISubsWord (y : BitVec 1) (x : BitVec 1) (m : BitVec 3) (i : BitVec 5) (a : BitVec 5) (d : BitVec 5) : Nat := 2147483714 + 67108864 * y.toNat + 33554432 * x.toNat + 4194304 * m.toNat + 131072 * i.toNat + 4096 * a.toNat + 128 * d.toNat
def vintIAddsuWord (y : BitVec 1) (x : BitVec 1) (m : BitVec 3) (i : BitVec 5) (a : BitVec 5) (d : BitVec 5) : Nat := 2281701442 + 67108864 * y.toNat + 33554432 * x.toNat + 4194304 * m.toNat + 131072 * i.toNat + 4096 * a.toNat + 128 * d.toNat
def vintISubsuWord (y : BitVec 1) (x : BitVec 1) (m : BitVec 3) (i : BitVec 5) (a : BitVec 5) (d : BitVec 5) : Nat := 2415919170 + 67108864 * y.toNat + 33554432 * x.toNat + 4194304 * m.toNat + 131072 * i.toNat + 4096 * a.toNat + 128 * d.toNat
def vintIMovWord (y : BitVec 1) (m : BitVec 3) (i : BitVec 5) (d : BitVec 5) : Nat := 2550136898 + 67108864 * y.toNat + 4194304 * m.toNat + 131072 * i.toNat + 128 * d.toNat
def vfpFaddWord (y : BitVec 1) (x : BitVec 1) (m : BitVec 3) (b : BitVec 5) (a : BitVec 5) (d : BitVec 5) : Nat := 67 + 67108864 * y.toNat + 33554432 * x.toNat + 4194304 * m.toNat + 131072 * b.toNat + 4096 * a.toNat + 128 * d.toNat
def vfpFsubWord (y : BitVec 1) (x : BitVec 1) (m : BitVec 3) (b : BitVec 5) (a : BitVec 5) (d : BitVec 5) : Nat := 134217795 + 67108864 * y.toNat + 33554432 * x.toNat + 4194304 * m.toNat + 131072 * b.toNat + 4096 * a.toNat + 128 * d.toNat
def vfpFmulWord (y : BitVec 1) (x : BitVec 1) (m : BitVec 3) (b : BitVec 5) (a : BitVec 5) (d : BitVec 5) : Nat := 268435523 + 67108864 * y.toNat + 33554432 * x.toNat + 4194304 * m.toNat + 131072 * b.toNat + 4096 * a.toNat + 128 * d.toNat
def vfpFdivWord (y : BitVec 1) (x : BitVec 1) (m : BitVec 3) (b : BitVec 5) (a : BitVec 5) (d : BitVec 5) : Nat := 402653251 + 67108864 * y.toNat + 33554432 * x.toNat + 4194304 * m.toNat + 131072 * b.toNat + 4096 * a.toNat + 128 * d.toNat
def vfpFsqrtWord (x : BitVec 1) (m : BitVec 3) (a : BitVec 5) (d : BitVec 5) : Nat := 536870979 + 33554432 * x.toNat + 4194304 * m.toNat + 4096 * a.toNat + 128 * d.toNat
def vfpFminWord (y : BitVec 1) (x : BitVec 1) (m : BitVec 3) (b : BitVec 5) (a : BitVec 5) (d : BitVec 5) : Nat := 671088707 + 67108864 * y.toNat + 33554432 * x.toNat + 4194304 * m.toNat + 131072 * b.toNat + 4096 * a.toNat + 128 * d.toNat
def vfpFmaxWord (y : BitVec 1) (x : BitVec 1) (m : BitVec 3) (b : BitVec 5) (a : BitVec 5) (d : BitVec 5) : Nat := 805306435 + 67108864 * y.toNat + 33554432 * x.toNat + 4194304 * m.toNat + 131072 * b.toNat + 4096 * a.toNat + 128 * d.toNat
def vfpFabsWord (x : BitVec 1) (m : BitVec 3) (a : BitVec 5) (d : BitVec 5) : Nat := 939524163 + 33554432 * x.toNat + 4194304 * m.toNat + 4096 * a.toNat + 128 * d.toNat
def vfpFnegWord (x : BitVec 1) (m : BitVec 3) (a : BitVec 5) (d : BitVec 5) : Nat := 1073741891 + 33554432 * x.toNat + 4194304 * m.toNat + 4096 * a.toNat + 128 * d.toNat
def vfpFsgnWord (y : BitVec 1) (x : BitVec 1) (m : BitVec 3) (b : BitVec 5) (a : BitVec 5) (d : BitVec 5) : Nat := 1207959619 + 67108864 * y.toNat + 33554432 * x.toNat + 4194304 * m.toNat + 131072 * b.toNat + 4096 * a.toNat + 128 * d.toNat
def vfpFrcpWord (x : BitVec 1) (m : BitVec 3) (a : BitVec 5) (d : BitVec 5) : Nat := 1342177347 + 33554432 * x.toNat + 4194304 * m.toNat + 4096 * a.toNat + 128 * d.toNat
def vfpFrsqWord (x : BitVec 1) (m : BitVec 3) (a : BitVec 5) (d : BitVec 5) : Nat := 1476395075 + 33554432 * x.toNat + 4194304 * m.toNat + 4096 * a.toNat + 128 * d.toNat
def vfpFexp2Word (x : BitVec 1) (m : BitVec 3) (a : BitVec 5) (d : BitVec 5) : Nat := 1610612803 + 33554432 * x.toNat + 4194304 * m.toNat + 4096 * a.toNat + 128 * d.toNat
def vfpGFaddWord (y : BitVec 1) (x : BitVec 1) (m : BitVec 3) (b : BitVec 3) (a : BitVec 5) (d : BitVec 5) : Nat := 68 + 67108864 * y.toNat + 33554432 * x.toNat + 4194304 * m.toNat + 131072 * b.toNat + 4096 * a.toNat + 128 * d.toNat
def vfpGFsubWord (y : BitVec 1) (x : BitVec 1) (m : BitVec 3) (b : BitVec 3) (a : BitVec 5) (d : BitVec 5) : Nat := 134217796 + 67108864 * y.toNat + 33554432 * x.toNat + 4194304 * m.toNat + 131072 * b.toNat + 4096 * a.toNat + 128 * d.toNat
def vfpGFmulWord (y : BitVec 1) (x : BitVec 1) (m : BitVec 3) (b : BitVec 3) (a : BitVec 5) (d : BitVec 5) : Nat := 268435524 + 67108864 * y.toNat + 33554432 * x.toNat + 4194304 * m.toNat + 131072 * b.toNat + 4096 * a.toNat + 128 * d.toNat
def vfpGFdivWord (y : BitVec 1) (x : BitVec 1) (m : BitVec 3) (b : BitVec 3) (a : BitVec 5) (d : BitVec 5) : Nat := 402653252 + 67108864 * y.toNat + 33554432 * x.toNat + 4194304 * m.toNat + 131072 * b.toNat + 4096 * a.toNat + 128 * d.toNat
def vfpGFsqrtWord (x : BitVec 1) (m : BitVec 3) (a : BitVec 5) (d : BitVec 5) : Nat := 536870980 + 33554432 * x.toNat + 4194304 * m.toNat + 4096 * a.toNat + 128 * d.toNat
def vfpGFminWord (y : BitVec 1) (x : BitVec 1) (m : BitVec 3) (b : BitVec 3) (a : BitVec 5) (d : BitVec 5) : Nat := 671088708 + 67108864 * y.toNat + 33554432 * x.toNat + 4194304 * m.toNat + 131072 * b.toNat + 4096 * a.toNat + 128 * d.toNat
def vfpGFmaxWord (y : BitVec 1) (x : BitVec 1) (m : BitVec 3) (b : BitVec 3) (a : BitVec 5) (d : BitVec 5) : Nat := 805306436 + 67108864 * y.toNat + 33554432 * x.toNat + 4194304 * m.toNat + 131072 * b.toNat + 4096 * a.toNat + 128 * d.toNat
def vfpGFabsWord (x : BitVec 1) (m : BitVec 3) (a : BitVec 5) (d : BitVec 5) : Nat := 939524164 + 33554432 * x.toNat + 4194304 * m.toNat + 4096 * a.toNat + 128 * d.toNat
def vfpGFnegWord (x : BitVec 1) (m : BitVec 3) (a : BitVec 5) (d : BitVec 5) : Nat := 1073741892 + 33554432 * x.toNat + 4194304 * m.toNat + 4096 * a.toNat + 128 * d.toNat
def vfpGFsgnWord (y : BitVec 1) (x : BitVec 1) (m : BitVec 3) (b : BitVec 3) (a : BitVec 5) (d : BitVec 5) : Nat := 1207959620 + 67108864 * y.toNat + 33554432 * x.toNat + 4194304 * m.toNat + 131072 * b.toNat + 4096 * a.toNat + 128 * d.toNat
def vfpGFrcpWord (x : BitVec 1) (m : BitVec 3) (a : BitVec 5) (d : BitVec 5) : Nat := 1342177348 + 33554432 * x.toNat + 4194304 * m.toNat + 4096 * a.toNat + 128 * d.toNat
def vfpGFrsqWord (x : BitVec 1) (m : BitVec 3) (a : BitVec 5) (d : BitVec 5) : Nat := 1476395076 + 33554432 * x.toNat + 4194304 * m.toNat + 4096 * a.toNat + 128 * d.toNat
def vfpGFexp2Word (x : BitVec 1) (m : BitVec 3) (a : BitVec 5) (d : BitVec 5) : Nat := 1610612804 + 33554432 * x.toNat + 4194304 * m.toNat + 4096 * a.toNat + 128 * d.toNat
def vfmaFmaddWord (m : BitVec 3) (c : BitVec 5) (b : BitVec 5) (a : BitVec 5) (d : BitVec 5) : Nat := 69 + 134217728 * m.toNat + 4194304 * c.toNat + 131072 * b.toNat + 4096 * a.toNat + 128 * d.toNat
def vfmaFmsubWord (m : BitVec 3) (c : BitVec 5) (b : BitVec 5) (a : BitVec 5) (d : BitVec 5) : Nat := 1073741893 + 134217728 * m.toNat + 4194304 * c.toNat + 131072 * b.toNat + 4096 * a.toNat + 128 * d.toNat
def vfmaFnmaddWord (m : BitVec 3) (c : BitVec 5) (b : BitVec 5) (a : BitVec 5) (d : BitVec 5) : Nat := 2147483717 + 134217728 * m.toNat + 4194304 * c.toNat + 131072 * b.toNat + 4096 * a.toNat + 128 * d.toNat
def vfmaImaddWord (m : BitVec 3) (c : BitVec 5) (b : BitVec 5) (a : BitVec 5) (d : BitVec 5) : Nat := 3221225541 + 134217728 * m.toNat + 4194304 * c.toNat + 131072 * b.toNat + 4096 * a.toNat + 128 * d.toNat
def vcmpEqWord (y : BitVec 1) (x : BitVec 1) (m : BitVec 3) (b : BitVec 5) (a : BitVec 5) (d : BitVec 3) : Nat := 70 + 67108864 * y.toNat + 33554432 * x.toNat + 4194304 * m.toNat + 131072 * b.toNat + 4096 * a.toNat + 128 * d.toNat
def vcmpNeWord (y : BitVec 1) (x : BitVec 1) (m : BitVec 3) (b : BitVec 5) (a : BitVec 5) (d : BitVec 3) : Nat := 134217798 + 67108864 * y.toNat + 33554432 * x.toNat + 4194304 * m.toNat + 131072 * b.toNat + 4096 * a.toNat + 128 * d.toNat
def vcmpLtWord (y : BitVec 1) (x : BitVec 1) (m : BitVec 3) (b : BitVec 5) (a : BitVec 5) (d : BitVec 3) : Nat := 268435526 + 67108864 * y.toNat + 33554432 * x.toNat + 4194304 * m.toNat + 131072 * b.toNat + 4096 * a.toNat + 128 * d.toNat
def vcmpLeWord (y : BitVec 1) (x : BitVec 1) (m : BitVec 3) (b : BitVec 5) (a : BitVec 5) (d : BitVec 3) : Nat := 402653254 + 67108864 * y.toNat + 33554432 * x.toNat + 4194304 * m.toNat + 131072 * b.toNat + 4096 * a.toNat + 128 * d.toNat
def vcmpLtuWord (y : BitVec 1) (x : BitVec 1) (m : BitVec 3) (b : BitVec 5) (a : BitVec 5) (d : BitVec 3) : Nat := 536870982 + 67108864 * y.toNat + 33554432 * x.toNat + 4194304 * m.toNat + 131072 * b.toNat + 4096 * a.toNat + 128 * d.toNat
def vcmpLeuWord (y : BitVec 1) (x : BitVec 1) (m : BitVec 3) (b : BitVec 5) (a : BitVec 5) (d : BitVec 3) : Nat := 671088710 + 67108864 * y.toNat + 33554432 * x.toNat + 4194304 * m.toNat + 131072 * b.toNat + 4096 * a.toNat + 128 * d.toNat
def vcmpFeqWord (y : BitVec 1) (x : BitVec 1) (m : BitVec 3) (b : BitVec 5) (a : BitVec 5) (d : BitVec 3) : Nat := 805306438 + 67108864 * y.toNat + 33554432 * x.toNat + 4194304 * m.toNat + 131072 * b.toNat + 4096 * a.toNat + 128 * d.toNat
def vcmpFltWord (y : BitVec 1) (x : BitVec 1) (m : BitVec 3) (b : BitVec 5) (a : BitVec 5) (d : BitVec 3) : Nat := 939524166 + 67108864 * y.toNat + 33554432 * x.toNat + 4194304 * m.toNat + 131072 * b.toNat + 4096 * a.toNat + 128 * d.toNat
def vcmpFleWord (y : BitVec 1) (x : BitVec 1) (m : BitVec 3) (b : BitVec 5) (a : BitVec 5) (d : BitVec 3) : Nat := 1073741894 + 67108864 * y.toNat + 33554432 * x.toNat + 4194304 * m.toNat + 131072 * b.toNat + 4096 * a.toNat + 128 * d.toNat
def vcmpFunWord (y : BitVec 1) (x : BitVec 1) (m : BitVec 3) (b : BitVec 5) (a : BitVec 5) (d : BitVec 3) : Nat := 1207959622 + 67108864 * y.toNat + 33554432 * x.toNat + 4194304 * m.toNat + 131072 * b.toNat + 4096 * a.toNat + 128 * d.toNat
def vcmpGEqWord (y : BitVec 1) (x : BitVec 1) (m : BitVec 3) (b : BitVec 3) (a : BitVec 5) (d : BitVec 3) : Nat := 71 + 67108864 * y.toNat + 33554432 * x.toNat + 4194304 * m.toNat + 131072 * b.toNat + 4096 * a.toNat + 128 * d.toNat
def vcmpGNeWord (y : BitVec 1) (x : BitVec 1) (m : BitVec 3) (b : BitVec 3) (a : BitVec 5) (d : BitVec 3) : Nat := 134217799 + 67108864 * y.toNat + 33554432 * x.toNat + 4194304 * m.toNat + 131072 * b.toNat + 4096 * a.toNat + 128 * d.toNat
def vcmpGLtWord (y : BitVec 1) (x : BitVec 1) (m : BitVec 3) (b : BitVec 3) (a : BitVec 5) (d : BitVec 3) : Nat := 268435527 + 67108864 * y.toNat + 33554432 * x.toNat + 4194304 * m.toNat + 131072 * b.toNat + 4096 * a.toNat + 128 * d.toNat
def vcmpGLeWord (y : BitVec 1) (x : BitVec 1) (m : BitVec 3) (b : BitVec 3) (a : BitVec 5) (d : BitVec 3) : Nat := 402653255 + 67108864 * y.toNat + 33554432 * x.toNat + 4194304 * m.toNat + 131072 * b.toNat + 4096 * a.toNat + 128 * d.toNat
def vcmpGLtuWord (y : BitVec 1) (x : BitVec 1) (m : BitVec 3) (b : BitVec 3) (a : BitVec 5) (d : BitVec 3) : Nat := 536870983 + 67108864 * y.toNat + 33554432 * x.toNat + 4194304 * m.toNat + 131072 * b.toNat + 4096 * a.toNat + 128 * d.toNat
def vcmpGLeuWord (y : BitVec 1) (x : BitVec 1) (m : BitVec 3) (b : BitVec 3) (a : BitVec 5) (d : BitVec 3) : Nat := 671088711 + 67108864 * y.toNat + 33554432 * x.toNat + 4194304 * m.toNat + 131072 * b.toNat + 4096 * a.toNat + 128 * d.toNat
def vcmpGFeqWord (y : BitVec 1) (x : BitVec 1) (m : BitVec 3) (b : BitVec 3) (a : BitVec 5) (d : BitVec 3) : Nat := 805306439 + 67108864 * y.toNat + 33554432 * x.toNat + 4194304 * m.toNat + 131072 * b.toNat + 4096 * a.toNat + 128 * d.toNat
def vcmpGFltWord (y : BitVec 1) (x : BitVec 1) (m : BitVec 3) (b : BitVec 3) (a : BitVec 5) (d : BitVec 3) : Nat := 939524167 + 67108864 * y.toNat + 33554432 * x.toNat + 4194304 * m.toNat + 131072 * b.toNat + 4096 * a.toNat + 128 * d.toNat
def vcmpGFleWord (y : BitVec 1) (x : BitVec 1) (m : BitVec 3) (b : BitVec 3) (a : BitVec 5) (d : BitVec 3) : Nat := 1073741895 + 67108864 * y.toNat + 33554432 * x.toNat + 4194304 * m.toNat + 131072 * b.toNat + 4096 * a.toNat + 128 * d.toNat
def vcmpGFunWord (y : BitVec 1) (x : BitVec 1) (m : BitVec 3) (b : BitVec 3) (a : BitVec 5) (d : BitVec 3) : Nat := 1207959623 + 67108864 * y.toNat + 33554432 * x.toNat + 4194304 * m.toNat + 131072 * b.toNat + 4096 * a.toNat + 128 * d.toNat
def mandWord (y : BitVec 1) (x : BitVec 1) (b : BitVec 3) (a : BitVec 3) (d : BitVec 3) : Nat := 72 + 67108864 * y.toNat + 33554432 * x.toNat + 131072 * b.toNat + 4096 * a.toNat + 128 * d.toNat
def morWord (y : BitVec 1) (x : BitVec 1) (b : BitVec 3) (a : BitVec 3) (d : BitVec 3) : Nat := 134217800 + 67108864 * y.toNat + 33554432 * x.toNat + 131072 * b.toNat + 4096 * a.toNat + 128 * d.toNat
def mxorWord (y : BitVec 1) (x : BitVec 1) (b : BitVec 3) (a : BitVec 3) (d : BitVec 3) : Nat := 268435528 + 67108864 * y.toNat + 33554432 * x.toNat + 131072 * b.toNat + 4096 * a.toNat + 128 * d.toNat
def mnotWord (x : BitVec 1) (a : BitVec 3) (d : BitVec 3) : Nat := 402653256 + 33554432 * x.toNat + 4096 * a.toNat + 128 * d.toNat
def msetWord (d : BitVec 3) : Nat := 536870984 + 128 * d.toNat
def mclrWord (d : BitVec 3) : Nat := 671088712 + 128 * d.toNat
def mpopWord (x : BitVec 1) (a : BitVec 3) (d : BitVec 5) : Nat := 805306440 + 33554432 * x.toNat + 4096 * a.toNat + 128 * d.toNat
def mfirstWord (x : BitVec 1) (a : BitVec 3) (d : BitVec 5) : Nat := 939524168 + 33554432 * x.toNat + 4096 * a.toNat + 128 * d.toNat
def rsumWord (x : BitVec 1) (m : BitVec 3) (a : BitVec 5) (d : BitVec 5) : Nat := 73 + 33554432 * x.toNat + 4194304 * m.toNat + 4096 * a.toNat + 128 * d.toNat
def rminWord (x : BitVec 1) (m : BitVec 3) (a : BitVec 5) (d : BitVec 5) : Nat := 134217801 + 33554432 * x.toNat + 4194304 * m.toNat + 4096 * a.toNat + 128 * d.toNat
def rmaxWord (x : BitVec 1) (m : BitVec 3) (a : BitVec 5) (d : BitVec 5) : Nat := 268435529 + 33554432 * x.toNat + 4194304 * m.toNat + 4096 * a.toNat + 128 * d.toNat
def randWord (x : BitVec 1) (m : BitVec 3) (a : BitVec 5) (d : BitVec 5) : Nat := 402653257 + 33554432 * x.toNat + 4194304 * m.toNat + 4096 * a.toNat + 128 * d.toNat
def rorWord (x : BitVec 1) (m : BitVec 3) (a : BitVec 5) (d : BitVec 5) : Nat := 536870985 + 33554432 * x.toNat + 4194304 * m.toNat + 4096 * a.toNat + 128 * d.toNat
def rxorWord (x : BitVec 1) (m : BitVec 3) (a : BitVec 5) (d : BitVec 5) : Nat := 671088713 + 33554432 * x.toNat + 4194304 * m.toNat + 4096 * a.toNat + 128 * d.toNat
def rfsumWord (x : BitVec 1) (m : BitVec 3) (a : BitVec 5) (d : BitVec 5) : Nat := 805306441 + 33554432 * x.toNat + 4194304 * m.toNat + 4096 * a.toNat + 128 * d.toNat
def rfminWord (x : BitVec 1) (m : BitVec 3) (a : BitVec 5) (d : BitVec 5) : Nat := 939524169 + 33554432 * x.toNat + 4194304 * m.toNat + 4096 * a.toNat + 128 * d.toNat
def rfmaxWord (x : BitVec 1) (m : BitVec 3) (a : BitVec 5) (d : BitVec 5) : Nat := 1073741897 + 33554432 * x.toNat + 4194304 * m.toNat + 4096 * a.toNat + 128 * d.toNat
def ranyWord (x : BitVec 1) (m : BitVec 3) (a : BitVec 5) (d : BitVec 3) : Nat := 1207959625 + 33554432 * x.toNat + 4194304 * m.toNat + 4096 * a.toNat + 128 * d.toNat
def rallWord (x : BitVec 1) (m : BitVec 3) (a : BitVec 5) (d : BitVec 3) : Nat := 1342177353 + 33554432 * x.toNat + 4194304 * m.toNat + 4096 * a.toNat + 128 * d.toNat
def vcvtWord (z : BitVec 1) (s : BitVec 1) (r : BitVec 3) (h : BitVec 1) (x : BitVec 1) (m : BitVec 3) (b : BitVec 5) (a : BitVec 5) (d : BitVec 5) : Nat := 74 + 2147483648 * z.toNat + 1073741824 * s.toNat + 134217728 * r.toNat + 67108864 * h.toNat + 33554432 * x.toNat + 4194304 * m.toNat + 131072 * b.toNat + 4096 * a.toNat + 128 * d.toNat
def slideupWord (y : BitVec 1) (x : BitVec 1) (m : BitVec 3) (b : BitVec 3) (a : BitVec 5) (d : BitVec 5) : Nat := 75 + 67108864 * y.toNat + 33554432 * x.toNat + 4194304 * m.toNat + 131072 * b.toNat + 4096 * a.toNat + 128 * d.toNat
def slidednWord (y : BitVec 1) (x : BitVec 1) (m : BitVec 3) (b : BitVec 3) (a : BitVec 5) (d : BitVec 5) : Nat := 134217803 + 67108864 * y.toNat + 33554432 * x.toNat + 4194304 * m.toNat + 131072 * b.toNat + 4096 * a.toNat + 128 * d.toNat
def permWord (y : BitVec 1) (x : BitVec 1) (m : BitVec 3) (b : BitVec 5) (a : BitVec 5) (d : BitVec 5) : Nat := 268435531 + 67108864 * y.toNat + 33554432 * x.toNat + 4194304 * m.toNat + 131072 * b.toNat + 4096 * a.toNat + 128 * d.toNat
def compressWord (x : BitVec 1) (m : BitVec 3) (a : BitVec 5) (d : BitVec 5) : Nat := 402653259 + 33554432 * x.toNat + 4194304 * m.toNat + 4096 * a.toNat + 128 * d.toNat
def expandWord (x : BitVec 1) (m : BitVec 3) (a : BitVec 5) (d : BitVec 5) : Nat := 536870987 + 33554432 * x.toNat + 4194304 * m.toNat + 4096 * a.toNat + 128 * d.toNat
def zipWord (y : BitVec 1) (x : BitVec 1) (m : BitVec 3) (b : BitVec 5) (a : BitVec 5) (d : BitVec 5) : Nat := 671088715 + 67108864 * y.toNat + 33554432 * x.toNat + 4194304 * m.toNat + 131072 * b.toNat + 4096 * a.toNat + 128 * d.toNat
def bcastWord (y : BitVec 1) (x : BitVec 1) (m : BitVec 3) (b : BitVec 3) (a : BitVec 5) (d : BitVec 5) : Nat := 805306443 + 67108864 * y.toNat + 33554432 * x.toNat + 4194304 * m.toNat + 131072 * b.toNat + 4096 * a.toNat + 128 * d.toNat
def mergeWord (y : BitVec 1) (x : BitVec 1) (m : BitVec 3) (b : BitVec 5) (a : BitVec 5) (d : BitVec 5) : Nat := 939524171 + 67108864 * y.toNat + 33554432 * x.toNat + 4194304 * m.toNat + 131072 * b.toNat + 4096 * a.toNat + 128 * d.toNat
def trnWord (x : BitVec 1) (m : BitVec 3) (a : BitVec 5) (d : BitVec 5) : Nat := 1073741899 + 33554432 * x.toNat + 4194304 * m.toNat + 4096 * a.toNat + 128 * d.toNat
def vmemLdWord (h : BitVec 1) (m : BitVec 3) (s : BitVec 4) (g : BitVec 3) (v : BitVec 5) : Nat := 76 + 134217728 * h.toNat + 16777216 * m.toNat + 1048576 * s.toNat + 4096 * g.toNat + 128 * v.toNat
def vmemStWord (h : BitVec 1) (m : BitVec 3) (s : BitVec 4) (g : BitVec 3) (v : BitVec 5) : Nat := 268435532 + 134217728 * h.toNat + 16777216 * m.toNat + 1048576 * s.toNat + 4096 * g.toNat + 128 * v.toNat
def vmemLdsWord (h : BitVec 1) (m : BitVec 3) (s : BitVec 4) (x : BitVec 3) (g : BitVec 3) (v : BitVec 5) : Nat := 536870988 + 134217728 * h.toNat + 16777216 * m.toNat + 1048576 * s.toNat + 32768 * x.toNat + 4096 * g.toNat + 128 * v.toNat
def vmemStsWord (h : BitVec 1) (m : BitVec 3) (s : BitVec 4) (x : BitVec 3) (g : BitVec 3) (v : BitVec 5) : Nat := 805306444 + 134217728 * h.toNat + 16777216 * m.toNat + 1048576 * s.toNat + 32768 * x.toNat + 4096 * g.toNat + 128 * v.toNat
def vmemLdxWord (h : BitVec 1) (m : BitVec 3) (s : BitVec 4) (x : BitVec 5) (g : BitVec 3) (v : BitVec 5) : Nat := 1073741900 + 134217728 * h.toNat + 16777216 * m.toNat + 1048576 * s.toNat + 32768 * x.toNat + 4096 * g.toNat + 128 * v.toNat
def vmemStxWord (h : BitVec 1) (m : BitVec 3) (s : BitVec 4) (x : BitVec 5) (g : BitVec 3) (v : BitVec 5) : Nat := 1342177356 + 134217728 * h.toNat + 16777216 * m.toNat + 1048576 * s.toNat + 32768 * x.toNat + 4096 * g.toNat + 128 * v.toNat
def vmemLdlWord (h : BitVec 1) (m : BitVec 3) (s : BitVec 4) (g : BitVec 3) (v : BitVec 5) : Nat := 1610612812 + 134217728 * h.toNat + 16777216 * m.toNat + 1048576 * s.toNat + 4096 * g.toNat + 128 * v.toNat
def vmemStlWord (h : BitVec 1) (m : BitVec 3) (s : BitVec 4) (g : BitVec 3) (v : BitVec 5) : Nat := 1879048268 + 134217728 * h.toNat + 16777216 * m.toNat + 1048576 * s.toNat + 4096 * g.toNat + 128 * v.toNat
def vmemLdffWord (h : BitVec 1) (m : BitVec 3) (s : BitVec 4) (g : BitVec 3) (v : BitVec 5) : Nat := 2147483724 + 134217728 * h.toNat + 16777216 * m.toNat + 1048576 * s.toNat + 4096 * g.toNat + 128 * v.toNat
def vmemAmoaddWord (h : BitVec 1) (m : BitVec 3) (s : BitVec 4) (x : BitVec 5) (g : BitVec 3) (v : BitVec 5) : Nat := 2415919180 + 134217728 * h.toNat + 16777216 * m.toNat + 1048576 * s.toNat + 32768 * x.toNat + 4096 * g.toNat + 128 * v.toNat
def vbrWord (o : BitVec 20) (p : BitVec 1) (k : BitVec 3) : Nat := 77 + 4096 * o.toNat + 2048 * p.toNat + 128 * k.toNat
def vbrNotWord (o : BitVec 20) (p : BitVec 1) (k : BitVec 3) : Nat := 1101 + 4096 * o.toNat + 2048 * p.toNat + 128 * k.toNat
def vendWord : Nat := 78
def vjoinWord : Nat := 206
def vnopWord : Nat := 334
def accRdWord (x : BitVec 1) (a : BitVec 3) (d : BitVec 5) : Nat := 89 + 4194304 * x.toNat + 4096 * a.toNat + 128 * d.toNat
def accWrWord (y : BitVec 1) (x : BitVec 1) (b : BitVec 5) (a : BitVec 3) : Nat := 16777305 + 8388608 * y.toNat + 4194304 * x.toNat + 131072 * b.toNat + 4096 * a.toNat
def accClrWord (x : BitVec 1) (a : BitVec 3) : Nat := 33554521 + 4194304 * x.toNat + 4096 * a.toNat
def cpLayWord (y : BitVec 1) (x : BitVec 1) (b : BitVec 5) (a : BitVec 5) (c : BitVec 5) : Nat := 80 + 8388608 * y.toNat + 4194304 * x.toNat + 131072 * b.toNat + 4096 * a.toNat + 128 * c.toNat
def cpArrWord (y : BitVec 1) (x : BitVec 1) (b : BitVec 5) (a : BitVec 5) (c : BitVec 5) : Nat := 16777296 + 8388608 * y.toNat + 4194304 * x.toNat + 131072 * b.toNat + 4096 * a.toNat + 128 * c.toNat
def cpGoWord (y : BitVec 1) (x : BitVec 1) (b : BitVec 5) (a : BitVec 5) (c : BitVec 5) : Nat := 33554512 + 8388608 * y.toNat + 4194304 * x.toNat + 131072 * b.toNat + 4096 * a.toNat + 128 * c.toNat
def cpWmWord (a : BitVec 5) (c : BitVec 5) : Nat := 50331728 + 4096 * a.toNat + 128 * c.toNat
def cpWaitWord (c : BitVec 5) : Nat := 67108944 + 128 * c.toNat
def cpStopWord (c : BitVec 5) : Nat := 83886160 + 128 * c.toNat
def cpStatWord (a : BitVec 5) (c : BitVec 5) : Nat := 100663376 + 4096 * a.toNat + 128 * c.toNat
def tkPostWord (x : BitVec 1) (a : BitVec 5) (d : BitVec 5) : Nat := 81 + 4194304 * x.toNat + 4096 * a.toNat + 128 * d.toNat
def tkStatWord (x : BitVec 1) (a : BitVec 5) (d : BitVec 5) : Nat := 16777297 + 4194304 * x.toNat + 4096 * a.toNat + 128 * d.toNat
def tkCancelWord (x : BitVec 1) (a : BitVec 5) (d : BitVec 5) : Nat := 33554513 + 4194304 * x.toNat + 4096 * a.toNat + 128 * d.toNat
def evSigWord (y : BitVec 1) (x : BitVec 1) (b : BitVec 5) (a : BitVec 5) (d : BitVec 5) : Nat := 82 + 8388608 * y.toNat + 4194304 * x.toNat + 131072 * b.toNat + 4096 * a.toNat + 128 * d.toNat
def evWaitWord (y : BitVec 1) (x : BitVec 1) (b : BitVec 5) (a : BitVec 5) (d : BitVec 5) : Nat := 16777298 + 8388608 * y.toNat + 4194304 * x.toNat + 131072 * b.toNat + 4096 * a.toNat + 128 * d.toNat
def evRdWord (x : BitVec 1) (a : BitVec 5) (d : BitVec 5) : Nat := 33554514 + 4194304 * x.toNat + 4096 * a.toNat + 128 * d.toNat
def evSetWord (y : BitVec 1) (x : BitVec 1) (b : BitVec 5) (a : BitVec 5) (d : BitVec 5) : Nat := 50331730 + 8388608 * y.toNat + 4194304 * x.toNat + 131072 * b.toNat + 4096 * a.toNat + 128 * d.toNat
def nbGoWord (x : BitVec 1) (a : BitVec 5) (d : BitVec 5) : Nat := 83 + 4194304 * x.toNat + 4096 * a.toNat + 128 * d.toNat
def nbStatWord (x : BitVec 1) (a : BitVec 5) (d : BitVec 5) : Nat := 16777299 + 4194304 * x.toNat + 4096 * a.toNat + 128 * d.toNat
def nbStopWord (x : BitVec 1) (a : BitVec 5) : Nat := 33554515 + 4194304 * x.toNat + 4096 * a.toNat
def nqPushWord (x : BitVec 1) (a : BitVec 5) (q : BitVec 1) : Nat := 84 + 4194304 * x.toNat + 4096 * a.toNat + 128 * q.toNat
def nqPopWord (q : BitVec 1) (d : BitVec 4) : Nat := 16777300 + 4096 * q.toNat + 128 * d.toNat
def nbSafeWord : Nat := 33554516
def nbMcWord (x : BitVec 1) (b : BitVec 4) (a : BitVec 5) (d : BitVec 5) : Nat := 50331732 + 4194304 * x.toNat + 131072 * b.toNat + 4096 * a.toNat + 128 * d.toNat
def lpMarkWord (y : BitVec 1) (x : BitVec 1) (b : BitVec 5) (a : BitVec 5) : Nat := 85 + 8388608 * y.toNat + 4194304 * x.toNat + 131072 * b.toNat + 4096 * a.toNat
def lpIterWord (k : BitVec 3) : Nat := 16777301 + 128 * k.toNat
def lpEndWord (d : BitVec 5) : Nat := 33554517 + 128 * d.toNat
def lpStatWord (d : BitVec 5) : Nat := 50331733 + 128 * d.toNat
def jrRecWord (y : BitVec 1) (x : BitVec 1) (b : BitVec 5) (a : BitVec 5) (d : BitVec 5) : Nat := 86 + 8388608 * y.toNat + 4194304 * x.toNat + 131072 * b.toNat + 4096 * a.toNat + 128 * d.toNat
def jrGateWord (y : BitVec 1) (x : BitVec 1) (b : BitVec 5) (a : BitVec 5) (d : BitVec 5) : Nat := 16777302 + 8388608 * y.toNat + 4194304 * x.toNat + 131072 * b.toNat + 4096 * a.toNat + 128 * d.toNat
def jrDurWord (x : BitVec 1) (a : BitVec 5) (d : BitVec 5) : Nat := 33554518 + 4194304 * x.toNat + 4096 * a.toNat + 128 * d.toNat
def jrTruncWord (y : BitVec 1) (x : BitVec 1) (b : BitVec 5) (a : BitVec 5) (d : BitVec 5) : Nat := 50331734 + 8388608 * y.toNat + 4194304 * x.toNat + 131072 * b.toNat + 4096 * a.toNat + 128 * d.toNat
def jrReadWord (y : BitVec 1) (x : BitVec 1) (b : BitVec 5) (a : BitVec 5) (d : BitVec 5) : Nat := 67108950 + 8388608 * y.toNat + 4194304 * x.toNat + 131072 * b.toNat + 4096 * a.toNat + 128 * d.toNat
def plHashWord (y : BitVec 1) (x : BitVec 1) (b : BitVec 5) (a : BitVec 5) (d : BitVec 5) : Nat := 87 + 8388608 * y.toNat + 4194304 * x.toNat + 131072 * b.toNat + 4096 * a.toNat + 128 * d.toNat
def plBindWord (x : BitVec 1) (a : BitVec 5) (d : BitVec 5) : Nat := 16777303 + 4194304 * x.toNat + 4096 * a.toNat + 128 * d.toNat
def plSendWord (x : BitVec 1) (a : BitVec 5) (d : BitVec 5) : Nat := 33554519 + 4194304 * x.toNat + 4096 * a.toNat + 128 * d.toNat
def plRecvWord (x : BitVec 1) (a : BitVec 5) (d : BitVec 5) : Nat := 50331735 + 4194304 * x.toNat + 4096 * a.toNat + 128 * d.toNat
def plEndWord (x : BitVec 1) (a : BitVec 5) (d : BitVec 5) : Nat := 67108951 + 4194304 * x.toNat + 4096 * a.toNat + 128 * d.toNat
def plStatWord (x : BitVec 1) (a : BitVec 5) (d : BitVec 5) : Nat := 83886167 + 4194304 * x.toNat + 4096 * a.toNat + 128 * d.toNat
def goWord (y : BitVec 1) (x : BitVec 1) (b : BitVec 5) (a : BitVec 5) (d : BitVec 5) : Nat := 88 + 8388608 * y.toNat + 4194304 * x.toNat + 131072 * b.toNat + 4096 * a.toNat + 128 * d.toNat
def gqWord (x : BitVec 1) (a : BitVec 5) (d : BitVec 5) : Nat := 16777304 + 4194304 * x.toNat + 4096 * a.toNat + 128 * d.toNat

/-- The value of the instruction's word: its fixed bits plus each field in its place (R10, R21 to R37); 0 for an event. -/
def encodeNat (i : Instr) : Nat :=
  match i with
  | .add y x b a d => addWord y x b a d
  | .sub y x b a d => subWord y x b a d
  | .and y x b a d => andWord y x b a d
  | .or y x b a d => orWord y x b a d
  | .xor y x b a d => xorWord y x b a d
  | .sll y x b a d => sllWord y x b a d
  | .srl y x b a d => srlWord y x b a d
  | .sra y x b a d => sraWord y x b a d
  | .mul y x b a d => mulWord y x b a d
  | .mulh y x b a d => mulhWord y x b a d
  | .mulhu y x b a d => mulhuWord y x b a d
  | .div y x b a d => divWord y x b a d
  | .divu y x b a d => divuWord y x b a d
  | .rem y x b a d => remWord y x b a d
  | .remu y x b a d => remuWord y x b a d
  | .min y x b a d => minWord y x b a d
  | .max y x b a d => maxWord y x b a d
  | .minu y x b a d => minuWord y x b a d
  | .maxu y x b a d => maxuWord y x b a d
  | .clz x a d => clzWord x a d
  | .ctz x a d => ctzWord x a d
  | .pop x a d => popWord x a d
  | .rng y x b a d => rngWord y x b a d
  | .addi i x a d => addiWord i x a d
  | .andi i x a d => andiWord i x a d
  | .ori i x a d => oriWord i x a d
  | .xori i x a d => xoriWord i x a d
  | .slli s x a d => slliWord s x a d
  | .srli s x a d => srliWord s x a d
  | .srai s x a d => sraiWord s x a d
  | .lui i d => luiWord i d
  | .adr i d => adrWord i d
  | .cmpEq y x b a k => cmpEqWord y x b a k
  | .cmpNe y x b a k => cmpNeWord y x b a k
  | .cmpLt y x b a k => cmpLtWord y x b a k
  | .cmpLtu y x b a k => cmpLtuWord y x b a k
  | .feqD y x b a k => feqDWord y x b a k
  | .fltD y x b a k => fltDWord y x b a k
  | .fleD y x b a k => fleDWord y x b a k
  | .funD y x b a k => funDWord y x b a k
  | .feqS y x b a k => feqSWord y x b a k
  | .fltS y x b a k => fltSWord y x b a k
  | .fleS y x b a k => fleSWord y x b a k
  | .funS y x b a k => funSWord y x b a k
  | .cmpiEq i x a k => cmpiEqWord i x a k
  | .cmpiNe i x a k => cmpiNeWord i x a k
  | .cmpiLt i x a k => cmpiLtWord i x a k
  | .cmpiLtu i x a k => cmpiLtuWord i x a k
  | .kand y x b a d => kandWord y x b a d
  | .kor y x b a d => korWord y x b a d
  | .kxor y x b a d => kxorWord y x b a d
  | .kset x a d => ksetWord x a d
  | .kget x a d => kgetWord x a d
  | .faddD y x b a d => faddDWord y x b a d
  | .fsubD y x b a d => fsubDWord y x b a d
  | .fmulD y x b a d => fmulDWord y x b a d
  | .fdivD y x b a d => fdivDWord y x b a d
  | .fsqrtD x a d => fsqrtDWord x a d
  | .fminD y x b a d => fminDWord y x b a d
  | .fmaxD y x b a d => fmaxDWord y x b a d
  | .faddS y x b a d => faddSWord y x b a d
  | .fsubS y x b a d => fsubSWord y x b a d
  | .fmulS y x b a d => fmulSWord y x b a d
  | .fdivS y x b a d => fdivSWord y x b a d
  | .fsqrtS x a d => fsqrtSWord x a d
  | .fminS y x b a d => fminSWord y x b a d
  | .fmaxS y x b a d => fmaxSWord y x b a d
  | .cvtDL x a d => cvtDLWord x a d
  | .cvtLD x a d => cvtLDWord x a d
  | .cvtSL x a d => cvtSLWord x a d
  | .cvtLS x a d => cvtLSWord x a d
  | .cvtDS x a d => cvtDSWord x a d
  | .cvtSD x a d => cvtSDWord x a d
  | .fmaddD c b a d => fmaddDWord c b a d
  | .fmsubD c b a d => fmsubDWord c b a d
  | .fmaddS c b a d => fmaddSWord c b a d
  | .fmsubS c b a d => fmsubSWord c b a d
  | .bK o p k => bKWord o p k
  | .bNk o p k => bNkWord o p k
  | .branchConfirm _ => 0
  | .jal i d => jalWord i d
  | .jalr i x a d => jalrWord i x a d
  | .ldB i s x a d => ldBWord i s x a d
  | .ldBu i s x a d => ldBuWord i s x a d
  | .ldH i s x a d => ldHWord i s x a d
  | .ldHu i s x a d => ldHuWord i s x a d
  | .ldW i s x a d => ldWWord i s x a d
  | .ldWu i s x a d => ldWuWord i s x a d
  | .ldD i s x a d => ldDWord i s x a d
  | .loadDataReturn _ _ => 0
  | .stB i s x a d => stBWord i s x a d
  | .stH i s x a d => stHWord i s x a d
  | .stW i s x a d => stWWord i s x a d
  | .stD i s x a d => stDWord i s x a d
  | .amoAddW c y x b a d => amoAddWWord c y x b a d
  | .amoAddD c y x b a d => amoAddDWord c y x b a d
  | .amoMinD c y x b a d => amoMinDWord c y x b a d
  | .amoMaxD c y x b a d => amoMaxDWord c y x b a d
  | .amoMinuD c y x b a d => amoMinuDWord c y x b a d
  | .amoMaxuD c y x b a d => amoMaxuDWord c y x b a d
  | .amoSwapD c y x b a d => amoSwapDWord c y x b a d
  | .amoCasD c y x b a d => amoCasDWord c y x b a d
  | .amoFaddS c y x b a d => amoFaddSWord c y x b a d
  | .amoFaddD c y x b a d => amoFaddDWord c y x b a d
  | .amoReturn _ _ => 0
  | .sbar c m => sbarWord c m
  | .fence c => fenceWord c
  | .gsync c g => gsyncWord c g
  | .garrive c g => garriveWord c g
  | .gwait c g => gwaitWord c g
  | .groupArrivalSend _ _ => 0
  | .crd n d => crdWord n d
  | .cwr n x a d => cwrWord n x a d
  | .trap c => trapWord c
  | .tret => tretWord
  | .halt => haltWord
  | .idle => idleWord
  | .brk => brkWord
  | .yield => yieldWord
  | .idleWake _ => 0
  | .hartRetire _ => 0
  | .l1inv x a => l1invWord x a
  | .l2wb x a => l2wbWord x a
  | .tlbinv x a => tlbinvWord x a
  | .tlbsync => tlbsyncWord
  | .setlen y x b a d => setlenWord y x b a d
  | .setrows x a d => setrowsWord x a d
  | .setfmt x a d => setfmtWord x a d
  | .vdrain => vdrainWord
  | .vstat d => vstatWord d
  | .hwpub y x b a => hwpubWord y x b a
  | .setfmti i d => setfmtiWord i d
  | .vblk i => vblkWord i
  | .blockInstanceBegin _ => 0
  | .vbind x k a d => vbindWord x k a d
  | .vunbind d => vunbindWord d
  | .qpat x a q => qpatWord x a q
  | .qstat q d => qstatWord q d
  | .streamChunkArrive _ _ => 0
  | .vintAdd y x m b a d => vintAddWord y x m b a d
  | .vintSub y x m b a d => vintSubWord y x m b a d
  | .vintMul y x m b a d => vintMulWord y x m b a d
  | .vintMulh y x m b a d => vintMulhWord y x m b a d
  | .vintMulhu y x m b a d => vintMulhuWord y x m b a d
  | .vintMin y x m b a d => vintMinWord y x m b a d
  | .vintMax y x m b a d => vintMaxWord y x m b a d
  | .vintMinu y x m b a d => vintMinuWord y x m b a d
  | .vintMaxu y x m b a d => vintMaxuWord y x m b a d
  | .vintAnd y x m b a d => vintAndWord y x m b a d
  | .vintOr y x m b a d => vintOrWord y x m b a d
  | .vintXor y x m b a d => vintXorWord y x m b a d
  | .vintSll y x m b a d => vintSllWord y x m b a d
  | .vintSrl y x m b a d => vintSrlWord y x m b a d
  | .vintSra y x m b a d => vintSraWord y x m b a d
  | .vintAdds y x m b a d => vintAddsWord y x m b a d
  | .vintSubs y x m b a d => vintSubsWord y x m b a d
  | .vintAddsu y x m b a d => vintAddsuWord y x m b a d
  | .vintSubsu y x m b a d => vintSubsuWord y x m b a d
  | .vintMov y m b d => vintMovWord y m b d
  | .vintGAdd y x m b a d => vintGAddWord y x m b a d
  | .vintGSub y x m b a d => vintGSubWord y x m b a d
  | .vintGMul y x m b a d => vintGMulWord y x m b a d
  | .vintGMulh y x m b a d => vintGMulhWord y x m b a d
  | .vintGMulhu y x m b a d => vintGMulhuWord y x m b a d
  | .vintGMin y x m b a d => vintGMinWord y x m b a d
  | .vintGMax y x m b a d => vintGMaxWord y x m b a d
  | .vintGMinu y x m b a d => vintGMinuWord y x m b a d
  | .vintGMaxu y x m b a d => vintGMaxuWord y x m b a d
  | .vintGAnd y x m b a d => vintGAndWord y x m b a d
  | .vintGOr y x m b a d => vintGOrWord y x m b a d
  | .vintGXor y x m b a d => vintGXorWord y x m b a d
  | .vintGSll y x m b a d => vintGSllWord y x m b a d
  | .vintGSrl y x m b a d => vintGSrlWord y x m b a d
  | .vintGSra y x m b a d => vintGSraWord y x m b a d
  | .vintGAdds y x m b a d => vintGAddsWord y x m b a d
  | .vintGSubs y x m b a d => vintGSubsWord y x m b a d
  | .vintGAddsu y x m b a d => vintGAddsuWord y x m b a d
  | .vintGSubsu y x m b a d => vintGSubsuWord y x m b a d
  | .vintGMov y m b d => vintGMovWord y m b d
  | .vintIAdd y x m i a d => vintIAddWord y x m i a d
  | .vintISub y x m i a d => vintISubWord y x m i a d
  | .vintIMul y x m i a d => vintIMulWord y x m i a d
  | .vintIMulh y x m i a d => vintIMulhWord y x m i a d
  | .vintIMulhu y x m i a d => vintIMulhuWord y x m i a d
  | .vintIMin y x m i a d => vintIMinWord y x m i a d
  | .vintIMax y x m i a d => vintIMaxWord y x m i a d
  | .vintIMinu y x m i a d => vintIMinuWord y x m i a d
  | .vintIMaxu y x m i a d => vintIMaxuWord y x m i a d
  | .vintIAnd y x m i a d => vintIAndWord y x m i a d
  | .vintIOr y x m i a d => vintIOrWord y x m i a d
  | .vintIXor y x m i a d => vintIXorWord y x m i a d
  | .vintISll y x m i a d => vintISllWord y x m i a d
  | .vintISrl y x m i a d => vintISrlWord y x m i a d
  | .vintISra y x m i a d => vintISraWord y x m i a d
  | .vintIAdds y x m i a d => vintIAddsWord y x m i a d
  | .vintISubs y x m i a d => vintISubsWord y x m i a d
  | .vintIAddsu y x m i a d => vintIAddsuWord y x m i a d
  | .vintISubsu y x m i a d => vintISubsuWord y x m i a d
  | .vintIMov y m i d => vintIMovWord y m i d
  | .vfpFadd y x m b a d => vfpFaddWord y x m b a d
  | .vfpFsub y x m b a d => vfpFsubWord y x m b a d
  | .vfpFmul y x m b a d => vfpFmulWord y x m b a d
  | .vfpFdiv y x m b a d => vfpFdivWord y x m b a d
  | .vfpFsqrt x m a d => vfpFsqrtWord x m a d
  | .vfpFmin y x m b a d => vfpFminWord y x m b a d
  | .vfpFmax y x m b a d => vfpFmaxWord y x m b a d
  | .vfpFabs x m a d => vfpFabsWord x m a d
  | .vfpFneg x m a d => vfpFnegWord x m a d
  | .vfpFsgn y x m b a d => vfpFsgnWord y x m b a d
  | .vfpFrcp x m a d => vfpFrcpWord x m a d
  | .vfpFrsq x m a d => vfpFrsqWord x m a d
  | .vfpFexp2 x m a d => vfpFexp2Word x m a d
  | .vfpGFadd y x m b a d => vfpGFaddWord y x m b a d
  | .vfpGFsub y x m b a d => vfpGFsubWord y x m b a d
  | .vfpGFmul y x m b a d => vfpGFmulWord y x m b a d
  | .vfpGFdiv y x m b a d => vfpGFdivWord y x m b a d
  | .vfpGFsqrt x m a d => vfpGFsqrtWord x m a d
  | .vfpGFmin y x m b a d => vfpGFminWord y x m b a d
  | .vfpGFmax y x m b a d => vfpGFmaxWord y x m b a d
  | .vfpGFabs x m a d => vfpGFabsWord x m a d
  | .vfpGFneg x m a d => vfpGFnegWord x m a d
  | .vfpGFsgn y x m b a d => vfpGFsgnWord y x m b a d
  | .vfpGFrcp x m a d => vfpGFrcpWord x m a d
  | .vfpGFrsq x m a d => vfpGFrsqWord x m a d
  | .vfpGFexp2 x m a d => vfpGFexp2Word x m a d
  | .vfmaFmadd m c b a d => vfmaFmaddWord m c b a d
  | .vfmaFmsub m c b a d => vfmaFmsubWord m c b a d
  | .vfmaFnmadd m c b a d => vfmaFnmaddWord m c b a d
  | .vfmaImadd m c b a d => vfmaImaddWord m c b a d
  | .vcmpEq y x m b a d => vcmpEqWord y x m b a d
  | .vcmpNe y x m b a d => vcmpNeWord y x m b a d
  | .vcmpLt y x m b a d => vcmpLtWord y x m b a d
  | .vcmpLe y x m b a d => vcmpLeWord y x m b a d
  | .vcmpLtu y x m b a d => vcmpLtuWord y x m b a d
  | .vcmpLeu y x m b a d => vcmpLeuWord y x m b a d
  | .vcmpFeq y x m b a d => vcmpFeqWord y x m b a d
  | .vcmpFlt y x m b a d => vcmpFltWord y x m b a d
  | .vcmpFle y x m b a d => vcmpFleWord y x m b a d
  | .vcmpFun y x m b a d => vcmpFunWord y x m b a d
  | .vcmpGEq y x m b a d => vcmpGEqWord y x m b a d
  | .vcmpGNe y x m b a d => vcmpGNeWord y x m b a d
  | .vcmpGLt y x m b a d => vcmpGLtWord y x m b a d
  | .vcmpGLe y x m b a d => vcmpGLeWord y x m b a d
  | .vcmpGLtu y x m b a d => vcmpGLtuWord y x m b a d
  | .vcmpGLeu y x m b a d => vcmpGLeuWord y x m b a d
  | .vcmpGFeq y x m b a d => vcmpGFeqWord y x m b a d
  | .vcmpGFlt y x m b a d => vcmpGFltWord y x m b a d
  | .vcmpGFle y x m b a d => vcmpGFleWord y x m b a d
  | .vcmpGFun y x m b a d => vcmpGFunWord y x m b a d
  | .mand y x b a d => mandWord y x b a d
  | .mor y x b a d => morWord y x b a d
  | .mxor y x b a d => mxorWord y x b a d
  | .mnot x a d => mnotWord x a d
  | .mset d => msetWord d
  | .mclr d => mclrWord d
  | .mpop x a d => mpopWord x a d
  | .mfirst x a d => mfirstWord x a d
  | .rsum x m a d => rsumWord x m a d
  | .rmin x m a d => rminWord x m a d
  | .rmax x m a d => rmaxWord x m a d
  | .rand x m a d => randWord x m a d
  | .ror x m a d => rorWord x m a d
  | .rxor x m a d => rxorWord x m a d
  | .rfsum x m a d => rfsumWord x m a d
  | .rfmin x m a d => rfminWord x m a d
  | .rfmax x m a d => rfmaxWord x m a d
  | .rany x m a d => ranyWord x m a d
  | .rall x m a d => rallWord x m a d
  | .vcvt z s r h x m b a d => vcvtWord z s r h x m b a d
  | .slideup y x m b a d => slideupWord y x m b a d
  | .slidedn y x m b a d => slidednWord y x m b a d
  | .perm y x m b a d => permWord y x m b a d
  | .compress x m a d => compressWord x m a d
  | .expand x m a d => expandWord x m a d
  | .zip y x m b a d => zipWord y x m b a d
  | .bcast y x m b a d => bcastWord y x m b a d
  | .merge y x m b a d => mergeWord y x m b a d
  | .trn x m a d => trnWord x m a d
  | .vmemLd h m s g v => vmemLdWord h m s g v
  | .vmemSt h m s g v => vmemStWord h m s g v
  | .vmemLds h m s x g v => vmemLdsWord h m s x g v
  | .vmemSts h m s x g v => vmemStsWord h m s x g v
  | .vmemLdx h m s x g v => vmemLdxWord h m s x g v
  | .vmemStx h m s x g v => vmemStxWord h m s x g v
  | .vmemLdl h m s g v => vmemLdlWord h m s g v
  | .vmemStl h m s g v => vmemStlWord h m s g v
  | .vmemLdff h m s g v => vmemLdffWord h m s g v
  | .vmemAmoadd h m s x g v => vmemAmoaddWord h m s x g v
  | .vbr o p k => vbrWord o p k
  | .vbrNot o p k => vbrNotWord o p k
  | .vend => vendWord
  | .vjoin => vjoinWord
  | .vnop => vnopWord
  | .accRd x a d => accRdWord x a d
  | .accWr y x b a => accWrWord y x b a
  | .accClr x a => accClrWord x a
  | .cpLay y x b a c => cpLayWord y x b a c
  | .cpArr y x b a c => cpArrWord y x b a c
  | .cpGo y x b a c => cpGoWord y x b a c
  | .cpWm a c => cpWmWord a c
  | .cpWait c => cpWaitWord c
  | .cpStop c => cpStopWord c
  | .cpStat a c => cpStatWord a c
  | .copyAccept _ _ => 0
  | .copyElement _ _ _ => 0
  | .copyComplete _ _ => 0
  | .tkPost x a d => tkPostWord x a d
  | .tkStat x a d => tkStatWord x a d
  | .tkCancel x a d => tkCancelWord x a d
  | .taskIssue _ _ => 0
  | .taskComplete _ _ => 0
  | .taskAging _ _ => 0
  | .evSig y x b a d => evSigWord y x b a d
  | .evWait y x b a d => evWaitWord y x b a d
  | .evRd x a d => evRdWord x a d
  | .evSet y x b a d => evSetWord y x b a d
  | .eventUpdateApply _ _ => 0
  | .nbGo x a d => nbGoWord x a d
  | .nbStat x a d => nbStatWord x a d
  | .nbStop x a => nbStopWord x a
  | .nbJobStart _ => 0
  | .nqPush x a q => nqPushWord x a q
  | .nqPop q d => nqPopWord q d
  | .nbSafe => nbSafeWord
  | .nbMc x b a d => nbMcWord x b a d
  | .nqLoadFill _ _ => 0
  | .nbJobEnd _ => 0
  | .nbProgressWatchdog _ => 0
  | .nbSafePointWatchdog _ => 0
  | .channelResetComplete _ => 0
  | .dramRefreshDue _ => 0
  | .lpMark y x b a => lpMarkWord y x b a
  | .lpIter k => lpIterWord k
  | .lpEnd d => lpEndWord d
  | .lpStat d => lpStatWord d
  | .templateVerdict _ => 0
  | .replayIteration _ => 0
  | .replayDeparture _ _ => 0
  | .replayComplete _ => 0
  | .jrRec y x b a d => jrRecWord y x b a d
  | .jrGate y x b a d => jrGateWord y x b a d
  | .jrDur x a d => jrDurWord x a d
  | .jrTrunc y x b a d => jrTruncWord y x b a d
  | .jrRead y x b a d => jrReadWord y x b a d
  | .journalAck _ _ => 0
  | .mirrorRecordWrite _ _ _ _ => 0
  | .truncationAck _ _ => 0
  | .plHash y x b a d => plHashWord y x b a d
  | .plBind x a d => plBindWord x a d
  | .plSend x a d => plSendWord x a d
  | .plRecv x a d => plRecvWord x a d
  | .plEnd x a d => plEndWord x a d
  | .plStat x a d => plStatWord x a d
  | .go y x b a d => goWord y x b a d
  | .gq x a d => gqWord x a d
  | .launchDoorbell _ _ => 0
  | .dbstatWrite _ _ => 0
  | .launchHeadCheck _ => 0
  | .placeLaunch => 0
  | .lqcfgWrite _ _ _ => 0
  | .trapEntry _ => 0
  | .preqRequest _ _ => 0
  | .preqResume _ _ => 0
  | .ximgSave _ _ => 0
  | .xldLoad _ _ => 0
  | .cparkOffer _ _ => 0
  | .flagRestoreWrite _ _ _ => 0
  | .vectorShapeWrite _ _ _ => 0
  | .protWrite _ _ => 0
  | .evbaseWrite _ _ => 0
  | .accpsnWrite _ _ => 0
  | .jrcfgWrite _ _ => 0
  | .jrcandWrite _ _ _ => 0
  | .ltermWrite _ _ => 0
  | .rtcoreWrite _ _ => 0
  | .rtqPop _ => 0
  | .rtmigGo _ _ => 0
  | .rtmigEnd _ _ => 0
  | .migrationGranule => 0
  | .elstatClear _ _ => 0
  | .pmcWrite _ _ _ => 0
  | .energyWrite _ _ => 0
  | .smpcfgWrite _ _ _ => 0
  | .sampleTraceAcquireRead _ _ => 0
  | .sampleRecordWrite _ => 0
  | .traceRecordWrite _ => 0
  | .stopFire _ => 0
  | .genericRegisterWrite _ _ _ => 0
  | .registerParityReplay _ _ => 0
  | .laneReexecute _ _ _ => 0
  | .protectedModeMismatch _ _ => 0
  | .scrubRead _ _ => 0
  | .l2EvictionPoison _ => 0
  | .cxlMemRequest _ _ _ => 0
  | .hostSnoop _ => 0
  | .cxlIdeFailure => 0
  | .flitReceive _ _ => 0
  | .peerMessageReceive _ _ _ _ _ _ => 0
  | .keyEpochChange _ => 0
  | .idleFlitSend _ => 0
  | .portLivenessExpiry _ => 0
  | .portTrainUp _ _ _ => 0
  | .inboundRequest _ _ _ _ _ => 0
  | .remoteResponse _ _ _ => 0
  | .powerOnReset _ _ _ _ => 0
  | .stackTraining _ _ => 0
  | .fullServiceEntry => 0
  | .quote _ => 0
  | .pubkeys => 0
  | .keyload _ _ _ => 0
  | .keyclr _ => 0
  | .extend _ _ => 0
  | .event => 0
  | .reply _ _ => 0
  | .state => 0
  | .hostAssistEvent _ => 0
  | .powerThrottle => 0
  | .tlbInvalidationComplete _ => 0
  | .hostLinkTrained _ => 0
  | .unknownMailboxCode _ => 0
  | .counterOverflow _ _ => 0
  | .drawBelowLimit => 0

/-- The instruction's word. -/
def encode (i : Instr) : BitVec 32 := BitVec.ofNat 32 (encodeNat i)

/-- Where a function may run (R18). -/
inductive InstrClass where
  /-- the scalar stream -/
  | S
  /-- decoded by the scalar stream, performed by the vector queue -/
  | Q
  /-- inside a vector block only -/
  | V
  /-- on a near-bank thread only -/
  | N
  /-- a device event: no agent fetches it -/
  | event
  deriving DecidableEq, Repr

/-- The class of each row (R18, R19). -/
def Instr.cls (i : Instr) : InstrClass :=
  match i with
  | .add _ _ _ _ _ => .S
  | .sub _ _ _ _ _ => .S
  | .and _ _ _ _ _ => .S
  | .or _ _ _ _ _ => .S
  | .xor _ _ _ _ _ => .S
  | .sll _ _ _ _ _ => .S
  | .srl _ _ _ _ _ => .S
  | .sra _ _ _ _ _ => .S
  | .mul _ _ _ _ _ => .S
  | .mulh _ _ _ _ _ => .S
  | .mulhu _ _ _ _ _ => .S
  | .div _ _ _ _ _ => .S
  | .divu _ _ _ _ _ => .S
  | .rem _ _ _ _ _ => .S
  | .remu _ _ _ _ _ => .S
  | .min _ _ _ _ _ => .S
  | .max _ _ _ _ _ => .S
  | .minu _ _ _ _ _ => .S
  | .maxu _ _ _ _ _ => .S
  | .clz _ _ _ => .S
  | .ctz _ _ _ => .S
  | .pop _ _ _ => .S
  | .rng _ _ _ _ _ => .S
  | .addi _ _ _ _ => .S
  | .andi _ _ _ _ => .S
  | .ori _ _ _ _ => .S
  | .xori _ _ _ _ => .S
  | .slli _ _ _ _ => .S
  | .srli _ _ _ _ => .S
  | .srai _ _ _ _ => .S
  | .lui _ _ => .S
  | .adr _ _ => .S
  | .cmpEq _ _ _ _ _ => .S
  | .cmpNe _ _ _ _ _ => .S
  | .cmpLt _ _ _ _ _ => .S
  | .cmpLtu _ _ _ _ _ => .S
  | .feqD _ _ _ _ _ => .S
  | .fltD _ _ _ _ _ => .S
  | .fleD _ _ _ _ _ => .S
  | .funD _ _ _ _ _ => .S
  | .feqS _ _ _ _ _ => .S
  | .fltS _ _ _ _ _ => .S
  | .fleS _ _ _ _ _ => .S
  | .funS _ _ _ _ _ => .S
  | .cmpiEq _ _ _ _ => .S
  | .cmpiNe _ _ _ _ => .S
  | .cmpiLt _ _ _ _ => .S
  | .cmpiLtu _ _ _ _ => .S
  | .kand _ _ _ _ _ => .S
  | .kor _ _ _ _ _ => .S
  | .kxor _ _ _ _ _ => .S
  | .kset _ _ _ => .S
  | .kget _ _ _ => .S
  | .faddD _ _ _ _ _ => .S
  | .fsubD _ _ _ _ _ => .S
  | .fmulD _ _ _ _ _ => .S
  | .fdivD _ _ _ _ _ => .S
  | .fsqrtD _ _ _ => .S
  | .fminD _ _ _ _ _ => .S
  | .fmaxD _ _ _ _ _ => .S
  | .faddS _ _ _ _ _ => .S
  | .fsubS _ _ _ _ _ => .S
  | .fmulS _ _ _ _ _ => .S
  | .fdivS _ _ _ _ _ => .S
  | .fsqrtS _ _ _ => .S
  | .fminS _ _ _ _ _ => .S
  | .fmaxS _ _ _ _ _ => .S
  | .cvtDL _ _ _ => .S
  | .cvtLD _ _ _ => .S
  | .cvtSL _ _ _ => .S
  | .cvtLS _ _ _ => .S
  | .cvtDS _ _ _ => .S
  | .cvtSD _ _ _ => .S
  | .fmaddD _ _ _ _ => .S
  | .fmsubD _ _ _ _ => .S
  | .fmaddS _ _ _ _ => .S
  | .fmsubS _ _ _ _ => .S
  | .bK _ _ _ => .S
  | .bNk _ _ _ => .S
  | .branchConfirm _ => .event
  | .jal _ _ => .S
  | .jalr _ _ _ _ => .S
  | .ldB _ _ _ _ _ => .S
  | .ldBu _ _ _ _ _ => .S
  | .ldH _ _ _ _ _ => .S
  | .ldHu _ _ _ _ _ => .S
  | .ldW _ _ _ _ _ => .S
  | .ldWu _ _ _ _ _ => .S
  | .ldD _ _ _ _ _ => .S
  | .loadDataReturn _ _ => .event
  | .stB _ _ _ _ _ => .S
  | .stH _ _ _ _ _ => .S
  | .stW _ _ _ _ _ => .S
  | .stD _ _ _ _ _ => .S
  | .amoAddW _ _ _ _ _ _ => .S
  | .amoAddD _ _ _ _ _ _ => .S
  | .amoMinD _ _ _ _ _ _ => .S
  | .amoMaxD _ _ _ _ _ _ => .S
  | .amoMinuD _ _ _ _ _ _ => .S
  | .amoMaxuD _ _ _ _ _ _ => .S
  | .amoSwapD _ _ _ _ _ _ => .S
  | .amoCasD _ _ _ _ _ _ => .S
  | .amoFaddS _ _ _ _ _ _ => .S
  | .amoFaddD _ _ _ _ _ _ => .S
  | .amoReturn _ _ => .event
  | .sbar _ _ => .S
  | .fence _ => .S
  | .gsync _ _ => .S
  | .garrive _ _ => .S
  | .gwait _ _ => .S
  | .groupArrivalSend _ _ => .event
  | .crd _ _ => .S
  | .cwr _ _ _ _ => .S
  | .trap _ => .S
  | .tret => .S
  | .halt => .S
  | .idle => .S
  | .brk => .S
  | .yield => .S
  | .idleWake _ => .event
  | .hartRetire _ => .event
  | .l1inv _ _ => .S
  | .l2wb _ _ => .S
  | .tlbinv _ _ => .S
  | .tlbsync => .S
  | .setlen _ _ _ _ _ => .Q
  | .setrows _ _ _ => .Q
  | .setfmt _ _ _ => .Q
  | .vdrain => .Q
  | .vstat _ => .Q
  | .hwpub _ _ _ _ => .Q
  | .setfmti _ _ => .Q
  | .vblk _ => .Q
  | .blockInstanceBegin _ => .event
  | .vbind _ _ _ _ => .Q
  | .vunbind _ => .Q
  | .qpat _ _ _ => .Q
  | .qstat _ _ => .Q
  | .streamChunkArrive _ _ => .event
  | .vintAdd _ _ _ _ _ _ => .V
  | .vintSub _ _ _ _ _ _ => .V
  | .vintMul _ _ _ _ _ _ => .V
  | .vintMulh _ _ _ _ _ _ => .V
  | .vintMulhu _ _ _ _ _ _ => .V
  | .vintMin _ _ _ _ _ _ => .V
  | .vintMax _ _ _ _ _ _ => .V
  | .vintMinu _ _ _ _ _ _ => .V
  | .vintMaxu _ _ _ _ _ _ => .V
  | .vintAnd _ _ _ _ _ _ => .V
  | .vintOr _ _ _ _ _ _ => .V
  | .vintXor _ _ _ _ _ _ => .V
  | .vintSll _ _ _ _ _ _ => .V
  | .vintSrl _ _ _ _ _ _ => .V
  | .vintSra _ _ _ _ _ _ => .V
  | .vintAdds _ _ _ _ _ _ => .V
  | .vintSubs _ _ _ _ _ _ => .V
  | .vintAddsu _ _ _ _ _ _ => .V
  | .vintSubsu _ _ _ _ _ _ => .V
  | .vintMov _ _ _ _ => .V
  | .vintGAdd _ _ _ _ _ _ => .V
  | .vintGSub _ _ _ _ _ _ => .V
  | .vintGMul _ _ _ _ _ _ => .V
  | .vintGMulh _ _ _ _ _ _ => .V
  | .vintGMulhu _ _ _ _ _ _ => .V
  | .vintGMin _ _ _ _ _ _ => .V
  | .vintGMax _ _ _ _ _ _ => .V
  | .vintGMinu _ _ _ _ _ _ => .V
  | .vintGMaxu _ _ _ _ _ _ => .V
  | .vintGAnd _ _ _ _ _ _ => .V
  | .vintGOr _ _ _ _ _ _ => .V
  | .vintGXor _ _ _ _ _ _ => .V
  | .vintGSll _ _ _ _ _ _ => .V
  | .vintGSrl _ _ _ _ _ _ => .V
  | .vintGSra _ _ _ _ _ _ => .V
  | .vintGAdds _ _ _ _ _ _ => .V
  | .vintGSubs _ _ _ _ _ _ => .V
  | .vintGAddsu _ _ _ _ _ _ => .V
  | .vintGSubsu _ _ _ _ _ _ => .V
  | .vintGMov _ _ _ _ => .V
  | .vintIAdd _ _ _ _ _ _ => .V
  | .vintISub _ _ _ _ _ _ => .V
  | .vintIMul _ _ _ _ _ _ => .V
  | .vintIMulh _ _ _ _ _ _ => .V
  | .vintIMulhu _ _ _ _ _ _ => .V
  | .vintIMin _ _ _ _ _ _ => .V
  | .vintIMax _ _ _ _ _ _ => .V
  | .vintIMinu _ _ _ _ _ _ => .V
  | .vintIMaxu _ _ _ _ _ _ => .V
  | .vintIAnd _ _ _ _ _ _ => .V
  | .vintIOr _ _ _ _ _ _ => .V
  | .vintIXor _ _ _ _ _ _ => .V
  | .vintISll _ _ _ _ _ _ => .V
  | .vintISrl _ _ _ _ _ _ => .V
  | .vintISra _ _ _ _ _ _ => .V
  | .vintIAdds _ _ _ _ _ _ => .V
  | .vintISubs _ _ _ _ _ _ => .V
  | .vintIAddsu _ _ _ _ _ _ => .V
  | .vintISubsu _ _ _ _ _ _ => .V
  | .vintIMov _ _ _ _ => .V
  | .vfpFadd _ _ _ _ _ _ => .V
  | .vfpFsub _ _ _ _ _ _ => .V
  | .vfpFmul _ _ _ _ _ _ => .V
  | .vfpFdiv _ _ _ _ _ _ => .V
  | .vfpFsqrt _ _ _ _ => .V
  | .vfpFmin _ _ _ _ _ _ => .V
  | .vfpFmax _ _ _ _ _ _ => .V
  | .vfpFabs _ _ _ _ => .V
  | .vfpFneg _ _ _ _ => .V
  | .vfpFsgn _ _ _ _ _ _ => .V
  | .vfpFrcp _ _ _ _ => .V
  | .vfpFrsq _ _ _ _ => .V
  | .vfpFexp2 _ _ _ _ => .V
  | .vfpGFadd _ _ _ _ _ _ => .V
  | .vfpGFsub _ _ _ _ _ _ => .V
  | .vfpGFmul _ _ _ _ _ _ => .V
  | .vfpGFdiv _ _ _ _ _ _ => .V
  | .vfpGFsqrt _ _ _ _ => .V
  | .vfpGFmin _ _ _ _ _ _ => .V
  | .vfpGFmax _ _ _ _ _ _ => .V
  | .vfpGFabs _ _ _ _ => .V
  | .vfpGFneg _ _ _ _ => .V
  | .vfpGFsgn _ _ _ _ _ _ => .V
  | .vfpGFrcp _ _ _ _ => .V
  | .vfpGFrsq _ _ _ _ => .V
  | .vfpGFexp2 _ _ _ _ => .V
  | .vfmaFmadd _ _ _ _ _ => .V
  | .vfmaFmsub _ _ _ _ _ => .V
  | .vfmaFnmadd _ _ _ _ _ => .V
  | .vfmaImadd _ _ _ _ _ => .V
  | .vcmpEq _ _ _ _ _ _ => .V
  | .vcmpNe _ _ _ _ _ _ => .V
  | .vcmpLt _ _ _ _ _ _ => .V
  | .vcmpLe _ _ _ _ _ _ => .V
  | .vcmpLtu _ _ _ _ _ _ => .V
  | .vcmpLeu _ _ _ _ _ _ => .V
  | .vcmpFeq _ _ _ _ _ _ => .V
  | .vcmpFlt _ _ _ _ _ _ => .V
  | .vcmpFle _ _ _ _ _ _ => .V
  | .vcmpFun _ _ _ _ _ _ => .V
  | .vcmpGEq _ _ _ _ _ _ => .V
  | .vcmpGNe _ _ _ _ _ _ => .V
  | .vcmpGLt _ _ _ _ _ _ => .V
  | .vcmpGLe _ _ _ _ _ _ => .V
  | .vcmpGLtu _ _ _ _ _ _ => .V
  | .vcmpGLeu _ _ _ _ _ _ => .V
  | .vcmpGFeq _ _ _ _ _ _ => .V
  | .vcmpGFlt _ _ _ _ _ _ => .V
  | .vcmpGFle _ _ _ _ _ _ => .V
  | .vcmpGFun _ _ _ _ _ _ => .V
  | .mand _ _ _ _ _ => .V
  | .mor _ _ _ _ _ => .V
  | .mxor _ _ _ _ _ => .V
  | .mnot _ _ _ => .V
  | .mset _ => .V
  | .mclr _ => .V
  | .mpop _ _ _ => .V
  | .mfirst _ _ _ => .V
  | .rsum _ _ _ _ => .V
  | .rmin _ _ _ _ => .V
  | .rmax _ _ _ _ => .V
  | .rand _ _ _ _ => .V
  | .ror _ _ _ _ => .V
  | .rxor _ _ _ _ => .V
  | .rfsum _ _ _ _ => .V
  | .rfmin _ _ _ _ => .V
  | .rfmax _ _ _ _ => .V
  | .rany _ _ _ _ => .V
  | .rall _ _ _ _ => .V
  | .vcvt _ _ _ _ _ _ _ _ _ => .V
  | .slideup _ _ _ _ _ _ => .V
  | .slidedn _ _ _ _ _ _ => .V
  | .perm _ _ _ _ _ _ => .V
  | .compress _ _ _ _ => .V
  | .expand _ _ _ _ => .V
  | .zip _ _ _ _ _ _ => .V
  | .bcast _ _ _ _ _ _ => .V
  | .merge _ _ _ _ _ _ => .V
  | .trn _ _ _ _ => .V
  | .vmemLd _ _ _ _ _ => .V
  | .vmemSt _ _ _ _ _ => .V
  | .vmemLds _ _ _ _ _ _ => .V
  | .vmemSts _ _ _ _ _ _ => .V
  | .vmemLdx _ _ _ _ _ _ => .V
  | .vmemStx _ _ _ _ _ _ => .V
  | .vmemLdl _ _ _ _ _ => .V
  | .vmemStl _ _ _ _ _ => .V
  | .vmemLdff _ _ _ _ _ => .V
  | .vmemAmoadd _ _ _ _ _ _ => .V
  | .vbr _ _ _ => .V
  | .vbrNot _ _ _ => .V
  | .vend => .V
  | .vjoin => .V
  | .vnop => .V
  | .accRd _ _ _ => .V
  | .accWr _ _ _ _ => .V
  | .accClr _ _ => .V
  | .cpLay _ _ _ _ _ => .Q
  | .cpArr _ _ _ _ _ => .S
  | .cpGo _ _ _ _ _ => .S
  | .cpWm _ _ => .S
  | .cpWait _ => .S
  | .cpStop _ => .S
  | .cpStat _ _ => .S
  | .copyAccept _ _ => .event
  | .copyElement _ _ _ => .event
  | .copyComplete _ _ => .event
  | .tkPost _ _ _ => .S
  | .tkStat _ _ _ => .S
  | .tkCancel _ _ _ => .S
  | .taskIssue _ _ => .event
  | .taskComplete _ _ => .event
  | .taskAging _ _ => .event
  | .evSig _ _ _ _ _ => .S
  | .evWait _ _ _ _ _ => .S
  | .evRd _ _ _ => .S
  | .evSet _ _ _ _ _ => .S
  | .eventUpdateApply _ _ => .event
  | .nbGo _ _ _ => .S
  | .nbStat _ _ _ => .S
  | .nbStop _ _ => .S
  | .nbJobStart _ => .event
  | .nqPush _ _ _ => .N
  | .nqPop _ _ => .N
  | .nbSafe => .N
  | .nbMc _ _ _ _ => .N
  | .nqLoadFill _ _ => .event
  | .nbJobEnd _ => .event
  | .nbProgressWatchdog _ => .event
  | .nbSafePointWatchdog _ => .event
  | .channelResetComplete _ => .event
  | .dramRefreshDue _ => .event
  | .lpMark _ _ _ _ => .S
  | .lpIter _ => .S
  | .lpEnd _ => .S
  | .lpStat _ => .S
  | .templateVerdict _ => .event
  | .replayIteration _ => .event
  | .replayDeparture _ _ => .event
  | .replayComplete _ => .event
  | .jrRec _ _ _ _ _ => .S
  | .jrGate _ _ _ _ _ => .S
  | .jrDur _ _ _ => .S
  | .jrTrunc _ _ _ _ _ => .S
  | .jrRead _ _ _ _ _ => .S
  | .journalAck _ _ => .event
  | .mirrorRecordWrite _ _ _ _ => .event
  | .truncationAck _ _ => .event
  | .plHash _ _ _ _ _ => .S
  | .plBind _ _ _ => .S
  | .plSend _ _ _ => .S
  | .plRecv _ _ _ => .S
  | .plEnd _ _ _ => .S
  | .plStat _ _ _ => .S
  | .go _ _ _ _ _ => .S
  | .gq _ _ _ => .S
  | .launchDoorbell _ _ => .event
  | .dbstatWrite _ _ => .event
  | .launchHeadCheck _ => .event
  | .placeLaunch => .event
  | .lqcfgWrite _ _ _ => .event
  | .trapEntry _ => .event
  | .preqRequest _ _ => .event
  | .preqResume _ _ => .event
  | .ximgSave _ _ => .event
  | .xldLoad _ _ => .event
  | .cparkOffer _ _ => .event
  | .flagRestoreWrite _ _ _ => .event
  | .vectorShapeWrite _ _ _ => .event
  | .protWrite _ _ => .event
  | .evbaseWrite _ _ => .event
  | .accpsnWrite _ _ => .event
  | .jrcfgWrite _ _ => .event
  | .jrcandWrite _ _ _ => .event
  | .ltermWrite _ _ => .event
  | .rtcoreWrite _ _ => .event
  | .rtqPop _ => .event
  | .rtmigGo _ _ => .event
  | .rtmigEnd _ _ => .event
  | .migrationGranule => .event
  | .elstatClear _ _ => .event
  | .pmcWrite _ _ _ => .event
  | .energyWrite _ _ => .event
  | .smpcfgWrite _ _ _ => .event
  | .sampleTraceAcquireRead _ _ => .event
  | .sampleRecordWrite _ => .event
  | .traceRecordWrite _ => .event
  | .stopFire _ => .event
  | .genericRegisterWrite _ _ _ => .event
  | .registerParityReplay _ _ => .event
  | .laneReexecute _ _ _ => .event
  | .protectedModeMismatch _ _ => .event
  | .scrubRead _ _ => .event
  | .l2EvictionPoison _ => .event
  | .cxlMemRequest _ _ _ => .event
  | .hostSnoop _ => .event
  | .cxlIdeFailure => .event
  | .flitReceive _ _ => .event
  | .peerMessageReceive _ _ _ _ _ _ => .event
  | .keyEpochChange _ => .event
  | .idleFlitSend _ => .event
  | .portLivenessExpiry _ => .event
  | .portTrainUp _ _ _ => .event
  | .inboundRequest _ _ _ _ _ => .event
  | .remoteResponse _ _ _ => .event
  | .powerOnReset _ _ _ _ => .event
  | .stackTraining _ _ => .event
  | .fullServiceEntry => .event
  | .quote _ => .event
  | .pubkeys => .event
  | .keyload _ _ _ => .event
  | .keyclr _ => .event
  | .extend _ _ => .event
  | .event => .event
  | .reply _ _ => .event
  | .state => .event
  | .hostAssistEvent _ => .event
  | .powerThrottle => .event
  | .tlbInvalidationComplete _ => .event
  | .hostLinkTrained _ => .event
  | .unknownMailboxCode _ => .event
  | .counterOverflow _ _ => .event
  | .drawBelowLimit => .event

end Sys2Proof
end

