-- ==== Sys2Proof/Machine/HartState.lean ====
section
/-!
DEFINITION. The state of one hart: its scalar stream, its vector stream and queue, its streams, bindings and copy
channels, its trap record, its marked loop, its group arrivals and its observation registers. Plain data only.
-/
namespace Sys2Proof.Machine

/-- A table by number: pairs of a key and an entry, kept sorted by key. -/
abbrev Assoc (α : Type) := List (Nat × α)

/-- A vector register: 2,048 bytes, byte o at bits 8o + 7 to 8o (R151, R160). -/
abbrev VReg := BitVec 16384

/-- A mask: bit i governs the element or cell of linear index i (R151, R163). -/
abbrev Mask := BitVec 16384

/-- What a waiting hart waits for (R92). -/
inductive WaitKind where
  /-- halt, until R93's conditions hold -/
  | halt
  /-- idle, until cyc reaches swake or a pre-emption request arrives (R127) -/
  | idle
  /-- gsync or gwait (R328) -/
  | group
  /-- ev.wait (R312) -/
  | event
  /-- cp.wait (R254) -/
  | copy
  deriving DecidableEq, Repr

/-- The state of a hart slot (R92). A parked hart stands in its launch's list of parked harts; the slot meanwhile runs
the handler that saved its image, or another hart (R350). -/
inductive HartStatus where
  | idle
  | running
  | waiting (k : WaitKind)
  | retired
  deriving DecidableEq, Repr

/-- A trace record not yet written (R410): its number among the hart's records (0 for one that no branch and no departure
takes back), its kind, source and destination addresses and code. -/
structure TraceRec where
  num  : Nat
  kind : Nat
  src  : Word
  dst  : Word
  code : Nat
  deriving DecidableEq, Repr

/-- The scalar registers a wrong prediction restores (R98, R107). The full/empty bits stand in the layout of tfe:
bit n for sn, bit 32 + n for kn, 1 when empty (R354); bits 0 and 32 stay 0, since s0 and k0 are always full (R14). -/
structure ScalarRegs where
  s     : Vector Word 32
  k     : BitVec 8
  empty : BitVec 40
  fst   : BitVec 5
  srctr : Word
  replay : List (List Nat)        -- what each of the 16 latest scalar writers wrote, latest first: s and k in the layout of empty, 40 for g, 48 + n (R396)
  ran    : Nat                    -- the model's own field: instructions completed, those behind an unconfirmed branch too (R406)
  deriving DecidableEq, Repr

/-- An unconfirmed predicted branch (R105 to R107). -/
structure Checkpoint where
  branchPc  : Word        -- the branch's own address
  otherPc   : Word        -- where the stream goes if the prediction proves wrong
  k         : BitVec 3    -- the condition bit the branch waits for
  takenIf   : Bool        -- the value of the condition bit under which the branch is taken
  predicted : Bool        -- predicted taken
  value     : Option Bool -- the condition bit's value once its older producer has written it
  regs      : ScalarRegs  -- the registers at the branch, with older fills applied
  nextId    : Nat         -- producers with this number or above are younger than the branch
  trNum     : Nat         -- trace records with a higher number are younger than the branch
  deriving DecidableEq, Repr

/-- Where the bytes of an access lie: n1 bytes from key, and when the access crosses a page the rest from key2. Each page
has its own key, key slot and cacheability; the other attributes are those of the two pages together. -/
structure Loc where
  key   : Nat
  n1    : Nat
  key2  : Nat
  size  : Nat
  kopt  : Option (BitVec 512)   -- the key of a sealed page
  kopt2 : Option (BitVec 512)
  slot  : Nat                   -- its slot, 0 for none
  slot2 : Nat
  uncached : Bool               -- the page has U = 1
  uncached2 : Bool
  host  : Bool                  -- a page has H = 1
  retire : Bool                 -- a page has P = 1
  near  : Bool                  -- every page has N = 1
  phys  : Bool                  -- translated memory, not a window
  deriving DecidableEq, Repr

/-- A cached leaf (R213, R217): the TLB that holds it, the context, the page's first virtual address and its size, the
entry. -/
structure TlbEntry where
  place : Nat                   -- core * 2 for its fetch and scalar TLB, core * 2 + 1 for the other, 2048 + quarter
  ctx  : Nat
  base : Nat
  size : Nat
  pte  : BitVec 64
  addr : Nat                    -- where the entry was read, for its A and D bits
  deriving DecidableEq, Repr

/-- What a pending access is. -/
inductive PendKind where
  | load
  | amo
  | store
  deriving DecidableEq, Repr

/-- A scalar load or amo whose destination is still empty (R101, R119, R123), or a store that has not been performed
(R122), here or at a peer (R364). -/
structure PendingLoad where
  id     : Nat
  kind   : PendKind
  dst    : BitVec 5
  ea     : Word
  loc    : Loc
  signed : Bool
  stream : Nat
  remote : Bool                   -- at a peer, which has not answered (R364)
  op     : Nat                    -- amo: its operation (R24)
  data   : Word                   -- amo: the operand; store: the value
  cmp    : Word                   -- amo cas.d: the compare value
  value  : Option Word            -- what the destination will take, once the access is performed
  poison : Bool                   -- the performed read met poison
  err    : Bool                   -- the peer answered with an error (R364)
  deriving DecidableEq, Repr

/-- Where the bytes of a pending access lie. -/
abbrev PendingLoad.key (p : PendingLoad) : Nat := p.loc.key

/-- How many bytes it has. -/
abbrev PendingLoad.size (p : PendingLoad) : Nat := p.loc.size

/-- A queue position: entries of the queue, and of the handler queue, that have entered before it (R246, R338). -/
structure Ticket where
  main : Nat
  hand : Nat
  deriving DecidableEq, Repr

/-- A vector queue entry: the word of a vblk or class Q instruction and what it captured at enqueue (R104, R164,
R347). -/
structure QEntry where
  word   : BitVec 32
  a      : Word               -- vblk: the target; otherwise s[A] or the request as captured
  b      : Word               -- s[B] where the function reads it
  g      : Vector Word 8      -- vblk: s8 to s15
  scanS  : BitVec 32          -- vblk: scalar registers the scan marked (R186)
  scanK  : BitVec 8           -- vblk: condition bits the scan and the bindings marked (R186, R240)
  binds  : List Nat           -- vblk: the bases of the bindings that marked theirs (R240)
  deriving DecidableEq, Repr

/-- An offcut buffer entry: a parked or resumed fragment (R172). -/
structure Offcut where
  bm : Mask
  c  : Word
  st : Bool
  deriving DecidableEq, Repr

/-- What belongs to one block instance beside vpc, estart and g (R151, R153, R172, R186). -/
structure BlockInstance where
  path    : Mask
  offcut  : List Offcut       -- youngest first, at most 8
  spilled : Nat               -- spill slots in use
  scanS   : BitVec 32         -- scanned scalar destinations not yet written
  scanK   : BitVec 8          -- condition bits marked by the scan and the bindings, not yet written
  binds   : List Nat          -- the bases of the bindings whose bits its end writes (R240)
  sides   : Option (Vector (BitVec 32) 32)  -- the side words as its q4n permute in progress found them (R177, R191)
  deriving DecidableEq, Repr

/-- The parts of the arrays that the lanes check, one bit each: register r's element group e is part 128r + e, byte e of mask m is
part 4096 + 2048(m − 1) + e, the side word of register r is part 18432 + r (R395, R397; the numbers are assumption 47). -/
abbrev LaneParts := BitVec 18464

/-- The parts that a block instance has written: by completed instructions, whose operand buffers stand, and by the one in progress
(R397). -/
structure Produced where
  done : LaneParts
  now  : LaneParts
  deriving DecidableEq, Repr

/-- The vector stream of a hart (R151, R155). -/
structure VecState where
  v      : Vector VReg 32
  side   : Vector (BitVec 32) 32
  m      : Vector Mask 8          -- entry 0 is never read: m0 is all-true
  len    : Word
  rows   : Word
  fmt    : Word
  estart : Word
  vpc    : Word
  vst    : BitVec 5
  vdirty : Word
  g      : Vector Word 8          -- g0 to g7 of the running instance
  inst   : Option BlockInstance   -- the running block instance
  queue  : List QEntry            -- the vector queue, oldest first, at most 16 (frozen while VF is 1)
  hqueue : List QEntry            -- the handler queue, at most 4 (R338)
  frozen : Option BlockInstance   -- the frozen instance (R335); its vpc, estart and g are tvpc, telem and tg
  xlats  : List TlbEntry          -- translations that the memory instruction in progress holds (R218)
  armed  : Bool                   -- the instruction at vpc stands dispatched at the element of its stop (R412)
  begun  : Option (BitVec 32)     -- the word at vpc, when it stands dispatched with elements still to do (R153, R175, R179)
  made   : Produced               -- what the running instance, or the last one, has written (R397)
  kept   : Produced               -- what the frozen instance has written and nothing has overwritten
  enq    : Ticket                 -- entries that have ever entered the queues
  done   : Ticket                 -- entries that have been performed
  deriving DecidableEq, Repr

/-- A chunk of a binding's source: C registers, and the faults of its elements (R238, R239). -/
structure Chunk where
  regs   : List VReg
  size   : Nat                       -- bytes of an element
  faults : List (Nat × Nat × Word)   -- element within the chunk, cause, address; ascending
  deriving DecidableEq, Repr

/-- A stream (R235, R236, R241). -/
structure StreamState where
  pattern : Option (BitVec 512)
  bound   : Bool
  done    : Nat                   -- elements consumed or stored since the binding began
  ready   : List Chunk            -- chunks fetched and not consumed
  deriving DecidableEq, Repr

/-- A copy accepted on a channel since a binding to it was made (R238): where its destination bytes lie. -/
structure ChanPart where
  dst    : Word
  layout : List Word
  size   : Nat                    -- bytes of an element
  core   : Nat                    -- the core whose windows its destination names: of a slotted copy the DST core (R258)
  deriving DecidableEq, Repr

/-- A binding of registers to a stream or a channel (R237, R238). -/
structure Binding where
  base    : Nat                   -- first register
  count   : Nat                   -- registers per chunk
  operand : Word                  -- the binding operand
  cond    : BitVec 3              -- condition bit written at the end of a block instance
  pattern : BitVec 512            -- the pattern as it stood when the binding was made
  chunks  : Nat                   -- chunks consumed from a channel
  parts   : List ChanPart         -- copies of the channel accepted since, in order
  held    : Option Chunk          -- the chunk that the instruction in progress reads
  deriving DecidableEq, Repr

/-- A captured pair of layouts, source and destination, one word a dimension, innermost first (R243, R244). -/
structure LayoutPair where
  src : List Word
  dst : List Word
  deriving DecidableEq, Repr

/-- An element of a copy that has passed its checks and is not yet written: its index and where it is read and written
(R247). -/
structure CopyMove where
  j   : Nat
  src : Loc
  dst : Loc
  deriving DecidableEq, Repr

/-- A copy that has been issued and not completed (R246, R247). -/
structure CopyJob where
  src      : Word
  dst      : Word
  arrive   : Word
  cfg      : Word
  ticket   : Ticket               -- the queue position at its issue
  older    : Nat                  -- scalar accesses with a lower number precede it
  level    : BitVec 2             -- captured privilege level (R220)
  replay   : Bool                 -- issued while a replay of the hart ran (R285)
  taken    : Option (Option LayoutPair)  -- the pair at its ticket, once a younger cp.lay has replaced it (R246)
  layouts  : Option LayoutPair    -- the pair in force, once accepted
  accept   : Nat                  -- order of its acceptance at the core (R257)
  loaded   : Bool                 -- of an image: accepted in ticket order (R349)
  kept     : Bool                 -- restored after its acceptance: the watermark stays (R252, R347)
  checked  : Nat                  -- elements below this index have passed their checks
  moves    : List CopyMove        -- those of them that are not written
  written  : List Nat             -- elements written at or above the watermark
  poisoned : Bool                 -- an error has been met (R250)
  deriving DecidableEq, Repr

/-- A copy channel (R242). -/
structure Channel where
  layouts : Option LayoutPair
  arrive  : Word
  cfg     : Word
  copies  : List CopyJob          -- oldest first, at most 8
  wm      : Nat                   -- the watermark in bytes (R249)
  flt     : Bool
  err     : Bool
  fault   : Option (Nat × Word)   -- a copy fault not yet delivered: cause, tval (R251)
  laySeen : Bool                  -- a cp.lay for the channel has entered the queue (R246)
  deriving DecidableEq, Repr

/-- The trap registers (R336, R337, R354). -/
structure TrapRegs where
  tvec     : Word
  tpc      : Word
  tvpc     : Word
  telem    : Word
  tcause   : BitVec 8
  tval     : Word
  tinfo    : Word
  ppl      : BitVec 2
  ts       : Bool
  vf       : Bool
  tva      : Bool
  prq      : Bool
  tfe      : BitVec 40
  tscratch : Word
  tg       : Vector Word 8
  ximg     : Word
  xld      : Word
  loaded   : Bool                 -- an xld has restored a context that tret resumes (R350)
  deriving DecidableEq, Repr

/-- An arrival that waits for its accesses (R328): the scope of the release and the queue position it waits for. -/
structure PendArrival where
  scope  : Nat
  ticket : Ticket
  older  : Nat
  deriving DecidableEq, Repr

/-- The group side of a hart (R328 to R331). -/
structure GroupRegs where
  wo   : Bool                     -- gstate.WO
  sent : Bool                     -- the gsync at pc has issued its arrival (R328)
  gsel : BitVec 8
  pend : Vector (Option PendArrival) 4
  deriving DecidableEq, Repr

/-- An instruction executed in a demonstration iteration: its word, for a scalar load or store its address, and the
values of the registers that it read in A, B and C (D for a store) (R281, R282). -/
structure DemoRec where
  word : BitVec 32
  ea   : Word
  a    : Word
  b    : Word
  c    : Word
  deriving DecidableEq, Repr

/-- How a stored value is formed (R281, R282): a load of the iteration by ordinal, an induction register, a value, or an
operation on such values. -/
inductive Expr where
  | load (j : Nat)
  | ind (r : Nat)
  | val (v : Word)
  | op (fn : Nat) (a b : Expr)
  | fma (sub : Bool) (a b c : Expr)
  deriving DecidableEq, Repr

/-- An access of the confirmed template: its address in iteration 0 and its step, and for a store the value (R283). -/
structure LoopAccess where
  store  : Bool
  base   : Word
  step   : Word
  size   : Nat
  signed : Bool
  tree   : Expr
  deriving DecidableEq, Repr

/-- The marked loop of a hart (R279 to R289). -/
structure MarkedLoop where
  lpi    : Word
  lpst   : Word
  lpn    : Word
  lpre   : Word
  lpwm   : Word
  init   : Vector Word 32         -- the scalar registers at lp.mark
  cur    : List DemoRec           -- the iteration being recorded, in program order
  iters  : List (List LoopAccess) -- the accesses of the demonstration iterations, in order
  ends   : List (Vector Word 32)  -- the scalar registers at the end of each iteration, in order
  between : Bool                  -- after an lp.iter, before the re-entry address
  verdict : Option (BitVec 3)     -- the tracers' verdict is awaited: the destination of the lp.iter
  template : List LoopAccess      -- the confirmed template
  steps  : Vector Word 32         -- the step of each induction register
  frm    : BitVec 3               -- frm.RM at confirmation
  level  : BitVec 2               -- the level at confirmation (R220)
  conf   : ScalarRegs             -- the registers at confirmation, with older fills applied
  confId : Nat                    -- producers with this number or above are younger than the confirmation
  confTr : Nat                    -- trace records with a higher number are younger than the confirmation
  fflags : BitVec 5               -- flags the replayed iterations raised (R284)
  endDst : Option (BitVec 5)      -- lp.end has been issued in replay: its destination
  deriving DecidableEq, Repr

/-- A vector memory instruction that has been dispatched and counted (R409): whether it is sampled, its address, estart
at its dispatch, the pages and lines it has touched, its translation misses, its function and stride class, and the
measures the spec leaves open. -/
structure Watch where
  sampled : Bool
  iaddr   : Word
  elem    : Nat
  pages   : Nat
  lines   : Nat
  misses  : Nat
  fn      : Nat
  scls    : Nat
  free    : Word
  deriving DecidableEq, Repr

/-- The model's own tallies of a hart, what its counters count besides instructions (R406, R408): element groups completed, copy
bytes written, wrong predictions, corrected errors and replays. -/
structure Tally where
  groups : Nat
  copied : Nat
  wrong  : Nat
  fixed  : Nat
  deriving DecidableEq, Repr

/-- The observation registers of a hart (R399, R409 to R413). -/
structure ObserveRegs where
  prot    : Bool
  smpcfg  : Word
  smpbase : Word
  smpCnt  : Nat                   -- vector memory instructions since the last sample
  trcfg   : Word
  trbase  : Word
  trdly   : BitVec 48
  trdrop  : BitVec 48
  stpa    : Word
  stpe    : Word
  watch   : Option Watch          -- the vector memory instruction in progress
  samples : List (BitVec 512)     -- sample records not yet written to the ring, oldest first
  traces  : List TraceRec         -- trace records not yet written, oldest first (R410)
  trNum   : Nat                   -- trace records noted so far
  tally   : Tally
  deriving DecidableEq, Repr

/-- The placement registers, set at placement (R97, R391). -/
structure PlaceRegs where
  lvh   : BitVec 16
  lgrid : BitVec 10
  lctx  : BitVec 12
  lprio : BitVec 3
  ltag  : BitVec 16
  gmem  : Word
  plh   : Word
  plstg : BitVec 5
  launch : Nat                    -- the resident launch the hart belongs to
  spillOff : Nat                  -- the launch's spill area in the core scratchpad (R76)
  spillN : Nat                    -- spill slots per hart
  deriving DecidableEq, Repr

/-- What a command that has not answered waits for (R101). -/
inductive Awaits where
  /-- jr.gate: journal and position (R384) -/
  | gate (j pos : Nat)
  /-- jr.trunc: journal and position (R388) -/
  | trunc (j pos : Nat)
  /-- pl.send: pipeline, stage, position and payload, when a receiver's buffer is full (R375) -/
  | send (pipe : Word) (stage pos : Nat) (data : List Byte)
  /-- pl.recv: pipeline, stage, buffer address and capacity (R376) -/
  | recv (pipe : Word) (stage : Nat) (addr : Word) (cap : Nat)
  /-- pl.bind: the pipeline (R373) -/
  | bind (pipe : Word)
  /-- nothing more: the engine has the answer, and delivers it -/
  | ready (v : Word)
  deriving DecidableEq, Repr

/-- A command that has not answered: its number, its destination, what it waits for. -/
structure PendingCmd where
  id  : Nat
  dst : BitVec 5
  on  : Awaits
  deriving DecidableEq, Repr

/-- An event update that waits for the hart's older accesses (R311). -/
structure EventUpdate where
  loc    : Loc                    -- where the count lies
  set    : Bool                   -- ev.set, otherwise ev.sig
  amount : Nat
  dst    : BitVec 5
  ticket : Ticket
  older  : Nat
  deriving DecidableEq, Repr

/-- The trap of an access whose data or answer has returned (R119, R123, R364): its cause and address, the destination
that stays empty, and whether the access is one of a handler (R340). -/
structure LoadTrap where
  cause : Nat
  ea    : Word
  dst   : BitVec 5
  hand  : Bool
  deriving DecidableEq, Repr

/-- An element of a vector access that may still be performed: where its bytes lie; of a store or an add its operand; of a load
the register and the byte in it that take the data. -/
structure VecElem where
  loc   : Loc
  value : Nat
  reg   : Nat
  off   : Nat
  deriving DecidableEq, Repr

/-- What a vector memory function does. -/
inductive MemKind where
  | load
  | store
  | add
  deriving DecidableEq, Repr

/-- A vector access of a block instance whose elements are not all performed (R222, R223): its number, its stream, its queue entry
by the number in its queue and whether that is the handler's, what it does and in which format, the elements to do in ascending
order, the bytes (key, count) that it has written, and whether its instruction is still in progress. A load has read its data once,
and an element to do may read it again. -/
structure VecAccess where
  id     : Nat
  stream : Nat
  entry  : Nat
  hand   : Bool
  kind   : MemKind
  ew     : Nat
  todo   : List VecElem
  did    : List (Nat × Nat)
  going  : Bool
  deriving DecidableEq, Repr

/-- A hart. -/
structure Hart where
  status : HartStatus
  pc     : Word
  plev   : BitVec 2
  regs   : ScalarRegs
  frm    : BitVec 3
  srkey  : Word
  swake  : Word
  checks : List Checkpoint        -- unconfirmed branches, oldest first, at most 4
  loads  : List PendingLoad       -- oldest first
  nextId : Nat
  vaccs  : List VecAccess         -- vector accesses with elements still to perform, oldest first (R222)
  loadTraps : List LoadTrap       -- traps of returned loads not yet taken, oldest first (R119, R364)
  mcheck : Option Word            -- a machine check not yet taken: its tval (R398)
  taskFaults : List (Nat × Nat × Word)  -- undelivered task faults in posting order: cause, handle, tval (R301)
  handBack : Option (Nat × Word)  -- an undelivered Duplicator hand-back: cause 0x0F or 0x11, tval = k (R287)
  updates : List EventUpdate      -- in program order
  cmds   : List PendingCmd        -- commands that have not answered, in program order
  invs   : List Nat               -- the tlbinvs of this hart not yet complete (R128)
  l1     : List Nat               -- lines held by the L1, by line number, sorted (R206)
  vec    : VecState
  streams : Vector StreamState 16
  binds  : List Binding           -- at most 8
  chans  : Vector Channel 32
  trap   : TrapRegs
  group  : GroupRegs
  loop   : MarkedLoop
  obs    : ObserveRegs
  place  : PlaceRegs
  deriving DecidableEq, Repr

end Sys2Proof.Machine
end

