-- ==== Sys2Proof/Machine/DeviceState.lean ====
section
/-!
DEFINITION. The state of the device outside its harts: memory and its caches, the cores, the launch unit, the error
logs. Plain data only.
-/
namespace Sys2Proof.Machine

/-- A 64-byte line held by its home L2 (R207, R208, R210): which sectors it holds, which are dirty, which hold an
uncorrectable error of their own (R401), which hold poison that came with their data (R207), which clusters' L1s may hold
it, the key slot it is tagged with (0: none), whether a host line is owned. The bytes themselves stand in memory once. -/
structure L2Line where
  valid    : BitVec 4
  dirty    : BitVec 4
  bad      : BitVec 4
  psn      : BitVec 4
  presence : BitVec 8
  slot     : Nat
  owned    : Bool
  deriving DecidableEq, Repr

/-- A cached pointer entry of a walker (R217): the quarter of the walker (assumption 63), context, level, the virtual address
bits above the entry's granule. -/
structure PtrEntry where
  place : Nat
  ctx   : Nat
  level : Nat
  pre   : Nat
  pte   : BitVec 64
  deriving DecidableEq, Repr

/-- An invalidation in progress (R128, R217): its number, the hart that started it, context and virtual page. -/
structure Invalidation where
  id  : Nat
  hart : Nat
  ctx : Nat
  va  : Nat
  deriving DecidableEq, Repr

/-- The migration of a region of stack memory (R365, R405, R413). -/
structure Migration where
  old    : Word                 -- rtold
  new    : Word                 -- rtnew
  size   : BitVec 3
  mw     : Nat                  -- bytes copied
  busy   : Bool
  done   : Bool
  redirect : List (Nat × Nat × Nat)  -- old base, new base, size: the link engine's redirect table, at most 64
  deriving DecidableEq, Repr

/-- Memory and what caches it. -/
structure MemSys where
  cells  : List Host.Cell       -- every byte of every array, by key, in canonical form
  poison : List Nat             -- poisoned units of memory and the windows, by their first key, sorted (R401)
  seals  : Assoc (BitVec 512)   -- 16-byte sectors written through a sealed page, with the key they are under (R216)
  l2     : Assoc L2Line         -- by line number, PA div 64
  tlb    : List TlbEntry
  ptrs   : List PtrEntry
  ctxs   : Assoc (BitVec 256)   -- context table entries held by the device (R212)
  mig    : Migration
  invs   : List Invalidation
  nextInv : Nat
  deriving DecidableEq, Repr

/-- What belongs to one core (R96, R194, R291, R350, R394, R406). -/
structure CoreState where
  acc     : Assoc (BitVec 32)   -- accumulator elements, T * 16384 + row * 128 + column; unlisted reads +0.0
  accpsn  : BitVec 4
  hshare  : BitVec 16
  accept  : Nat                 -- commands its engines have accepted (R257)
  cpark   : Bool
  retired : Bool                -- retired from placement by rtcore (R394)
  retiring : Option Nat         -- retired once this launch, by placement order, has left (R394)
  pmsel   : Word
  pmovf   : BitVec 8
  pmc     : Vector (BitVec 48) 8
  deriving DecidableEq, Repr

/-- A record waiting in a launch queue (R78, R81, R82): from a doorbell only its address; from go the 64 bytes, the
context and the level of the issuing hart; read is the record as the checks at the head found it. -/
structure QueuedRecord where
  addr     : Word
  captured : Option (BitVec 512)
  read     : Option (BitVec 512)
  ctx      : Nat
  level    : BitVec 2
  bad      : Bool               -- captured with poison in it (R78)
  checked  : Bool               -- at the head, and its checks have passed
  asked    : Bool               -- the host has been asked where to place it (R422)
  clusters : Option (List Nat)  -- the host's answer: one physical cluster for each virtual cluster
  pipe     : Option (Nat × Nat) -- a stage launch of a pipeline: its handle and stage (R372)
  within   : Option (Nat × Nat) -- the first and last physical core it may use (R368)
  num      : Nat                -- its number among the records the queue has accepted
  deriving DecidableEq, Repr

/-- A launch queue (R78 to R80). -/
structure LaunchQueue where
  entries : List QueuedRecord
  cfg     : Word
  total   : Nat                 -- records ever accepted; SEQ is its low 16 bits (R80)
  refcode : BitVec 4
  ovf     : Bool
  deriving DecidableEq, Repr

/-- A thread of a near-bank job (R261): its registers (never empty), its word index, whether it has halted. -/
structure NbThread where
  regs   : ScalarRegs
  pc     : Nat
  halted : Bool
  deriving DecidableEq, Repr

/-- An entry of a load queue (R265, R266): the granule's addresses, its bytes once read, whether they are poisoned, and
how many store entries had been pushed before it. -/
structure NbLoad where
  va     : Nat
  pa     : Nat
  data   : Option (BitVec 512)
  poison : Bool
  after  : Nat
  deriving DecidableEq, Repr

/-- An entry of a store queue: the granule's addresses and its number among the pushed ones. -/
structure NbStore where
  va  : Nat
  pa  : Nat
  num : Nat
  deriving DecidableEq, Repr

/-- A near-bank job (R261, R272 to R276). -/
structure NbJob where
  desc    : BitVec 512
  seq     : BitVec 16
  ctx     : Nat                 -- context and level of the hart that issued nb.go (R220, R268)
  level   : BitVec 2
  hart    : Nat
  launch  : Nat                 -- the placement order of its launch
  ticket  : Ticket              -- the queue position of that hart at nb.go
  started : Bool
  parked  : Bool
  code    : List (BitVec 32)    -- the unit's instruction store
  a       : NbThread            -- address thread
  x       : NbThread            -- arithmetic thread
  w       : Vector (BitVec 512) 16
  fmt     : BitVec 5
  flags   : BitVec 5
  loads   : List NbLoad         -- oldest first, at most 16
  stores  : List NbStore        -- oldest first, at most 16
  pushed  : Nat                 -- store entries ever pushed
  stop    : Bool                -- an nb.stop is pending
  endCode : Option Nat          -- ended by an error or a stop; NB_JOB_END finishes it
  deriving DecidableEq, Repr

/-- A near-bank unit (R261, R272, R273, R277). -/
structure NbUnit where
  jobs  : List NbJob            -- in acceptance order, at most 4
  seq   : BitVec 16             -- jobs accepted, modulo 2^16
  past  : List (BitVec 16 × Nat × Word)  -- ended jobs: sequence number, context, status word
  holds : List Nat              -- contexts held by a pre-emption request (R342)
  inReset : Bool                -- its channel is in reset (R273)
  deriving DecidableEq, Repr

/-- A tile task that has been posted (R293, R302). -/
structure Task where
  record  : BitVec 1024
  seq     : Nat                 -- its number among the quarter's posts
  ctx     : Nat
  level   : BitVec 2            -- captured privilege level (R220)
  hart    : Nat                 -- the posting hart
  launch  : Nat                 -- the placement order of its launch
  evbase  : Word                -- evbase of the context at the post (R300, R314)
  w0      : Bool                -- wait event 0 is satisfied, or not used
  w1      : Bool
  edges   : List Nat            -- tasks it waits for
  issued  : Bool
  flt     : Bool
  err     : Bool
  can     : Bool
  cause   : Nat
  tval    : Word                -- where it faulted
  told    : Bool                -- its fault has been delivered (R301)
  flags   : BitVec 5
  pages   : List (Nat × Loc)    -- 4 KiB blocks of its spans as pre-translation found them (R296)
  core    : Nat
  age     : Nat                 -- aging intervals it has been ready
  accept  : Nat                 -- order of its acceptance at the core (R257)
  deriving DecidableEq, Repr

/-- A waiter of an event (R307): the count it watches, its target, and the hart or the task that waits. -/
structure EventWaiter where
  key    : Nat                  -- where the count lies
  target : Nat
  hart   : Option Nat
  dst    : BitVec 5             -- the destination of the hart's ev.wait
  task   : Option (Nat × Nat × Nat)  -- quarter, task, which of its two waits
  spilled : Bool                -- in the overflow list
  deriving DecidableEq, Repr

/-- The task scheduler of a quarter (R302 to R307). -/
structure Scheduler where
  tasks   : List Task           -- posted and not retired, in posting order
  past    : List Task           -- the latest completed, newest first, at most 1,024
  seq     : Nat
  tkage   : BitVec 16
  holds   : List Nat            -- contexts held by a pre-emption request (R305)
  turn    : Option Nat          -- the placement order of the launch whose turn it is
  taken   : Nat                 -- its consecutive turns
  waiters : List EventWaiter    -- of events whose home is this quarter, in order
  deriving DecidableEq, Repr

/-- A message of a pipeline that waits for its receiver (R374 to R376). -/
structure PipeMsg where
  pos  : Nat
  data : List Byte
  live : Bool                   -- not from a retention buffer
  deriving DecidableEq, Repr

/-- Who receives the output of a stage: an instance of the next stage, or the sink of a pipeline (R371). -/
inductive Receiver where
  | stage (inst : Nat)
  | sink (pipe : Word)
  deriving DecidableEq, Repr

/-- What a receiver has before it: the messages buffered, the next position due, whether the input has ended and
whether it failed (R375, R376). -/
structure Inbox where
  who    : Receiver
  msgs   : List PipeMsg         -- in ascending position, at most 64 live ones and those of a retention buffer
  next   : Nat                  -- the next position due
  ended  : Bool
  failed : Bool
  deriving DecidableEq, Repr

/-- An instance of a stage (R369 to R372): its handle and device, the pipeline and stage that launched it, the context
and level its retention buffer is reached in, the next position it emits, its largest message; as a prefix entry also its
key, its first position, its retained messages, its users and its owner. -/
structure StageInstance where
  id     : Nat
  handle : BitVec 256
  dev    : BitVec 16
  pipe   : Word                 -- the pipeline whose bind launched it
  stage  : Nat
  ctx    : Nat
  level  : BitVec 2
  mlen   : Nat
  q      : Nat
  key    : Option (BitVec 256)  -- the key of its prefix entry, if it has one
  first  : Nat
  retain : Nat
  rbuf   : Word
  kept   : List (Nat × Nat)     -- positions in the retention buffer and their lengths
  users  : List Word            -- pipelines that use it, earliest attached first; REF is their number
  owner  : Option Word          -- the pipeline that owns the entry; none when it lies on another device
  deriving DecidableEq, Repr

/-- A pipeline (R368, R373, R377, R378). -/
structure Pipeline where
  handle : Word
  ctx    : Nat
  level  : BitVec 2
  header : BitVec 512
  stages : List (BitVec 512)
  insts  : List Nat             -- its stage instances, by stage
  depth  : Nat
  st     : BitVec 2
  waits  : List Nat             -- stages launched on other devices that have not answered
  deriving DecidableEq, Repr

/-- The pipeline side of the link engine. -/
structure PipeUnit where
  pipes   : List Pipeline
  insts   : List StageInstance
  inboxes : List Inbox
  seq     : Nat                 -- binds made
  nextId  : Nat
  hashed  : List (BitVec 256 × Bool)  -- the model's own field: the stage handles that pl.hash has given here, each with the
                                      -- fixed-order bit of its record (R55, R366)
  deriving DecidableEq, Repr

/-- A journal (R380, R391). -/
structure Journal where
  enabled : Bool
  ctx     : Nat
  lsz     : Nat
  base    : Word
  fin     : Nat                 -- END
  dw      : Nat
  tr      : Nat
  deriving DecidableEq, Repr

/-- The journal side of the link engine (R380 to R391). -/
structure JournalUnit where
  jrn    : Vector Journal 16
  sel    : BitVec 4
  cand   : Vector Word 4
  ref    : Bool
  tail   : Option (Fin 4)       -- the current tailstock: its candidate
  jrmbase : Word
  closed : List Nat             -- mirror entries whose source is lost: nothing more is written to them (R392)
  deriving DecidableEq, Repr

/-- A peer port (R360 to R363, R391). -/
structure Port where
  up    : Bool
  authf : Bool
  peer  : BitVec 16             -- the peer's node identifier
  lanes : Nat
  retry : Nat
  lkinb : Word
  rxSeq : BitVec 16             -- SEQ of the next flit expected
  txSeq : BitVec 16             -- SEQ of the next flit sent
  unacked : Nat                 -- flits in the replay buffer, at most 256
  credit : Vector Nat 4         -- credits returned, by channel
  parts : Vector Nat 4          -- flits of the message being received, by channel
  rxEpoch : BitVec 32
  txEpoch : BitVec 32
  rxCount : Word                -- messages received in the epoch
  odd   : Nat                   -- flits discarded for their TYPE (R360)
  deriving DecidableEq, Repr

/-- The links (R358, R391). -/
structure LinkUnit where
  lkid   : BitVec 16
  lklive : BitVec 24
  hostUp : Bool                 -- the host link is up
  hostWidth : Nat
  deriving DecidableEq, Repr

/-- Page retirement and scrubbing (R402, R404, R413). -/
structure RetireUnit where
  rtq    : List Word            -- pages queued, oldest first, as the physical address of the page
  rtthr  : BitVec 16
  fixed  : Assoc Nat            -- corrected errors by page
  scrub  : Vector (BitVec 24) 6
  deriving DecidableEq, Repr

/-- The energy count of a context (R408). -/
structure Energy where
  count : BitVec 48
  sat   : Bool
  acc   : Nat                   -- picojoules not yet carried
  seen  : Nat                   -- the model's own field: the epoch in which it was last read or written
  deriving DecidableEq, Repr

/-- Energy accounting (R408, R413). -/
structure EnergyUnit where
  ensel  : BitVec 12
  counts : Assoc Energy
  enwt   : Vector (BitVec 16) 8
  enstat : BitVec 16
  epoch  : Nat                  -- the model's own field: times that weights under which the model counts not all have gone
  deriving DecidableEq, Repr

/-- A host-assisted event (R422). -/
structure HostEvent where
  kind   : Nat
  tag    : BitVec 16
  detail : BitVec 192
  deriving DecidableEq, Repr

/-- An agent that waits for the host to serve its translation fault (R422): the agent, the address, the cause that the
host answered. -/
structure Assist where
  agent : Nat
  va    : Word
  cause : Option Nat
  deriving DecidableEq, Repr

/-- A mailbox command that has been started, with the data it has read (R417). -/
inductive MailboxJob where
  | quote (nonce : List Byte)
  | pubkeys
  | keyload (v : Word) (ct box : List Byte)
  | keyclr (v : Word)
  | extend (v : Word) (d : List Byte)
  | event
  | reply (tag : Nat) (answer : List Word)
  | state
  | unknown
  deriving DecidableEq, Repr

/-- The trust and bring-up registers and units (R414 to R426). -/
structure TrustState where
  ctxbase : Word
  modes   : Word
  bstSt   : BitVec 2            -- bstate.ST
  trained : BitVec 8            -- bstate.TRN
  failed  : BitVec 8            -- bstate.FAIL
  pwlim   : BitVec 16
  svn     : BitVec 32           -- the security version number of image 0 (R414, R418)
  keys    : Assoc (BitVec 512)  -- key slots that hold a key (R419)
  meas    : Vector (BitVec 256) 8  -- M0 to M7, byte o at bits 8o + 7 to 8o (R415)
  cmd     : Word                -- the mailbox's CMD, as last written (R417)
  status  : Word                -- the mailbox's STATUS (R417)
  data    : List Byte           -- the mailbox's data area, from offset 0x100
  job     : Option MailboxJob   -- the command that runs (R417)
  halted  : Bool                -- the ROM has halted (R414)
  draining : Bool               -- in full service, the launch unit waits until quarter 0 holds no launch (R423)
  waiting : List HostEvent      -- events not yet raised into the queue, oldest first
  hostq   : List HostEvent      -- pending host-assisted events, oldest first, at most 64
  nextTag : BitVec 16
  assists : List Assist
  msix    : List Nat            -- MSI-X messages sent, by vector, latest first
  throttle : Bool               -- the quarters insert idle issue cycles (R426)
  deriving DecidableEq, Repr

/-- A group of a resident launch (R326): the members not retired, and of each whether it has arrived in this
generation or holds an arrival for the next. -/
structure Group where
  members : BitVec 1024
  arr     : BitVec 1024
  held    : BitVec 1024
  gen     : BitVec 16
  deriving DecidableEq, Repr

/-- A slot reservation of a launch (R89, R90): source and destination cores and the slot. -/
structure SlotRoute where
  src  : Nat
  dst  : Nat
  slot : Nat
  deriving DecidableEq, Repr

/-- A resident launch. -/
structure Launch where
  record  : BitVec 512
  ctx     : Nat                 -- the context its record was read in
  level   : BitVec 2
  cores   : List (Nat × Nat)    -- virtual core, physical core
  harts   : List Nat            -- its hart numbers, physical core * 4 + slot
  live    : List Nat            -- those not yet retired
  groups  : Assoc Group
  slots   : List SlotRoute
  parked  : List Nat            -- its harts that are parked (R350)
  order   : Nat                 -- its place in the order of placements
  ending  : Bool                -- terminated: waiting for its issued tasks to finish (R393)
  queue   : Nat                 -- the queue it came from (R431)
  owed    : Assoc (List EventUpdate)  -- event updates of parked harts whose slots run other harts (R311, R350)
  causes  : Assoc (Option (Nat × Word) × List LoadTrap)  -- the hand-back and load traps that parked harts had still to take (R344)
  pipe    : Option (Nat × Nat)
  code    : List Host.Cell      -- memory as fetch sees it: as it stood when the launch was placed (R103)
  codeSeals : Assoc (BitVec 512)  -- and its sealed sectors
  deriving DecidableEq, Repr

/-- The launch unit (R78, R84). -/
structure LaunchUnit where
  queues   : Vector LaunchQueue 64
  resident : Assoc Launch       -- by launch number, 0 to 63
  rr       : Nat                -- where the round-robin search starts
  placed   : Nat                -- launches placed so far
  held     : Assoc (List (Nat × Nat))  -- cores that fell idle while heads waited: each head by queue and number (R84)
  disabled : List Nat           -- cores disabled by fuse (R1)
  failed   : List Nat           -- clusters whose memory slice has failed (R202)
  deriving DecidableEq, Repr

/-- An error log entry (R403). -/
structure LogEntry where
  addr  : BitVec 56
  type  : Nat
  ctx   : Nat
  src   : Nat
  count : Nat
  syn   : Nat
  deriving DecidableEq, Repr

/-- The error log of one level (R402, R403). -/
structure ErrorLog where
  entries : List LogEntry       -- oldest first, at most 64
  ovf     : Nat
  deriving DecidableEq, Repr

end Sys2Proof.Machine
end

