-- ==== Sys2Proof/Machine/State.lean ====
section
/-!
DEFINITION. The state of the machine and the state after reset. Plain data only.
-/
namespace Sys2Proof.Machine

/-- Who acts in a step (see assumption 1). Harts are numbered core * 4 + slot, near-bank units stack * 64 + column. -/
inductive Agent where
  /-- the scalar stream of a hart -/
  | scalar (h : Nat)
  /-- the vector stream of a hart: its block instance, or else its queue -/
  | vector (h : Nat)
  /-- the vector queue of a hart performing the class Q entry at its head -/
  | queue (h : Nat)
  /-- a thread of the running job of a near-bank unit: false the address thread, true the arithmetic thread -/
  | nearBank (u : Nat) (x : Bool)
  deriving DecidableEq, Repr

/-- What the next step is, where the spec fixes no order among the agents (assumption 1). -/
inductive Turn where
  /-- an event of the table of operations occurs -/
  | event (i : Instr)
  /-- an agent takes one step, and stays the agent that acts -/
  | run (a : Agent)
  /-- the vector stream of a hart performs elements of its next instruction below linear index e, no further -/
  | sweep (h : Nat) (e : Nat)
  /-- the n-th pending access of a hart is performed, after the older ones of its stream (R120, R122) -/
  | perform (h n : Nat)
  /-- an engine answers the n-th command of a hart whose answer stands ready (R101) -/
  | answer (h n : Nat)
  /-- port p has heard nothing of its peer for too long: a store there has been lost with it (R361, R364) -/
  | down (p : Nat)
  /-- the j-th element to do of the n-th vector access of a hart is performed (R222, R223) -/
  | element (h n j : Nat)
  /-- the mailbox command that runs ends (R417) -/
  | mailbox
  deriving DecidableEq, Repr

/-- An access of a walker or of a fetch: for which hart, if for one, n bytes from a key, whether it writes. -/
structure Walked where
  own   : Option Nat
  key   : Nat
  n     : Nat
  write : Bool
  deriving DecidableEq, Repr

/-- The machine. -/
structure State where
  agent  : Agent
  agenda : List Turn
  limit  : Option Nat         -- the element bound of the running sweep turn
  blocked : Bool              -- the model's own field: the step has met a wait, so it is taken back (R273, R334, R420)
  wrote  : List Nat           -- the model's own field: counters written in this step, 8 c + n for pmc n of core c, 2048 + x for energy x (R407)
  walked : List Walked        -- the model's own field: what walkers and fetches have accessed in this step (R286)
  steps  : Nat                -- steps since the cores left reset
  free   : Nat                -- the model's own field: how many free values have been drawn (assumption 3)
  mm     : MemSys
  harts  : Assoc Hart
  cores  : Assoc CoreState
  launch : LaunchUnit
  near   : Assoc NbUnit        -- by unit number, stack * 64 + column
  sched  : Vector Scheduler 4  -- by quarter
  evsel  : BitVec 12
  evbase : Assoc Word          -- by context; unlisted reads 0
  ports  : Vector Port 16
  logs   : Vector ErrorLog 10
  elsel  : Word
  links  : LinkUnit
  journal : JournalUnit
  pipes  : PipeUnit
  retire : RetireUnit
  energy : EnergyUnit
  trust  : TrustState
  deriving DecidableEq, Repr

/-- Why the machine stops. -/
inductive Fault where
  /-- raised by step when the acting agent names no hart or unit the device has; safe: no hardware state does -/
  | noSuchAgent
  /-- raised by step when an event names an agent, queue or range the device lacks; safe: no such event occurs -/
  | illFormedEvent
  deriving DecidableEq, Repr

/-- Why the model gives an instruction no meaning. -/
inductive Refusal where
  /-- raised by exec's arms for an instruction that has no meaning in the model yet; safe -/
  | notModelled (mnemonic : String)
  deriving DecidableEq, Repr

/-- What a meaning answers. -/
abbrev Out := Host.Outcome State Fault Refusal

/-- The scalar registers of a hart that has just been placed: every register zero and full, k0 = 1 (R91). -/
def ScalarRegs.initial : ScalarRegs where
  s := Vector.replicate 32 0
  k := 1
  empty := 0
  fst := 0
  srctr := 0
  replay := []
  ran := 0

/-- The vector stream of a hart that has just been placed (R91). -/
def VecState.initial : VecState where
  v := Vector.replicate 32 0
  side := Vector.replicate 32 0
  m := Vector.replicate 8 0
  len := 0
  rows := 1
  fmt := 0
  estart := 0
  vpc := 0
  vst := 0
  vdirty := 0
  g := Vector.replicate 8 0
  inst := none
  queue := []
  hqueue := []
  frozen := none
  xlats := []
  armed := false
  begun := none
  made := ⟨0, 0⟩
  kept := ⟨0, 0⟩
  enq := ⟨0, 0⟩
  done := ⟨0, 0⟩

/-- A stream with no pattern and no binding. -/
def StreamState.initial : StreamState where
  pattern := none
  bound := false
  done := 0
  ready := []

/-- A channel at hart start (R245). -/
def Channel.initial : Channel where
  layouts := none
  arrive := 0
  cfg := 0
  copies := []
  wm := 0
  flt := false
  err := false
  fault := none
  laySeen := false

/-- The trap registers at hart start (R354). -/
def TrapRegs.initial : TrapRegs where
  tvec := 0
  tpc := 0
  tvpc := 0
  telem := 0
  tcause := 0
  tval := 0
  tinfo := 0
  ppl := 0
  ts := false
  vf := false
  tva := false
  prq := false
  tfe := 0
  tscratch := 0
  tg := Vector.replicate 8 0
  ximg := 0
  xld := 0
  loaded := false

/-- The group registers at hart start (R331). -/
def GroupRegs.initial : GroupRegs where
  wo := false
  sent := false
  gsel := 0
  pend := Vector.replicate 4 none

/-- The marked loop at hart start (R289). -/
def MarkedLoop.initial : MarkedLoop where
  lpi := 0
  lpst := 0
  lpn := 0
  lpre := 0
  lpwm := 0
  init := Vector.replicate 32 0
  cur := []
  iters := []
  ends := []
  between := false
  verdict := none
  template := []
  steps := Vector.replicate 32 0
  frm := 0
  level := 0
  conf := ScalarRegs.initial
  confId := 0
  confTr := 0
  fflags := 0
  endDst := none

/-- The observation registers at reset (R413). -/
def ObserveRegs.initial : ObserveRegs where
  prot := false
  smpcfg := 0
  smpbase := 0
  smpCnt := 0
  trcfg := 0
  trbase := 0
  trdly := 0
  trdrop := 0
  stpa := 0
  stpe := 0
  watch := none
  samples := []
  traces := []
  trNum := 0
  tally := ⟨0, 0, 0, 0⟩

/-- The placement registers of an idle slot. -/
def PlaceRegs.initial : PlaceRegs where
  lvh := 0
  lgrid := 0
  lctx := 0
  lprio := 0
  ltag := 0
  gmem := 0
  plh := 0
  plstg := 0
  launch := 0
  spillOff := 0
  spillN := 0

/-- An idle hart slot. -/
def Hart.initial : Hart where
  status := .idle
  pc := 0
  plev := 0
  regs := ScalarRegs.initial
  frm := 0
  srkey := 0
  swake := 0
  checks := []
  loads := []
  nextId := 0
  vaccs := []
  loadTraps := []
  mcheck := none
  taskFaults := []
  handBack := none
  updates := []
  cmds := []
  invs := []
  l1 := []
  vec := VecState.initial
  streams := Vector.replicate 16 StreamState.initial
  binds := []
  chans := Vector.replicate 32 Channel.initial
  trap := TrapRegs.initial
  group := GroupRegs.initial
  loop := MarkedLoop.initial
  obs := ObserveRegs.initial
  place := PlaceRegs.initial

/-- A core at reset (R96, R413). -/
def CoreState.initial : CoreState where
  acc := []
  accpsn := 0
  hshare := 0x8888
  accept := 0
  cpark := false
  retired := false
  retiring := none
  pmsel := 0
  pmovf := 0
  pmc := Vector.replicate 8 0

/-- Memory with nothing listed and nothing cached. -/
def MemSys.initial : MemSys where
  cells := []
  poison := []
  seals := []
  l2 := []
  tlb := []
  ptrs := []
  ctxs := []
  mig := { old := 0, new := 0, size := 0, mw := 0, busy := false, done := false, redirect := [] }
  invs := []
  nextInv := 0

/-- A launch queue at reset (R79, R80). -/
def LaunchQueue.initial : LaunchQueue where
  entries := []
  cfg := 0
  total := 0
  refcode := 0
  ovf := false

/-- The launch unit at reset. -/
def LaunchUnit.initial : LaunchUnit where
  queues := Vector.replicate 64 LaunchQueue.initial
  resident := []
  rr := 0
  placed := 0
  held := []
  disabled := []
  failed := []

/-- Trust and bring-up at reset (R423, R425). -/
def TrustState.initial : TrustState where
  ctxbase := 0
  modes := 0
  bstSt := 1
  trained := 0
  failed := 0
  pwlim := 2600
  svn := 0
  keys := []
  meas := Vector.replicate 8 0
  cmd := 0
  status := 0
  data := []
  job := none
  halted := false
  draining := false
  waiting := []
  hostq := []
  nextTag := 0
  assists := []
  msix := []
  throttle := false

/-- A near-bank unit at reset. -/
def NbUnit.initial : NbUnit where
  jobs := []
  seq := 0
  past := []
  holds := []
  inReset := false

/-- A scheduler at reset (R314). -/
def Scheduler.initial : Scheduler where
  tasks := []
  past := []
  seq := 0
  tkage := 16
  holds := []
  turn := none
  taken := 0
  waiters := []

/-- A port at reset: down. -/
def Port.initial : Port where
  up := false
  authf := false
  peer := 0
  lanes := 0
  retry := 0
  lkinb := 0
  rxSeq := 0
  txSeq := 0
  unacked := 0
  credit := Vector.replicate 4 0
  parts := Vector.replicate 4 0
  rxEpoch := 0
  txEpoch := 0
  rxCount := 0
  odd := 0

/-- The links at reset: down, with lklive at 64 (R391). -/
def LinkUnit.initial : LinkUnit where
  lkid := 0
  lklive := 64
  hostUp := false
  hostWidth := 0

/-- A journal at reset: disabled (R391). -/
def Journal.initial : Journal where
  enabled := false
  ctx := 0
  lsz := 0
  base := 0
  fin := 0
  dw := 0
  tr := 0

/-- The journals at reset (R391). -/
def JournalUnit.initial : JournalUnit where
  jrn := Vector.replicate 16 Journal.initial
  sel := 0
  cand := Vector.replicate 4 0
  ref := false
  tail := none
  jrmbase := 0
  closed := []

/-- No pipeline. -/
def PipeUnit.initial : PipeUnit where
  pipes := []
  insts := []
  inboxes := []
  seq := 0
  nextId := 0
  hashed := []

/-- Page retirement at reset (R413). -/
def RetireUnit.initial : RetireUnit where
  rtq := []
  rtthr := 16
  fixed := []
  scrub := Vector.replicate 6 64

/-- Energy accounting at reset (R413). -/
def EnergyUnit.initial : EnergyUnit where
  ensel := 0
  counts := []
  epoch := 0
  enwt := Vector.replicate 8 0
  enstat := 0

/-- The machine right after reset: no hart placed, memory with nothing listed, the ROM about to run (R414, R423). -/
def State.reset : State where
  agent := .scalar 0
  agenda := []
  limit := none
  blocked := false
  wrote := []
  walked := []
  steps := 0
  free := 0
  mm := MemSys.initial
  harts := []
  cores := []
  launch := LaunchUnit.initial
  near := []
  sched := Vector.replicate 4 Scheduler.initial
  evsel := 0
  evbase := []
  ports := Vector.replicate 16 Port.initial
  logs := Vector.replicate 10 ⟨[], 0⟩
  elsel := 0
  links := LinkUnit.initial
  journal := JournalUnit.initial
  pipes := PipeUnit.initial
  retire := RetireUnit.initial
  energy := EnergyUnit.initial
  trust := TrustState.initial

end Sys2Proof.Machine
end

