-- ==== Sys2Proof/Machine/Mem.lean ====
section
/-!
DEFINITION. Tables, and memory as bytes: the keys of every array, reading and writing bytes in little-endian order,
poison, sealed sectors, and the lines of the L2.
-/
namespace Sys2Proof.Machine

/-! ## Tables -/

/-- The entry of key j, or d when there is none. -/
def tget {α : Type} (d : α) : Assoc α → Nat → α
  | [], _ => d
  | (k, v) :: t, j => if k = j then v else tget d t j

/-- The entry of key j, if there is one. -/
def tfind {α : Type} : Assoc α → Nat → Option α
  | [], _ => none
  | (k, v) :: t, j => if k = j then some v else tfind t j

/-- Set the entry of key j, keeping the keys in ascending order. -/
def tput {α : Type} : Assoc α → Nat → α → Assoc α
  | [], j, v => [(j, v)]
  | (k, w) :: t, j, v =>
    if j < k then (j, v) :: (k, w) :: t else if k = j then (j, v) :: t else (k, w) :: tput t j v

/-- Remove the entry of key j. -/
def tdrop {α : Type} (t : Assoc α) (j : Nat) : Assoc α := t.filter (fun e => e.1 != j)

/-- Insert a number into an ascending list without repeats. -/
def ninsert : List Nat → Nat → List Nat
  | [], j => [j]
  | k :: t, j => if j < k then j :: k :: t else if k = j then k :: t else k :: ninsert t j

/-! ## Where bytes lie

One list of cells holds every byte-addressed array. The key of a physical address is the address itself (52 bits:
stacks, host, peers, R204). The windows' arrays lie above 2 ^ 56: the lane slices and the scratchpad of each core, the
cluster memory of each cluster, the chip scratchpad (R199). -/

/-- The key of lane window offset o of a core (R200). -/
def laneKey (core o : Nat) : Nat := 2 ^ 56 + core * 2 ^ 18 + o

/-- The key of core scratchpad offset o (R201). -/
def scratchKey (core o : Nat) : Nat := 2 ^ 57 + core * 2 ^ 20 + o

/-- The key of cluster window offset o of the device's cluster number cl (R202). -/
def clusterKey (cl o : Nat) : Nat := 3 * 2 ^ 56 + cl * 2 ^ 22 + o

/-- The key of chip scratchpad offset o (R203). -/
def chipKey (o : Nat) : Nat := 2 ^ 58 + o

/-- What a byte that nothing has written reads as: zero. R91 gives it for the windows of a placed core; for every
other array it is the model's choice (assumption 2, DESIGN CHOICE, unsafe). -/
def unwritten : Byte := 0

/-! ## Bytes -/

/-- The byte at a key. -/
def byteAt (cells : List Host.Cell) (k : Nat) : Byte := tget unwritten cells k

/-- Write one byte, keeping the canonical form: ascending keys, no listed byte equal to unwritten. -/
def setByte (cells : List Host.Cell) (k : Nat) (b : Byte) : List Host.Cell :=
  if b = unwritten then tdrop cells k else tput cells k b

/-- n bytes from key k as a number, the lowest key least significant (R3). -/
def readLE (cells : List Host.Cell) (k : Nat) : Nat → Nat
  | 0 => 0
  | n + 1 => (byteAt cells k).toNat + 256 * readLE cells (k + 1) n

/-- Write the low n bytes of v from key k, the least significant byte at the lowest key (R3). -/
def writeLE (cells : List Host.Cell) (k : Nat) : Nat → Nat → List Host.Cell
  | 0, _ => cells
  | n + 1, v => writeLE (setByte cells k (BitVec.ofNat 8 v)) (k + 1) n (v / 256)

/-- The canonical form of memory: keys strictly rising, no entry that an unlisted key reads as. -/
def Memory.wf : List Host.Cell → Bool
  | [] => true
  | [c] => c.2 != unwritten
  | c :: d :: t => decide (c.1 < d.1) && (c.2 != unwritten) && Memory.wf (d :: t)

/-! ## Poison (R401)

A poisoned unit is a 64-byte line of physical memory, a 16-byte sector of it that the L2 holds, or a 64-bit word of a
window. An access that the L2 serves sees the sectors that the L2 holds, and memory for the others (assumption 69). -/

/-- The bytes of a poison unit at key k. -/
def unitSize (k : Nat) : Nat := if k < 2 ^ 52 then 64 else 8

/-- The first key of the unit of key k. -/
def unitOf (k : Nat) : Nat := k / unitSize k * unitSize k

/-- The units that the n bytes from key k touch: unit u and the ones after it, at most f of them. -/
def unitsFrom (u last : Nat) : Nat → List Nat
  | 0 => []
  | f + 1 => if last < u then [] else u :: unitsFrom (u + unitSize u) last f

/-- The units that n bytes from key k touch. -/
def unitsOf (k n : Nat) : List Nat := if n = 0 then [] else unitsFrom (unitOf k) (k + n - 1) n

/-- A line that the L2 does not hold. -/
def L2Line.absent : L2Line := ⟨0, 0, 0, 0, 0, 0, false⟩

/-- The sectors that cannot be consumed: those in error and those that hold poison. -/
def L2Line.hurt (l : L2Line) : BitVec 4 := l.bad ||| l.psn

/-- The sectors of line ln that f selects, by their first byte. -/
def sectorsOf (f : Nat → Bool) (ln : Nat) : BitVec 4 :=
  BitVec.ofNat 4 ((List.range 4).foldl (fun m i => if f (64 * ln + 16 * i) then m + 2 ^ i else m) 0)

/-- The sectors of line ln that n bytes from physical key k touch. -/
def sectorMask (ln k n : Nat) : BitVec 4 := sectorsOf (fun a => decide (k < a + 16) && decide (a < k + n)) ln

/-- The sectors of line ln that they overwrite whole. -/
def wholeMask (ln k n : Nat) : BitVec 4 := sectorsOf (fun a => decide (k ≤ a) && decide (a + 16 ≤ k + n)) ln

/-- A unit of memory or of a window is poisoned, or an L2 holds a sector that cannot be consumed. -/
def MemSys.tainted (ms : MemSys) : Bool := ms.poison != [] || ms.l2.any (fun e => e.2.hurt != 0)

/-- Some of the n bytes from key k that lie in unit u are poisoned, for an access that the L2 serves or not. -/
def poisonedUnit (ms : MemSys) (cached : Bool) (k n u : Nat) : Bool :=
  if cached && decide (u < 2 ^ 52) then
    let l := tget L2Line.absent ms.l2 (u / 64)
    let m := sectorMask (u / 64) k n
    (m &&& l.valid &&& l.hurt != 0) || (m &&& ~~~l.valid != 0 && ms.poison.contains u)
  else ms.poison.contains u

/-- Whether any of the n bytes from key k is poisoned, for an access that the L2 serves or not. -/
def poisoned (ms : MemSys) (cached : Bool) (k n : Nat) : Bool :=
  if ms.tainted then (unitsOf k n).any (poisonedUnit ms cached k n) else false

/-- Poison every unit of memory or of a window that n bytes from key k touch. -/
def addPoison (ms : MemSys) (k n : Nat) : MemSys :=
  { ms with poison := (unitsOf k n).foldl ninsert ms.poison }

/-- Poison the sectors that the L2 holds among those that n bytes from key k touch. -/
def taintSectors (ms : MemSys) (k n : Nat) : MemSys :=
  { ms with l2 := ms.l2.map (fun e => (e.1, { e.2 with psn := e.2.psn ||| (e.2.valid &&& sectorMask e.1 k n) })) }

/-- The sectors that f selects, by first byte and size, hold no error and no poison any more. -/
def L2Line.mend (f : Nat → Nat → Bool) (ln : Nat) (l : L2Line) : L2Line :=
  let m := sectorsOf (fun a => f a 16) ln
  { l with bad := l.bad &&& ~~~m, psn := l.psn &&& ~~~m }

/-- The units that f selects, by first byte and size, hold no error any more. -/
def mendUnits (f : Nat → Nat → Bool) (ms : MemSys) : MemSys :=
  if ms.tainted then
    { ms with
      poison := ms.poison.filter (fun u => !f u (unitSize u))
      l2 := ms.l2.map (fun e => (e.1, e.2.mend f e.1)) }
  else ms

/-- A store of n bytes from key k clears the poison of every unit it overwrites whole, and of no other (R121). -/
def clearPoison (ms : MemSys) (k n : Nat) : MemSys := mendUnits (fun u m => decide (k ≤ u) && decide (u + m ≤ k + n)) ms

/-- What the dirty sectors of line ln do to its unit as they go to memory: poison among them poisons it, and four good ones
overwrite it whole (R401). -/
def L2Line.writeBack (ln : Nat) (l : L2Line) (ms : MemSys) : MemSys :=
  if l.dirty &&& l.hurt != 0 then addPoison ms (64 * ln) 64
  else if l.dirty = 15 then { ms with poison := ms.poison.filter (· != 64 * ln) }
  else ms

/-! ## Sealed sectors (R216, R419)

The cells hold the plaintext of a sealed sector, and seals holds the key it was written under. A read under the same
key returns the plaintext; any other read sees the ciphertext, deciphered under the reader's key if it has one. -/

/-- The sixteen bytes of a sector as an access under key kopt sees them. -/
def sectorView (ms : MemSys) (kopt : Option (BitVec 512)) (sec : Nat) : BitVec 128 :=
  let p := BitVec.ofNat 128 (readLE ms.cells (16 * sec) 16)
  match tfind ms.seals sec, kopt with
  | none, none => p
  | none, some k => Config.xtsDecrypt k sec p
  | some k, none => Config.xtsEncrypt k sec p
  | some k, some k' => if k = k' then p else Config.xtsDecrypt k' sec (Config.xtsEncrypt k sec p)

/-- The byte at key k as an access under kopt sees it. -/
def byteView (ms : MemSys) (kopt : Option (BitVec 512)) (k : Nat) : Nat :=
  (sectorView ms kopt (k / 16)).toNat / 256 ^ (k % 16) % 256

/-- n bytes as an access under kopt sees them. -/
def readView (ms : MemSys) (kopt : Option (BitVec 512)) (k : Nat) : Nat → Nat
  | 0 => 0
  | n + 1 => byteView ms kopt k + 256 * readView ms kopt (k + 1) n

/-- Write one byte through kopt: the rest of its sector keeps the value an access under kopt sees. -/
def writeViewByte (ms : MemSys) (kopt : Option (BitVec 512)) (k : Nat) (b : Nat) : MemSys :=
  let sec := k / 16
  let old := (sectorView ms kopt sec).toNat
  let lo := old % 256 ^ (k % 16)
  let hi := old / 256 ^ (k % 16 + 1)
  let new := lo + (b % 256) * 256 ^ (k % 16) + hi * 256 ^ (k % 16 + 1)
  { ms with
    cells := writeLE ms.cells (16 * sec) 16 new
    seals := match kopt with
      | none => tdrop ms.seals sec
      | some kk => tput ms.seals sec kk }

/-- Write n bytes through kopt. -/
def writeView (ms : MemSys) (kopt : Option (BitVec 512)) (k : Nat) : Nat → Nat → MemSys
  | 0, _ => ms
  | n + 1, v => writeView (writeViewByte ms kopt k (v % 256)) kopt (k + 1) n (v / 256)

/-- Read n bytes from key k. -/
def memRead (ms : MemSys) (kopt : Option (BitVec 512)) (k n : Nat) : Nat :=
  if kopt = none && ms.seals = [] then readLE ms.cells k n else readView ms kopt k n

/-- Write n bytes at key k, with what the store does to poison. -/
def memWriteOne (ms : MemSys) (kopt : Option (BitVec 512)) (k n v : Nat) : MemSys :=
  clearPoison
    (if kopt = none && ms.seals = [] then { ms with cells := writeLE ms.cells k n v } else writeView ms kopt k n v) k n

/-- Which bytes of a write of n bytes at key k land a second time: those that lie in a region that migrates, below the
watermark. The key of their copy, how many they are, and how many bytes of the write come before them (R365, R405). -/
def mirrorOf (ms : MemSys) (k n : Nat) : Option (Nat × Nat × Nat) :=
  let o := ms.mig.old.toNat
  let a := max k o
  let e := min (k + n) (o + ms.mig.mw)
  if (ms.mig.busy || ms.mig.done) && decide (a < e) then some (ms.mig.new.toNat + (a - o), e - a, a - k) else none

/-- Write n bytes at key k, mirrored while its region migrates. -/
def memWrite (ms : MemSys) (kopt : Option (BitVec 512)) (k n v : Nat) : MemSys :=
  match mirrorOf ms k n with
  | none => memWriteOne ms kopt k n v
  | some (k', n', d) => memWriteOne (memWriteOne ms kopt k n v) kopt k' n' (v / 256 ^ d)

/-- A write of n bytes at key k, which the L2 has taken or not, leaves its units poisoned, in both copies while its region
migrates (R250, R301, R405). -/
def poisonWrite (ms : MemSys) (cached : Bool) (k n : Nat) : MemSys :=
  let m1 := if cached then taintSectors ms k n else addPoison ms k n
  match mirrorOf ms k n with
  | none => m1
  | some (k', n', _) => addPoison (taintSectors m1 k' n') k' n'

/-! ## Lines of the L2 (R207, R208, R210) -/

/-- Whether a physical address is cached at a home L2 when the page allows it (R204): stack or host memory. -/
def cachedPa (pa : Nat) : Bool := decide (pa < 2 ^ 52) && decide (pa < 0x2000000000000)

/-- Whether a physical address is stack memory (R204). -/
def isStackPa (pa : Nat) : Bool := decide (pa < 0x6000000000)

/-- Whether a physical address is host memory (R204). -/
def isHostPa (pa : Nat) : Bool := decide (0x1000000000000 ≤ pa) && decide (pa < 0x2000000000000)

/-- The port of a peer address, if it is one (R204). -/
def peerOf (pa : Nat) : Option Nat :=
  if 0x2000000000000 ≤ pa ∧ pa < 0x2000000000000 + 16 * 2 ^ 40 then some ((pa - 0x2000000000000) / 2 ^ 40) else none

/-- Whether a physical address has a target (R204). -/
def hasTarget (pa : Nat) : Bool := isStackPa pa || isHostPa pa || (peerOf pa).isSome

/-- The stack of a stack address (R205). -/
def stackOf (pa : Nat) : Nat := (pa / 4096 % 8) ^^^ (pa / 2 ^ 20 % 8)

/-- The home quarter of a stack or host address (R205). -/
def homeQuarter (pa : Nat) : Nat := if isStackPa pa then stackOf pa / 2 else pa / 4096 % 4

end Sys2Proof.Machine
end

