-- ==== Sys2Proof/Machine/Walk.lean ====
section
/-!
DEFINITION. Reaching memory: the classes of addresses, the context table, the page walk, the checks of an access, and
the store that invalidates L1 copies (R197 to R220, R429).
-/
namespace Sys2Proof.Machine

/-! ## Free values and cores -/

/-- Draw a free Boolean (assumption 3). -/
def drawBool (s : State) : Bool × State := (Config.freeBool s.free, { s with free := s.free + 1 })

/-- Draw a free word (assumption 3). -/
def drawWord (s : State) : Word × State := (Config.freeWord s.free, { s with free := s.free + 1 })

/-- The hart of a number. -/
def State.hart (s : State) (h : Nat) : Hart := tget Hart.initial s.harts h

/-- Replace a hart. -/
def State.setHart (s : State) (h : Nat) (H : Hart) : State := { s with harts := tput s.harts h H }

/-- The core of a number. -/
def State.core (s : State) (c : Nat) : CoreState := tget CoreState.initial s.cores c

/-- Replace a core. -/
def State.setCore (s : State) (c : Nat) (C : CoreState) : State := { s with cores := tput s.cores c C }

/-- Replace the memory system. -/
def State.setMem (s : State) (ms : MemSys) : State := { s with mm := ms }

/-- The physical core of a hart (R87). -/
def coreOf (h : Nat) : Nat := h / 4

/-- The cluster of a core, numbered over the device (R87). -/
def clusterOf (c : Nat) : Nat := c / 8

/-- The quarter of a core (R87). -/
def quarterOf (c : Nat) : Nat := c / 64

/-! ## The classes of addresses (R197) -/

/-- The class of an effective address. -/
inductive Space where
  | translated
  | lane
  | scratch
  | cluster
  | chip
  | hole
  | outside
  deriving DecidableEq, Repr

/-- The class of the address whose value is a (R197). -/
def spaceOf (a : Nat) : Space :=
  if 2 ^ 56 ≤ a then .outside
  else if a < 0xFFF00000000000 then .translated
  else if a < 0xFFF00000040000 then .lane
  else if a < 0xFFF10000000000 then .hole
  else if a < 0xFFF10000100000 then .scratch
  else if a < 0xFFF20000000000 then .hole
  else if a < 0xFFF20000400000 then .cluster
  else if a < 0xFFF30000000000 then .hole
  else if a < 0xFFF30008000000 then .chip
  else .hole

/-- Which side of a core an access comes from, and with it which TLB serves it (R217, R220): fetch and the scalar stream, a
vector memory instruction, which holds the translations it uses (R218), or an engine, the queue or the launch unit. -/
inductive Side where
  | scalar
  | vector
  | engine
  deriving DecidableEq, Repr

/-- Whose access it is: the core whose windows it sees, the context it translates in, its privilege level, the hart whose
own L1 copy a store updates, its side. -/
structure Who where
  core  : Nat
  ctx   : Nat
  level : BitVec 2
  hart  : Option Nat
  side  : Side
  deriving DecidableEq, Repr

/-- The side of a hart that acts. -/
def Agent.side (a : Agent) (h : Nat) : Side :=
  match a with
  | .scalar _ => .scalar
  | .vector g => if g = h then .vector else .engine
  | _ => .engine

/-- The accesses of a hart. -/
def State.who (s : State) (h : Nat) : Who :=
  ⟨coreOf h, (s.hart h).place.lctx.toNat, (s.hart h).plev, some h, s.agent.side h⟩

/-- The kind of an access (R215, R429). -/
inductive Acc where
  | read
  | write
  | amo
  | fetch
  deriving DecidableEq, Repr

/-! ## Functions handed to the host (R421, R422) -/

/-- modes hands function n to the host (R421). -/
def State.handsOver (s : State) (n : Nat) : Bool := s.trust.modes.getLsbD n

/-- A function handed to the host has an event for it, which HOST_ASSIST_EVENT raises (R422). -/
def wantHost (kind : Nat) (detail : BitVec 192) (s : State) : State :=
  { s with trust := { s.trust with waiting := s.trust.waiting ++ [⟨kind, 0, detail⟩] } }

/-- The agent whose event the step would raise waits while the event queue is full: the step is taken back (R422). -/
def wantRoom (s : State) : State := if 64 ≤ s.trust.hostq.length then { s with blocked := true } else s

/-- The fault for which an agent waits until the host serves it (R422). -/
def State.assistOf (s : State) (agent : Nat) : Option Assist := s.trust.assists.find? (fun a => a.agent == agent)

/-- Agents that f selects wait for the host no longer: the instruction that faulted is gone. -/
def forgetAssists (f : Nat → Bool) (s : State) : State :=
  { s with trust := { s.trust with assists := s.trust.assists.filter (fun a => !f a.agent) } }

/-- The number of an agent, by which the host and the model name it: the streams of a hart, a channel of it, a near-bank
unit, a task of a quarter (R422; the numbers are assumption 58). -/
def streamAgent (h k : Nat) : Nat := 4 * h + k
def copyAgent (h c : Nat) : Nat := 4096 + 32 * h + c
def nearAgent (u : Nat) : Nat := 2 ^ 18 + u
def taskAgent (q seq : Nat) : Nat := 2 ^ 20 + q * 2 ^ 32 + seq

/-! ## Error logs (R403) -/

/-- Enter an error in the log of a level: merged with the newest entry of the same type and address, and replacing the
oldest entry of a full log (R403). -/
def enterLog (s : State) (level : Nat) (e : LogEntry) : State :=
  if hl : level < 10 then
    let l := s.logs[level]
    let l' : ErrorLog :=
      match l.entries.getLast? with
      | some n =>
        if n.type = e.type ∧ n.addr = e.addr then
          { l with entries := l.entries.dropLast ++ [{ n with count := min 0xFFFF (n.count + 1) }] }
        else if l.entries.length = 64 then ⟨l.entries.drop 1 ++ [e], min 0xFFFF (l.ovf + 1)⟩
        else { l with entries := l.entries ++ [e] }
      | none => { l with entries := l.entries ++ [e] }
    { s with logs := s.logs.set level l' }
  else s

/-- The detail of a log entry, for the host (R421). -/
def logDetail (level : Nat) (e : LogEntry) : BitVec 192 :=
  BitVec.ofNat 192 (e.addr.toNat + level * 2 ^ 56 + e.type * 2 ^ 64 + e.ctx * 2 ^ 72 + e.src * 2 ^ 128)

/-- An error is logged; types 1, 3, 5 and 7 go to the host too when it recovers errors (R403, R421). -/
def logError (s : State) (level : Nat) (e : LogEntry) : State :=
  let s1 := enterLog s level e
  if s.handsOver 4 && [1, 3, 5, 7].contains e.type then wantHost 5 (logDetail level e) s1 else s1

/-! ## Page retirement (R404) -/

/-- Queue the page of a stack address for retirement, or hand it to the host; a full queue drops it (R404, R421). -/
def queuePage (pa : Nat) (s : State) : State :=
  let page := pa / 4096 * 4096
  if !isStackPa pa then s
  else if s.handsOver 2 then wantHost 3 (BitVec.ofNat 192 page) s
  else
    let w := BitVec.ofNat 64 page
    if s.retire.rtq.contains w then s
    else
      let full := decide (16 ≤ s.retire.rtq.length)
      let s1 := if full then s else { s with retire := { s.retire with rtq := s.retire.rtq ++ [w] } }
      logError s1 6 ⟨BitVec.ofNat 56 page, 12, 0, 0, 1, if full then 1 else 0⟩

/-! ## Lines of the L1s and the L2 (R206 to R208, R210) -/

/-- Drop a line from the L1 of every hart in the clusters of a presence mask, but not the one that stores (R208). -/
def dropL1 (ln : Nat) (mask : BitVec 8) (own : Option Nat) (harts : Assoc Hart) : Assoc Hart :=
  if mask = 0 then harts
  else harts.map (fun e =>
    if mask.getLsbD (e.1 / 32 % 8) && own != some e.1 then (e.1, { e.2 with l1 := e.2.l1.filter (· != ln) }) else e)

/-- Sector i of a line leaves the L2 with an uncorrectable error: a clean one is dropped, the page of a dirty one is queued
(R401). -/
def leaveBad (ln i : Nat) (line : L2Line) (s : State) : State :=
  let a := 64 * ln + 16 * i
  if line.dirty.getLsbD i then queuePage a (logError s 4 ⟨BitVec.ofNat 56 a, 3, 0, 0, 1, 0⟩)
  else logError s 4 ⟨BitVec.ofNat 56 a, 0, 0, 0, 1, 0⟩

/-- A line leaves its L2: its dirty sectors go to memory, and the L1 copies that its mask names leave with it. -/
def evictLine (ln : Nat) (line : L2Line) (s : State) : State :=
  let s1 := { s with harts := dropL1 ln line.presence none s.harts }
  let s2 := s1.setMem (line.writeBack ln { s1.mm with l2 := tdrop s1.mm.l2 ln })
  (List.range 4).foldl (fun t i => if line.bad.getLsbD i then leaveBad ln i line t else t) s2

/-- The lines of the set of a line: 64 MiB in 16 ways give a quarter 65,536 sets, chosen by the low bits of the line number
(R207; the choice of the bits is assumption 63). -/
def l2Set (ln : Nat) (ms : MemSys) : List (Nat × L2Line) :=
  ms.l2.filter (fun e => e.1 % 65536 == ln % 65536 && homeQuarter (64 * e.1) == homeQuarter (64 * ln))

/-- The key slot that a line is tagged with, once an access through a page of key slot n has touched it: a sealed line keeps its
tag as long as it is held (R207). -/
def L2Line.tag (l : L2Line) (n : Nat) : Nat := if l.valid = 0 ∨ l.slot = 0 then n else l.slot

/-- Put a line into its home L2; one that comes new into a full set evicts one of the 16, a free choice (R207). -/
def putLine (ln : Nat) (line : L2Line) (s : State) : State :=
  let put (t : State) : State := t.setMem { t.mm with l2 := tput t.mm.l2 ln line }
  if (tfind s.mm.l2 ln).isSome || decide ((l2Set ln s.mm).length < 16) then put s
  else
    let (w, s1) := drawWord s
    let v := (l2Set ln s1.mm).getD (w.toNat % 16) (0, L2Line.absent)
    put (evictLine v.1 v.2 s1)

/-- The sectors of m that a line does not hold come from memory: they hold poison where their unit does (R207, R401). -/
def fillPsn (ln : Nat) (line : L2Line) (m : BitVec 4) (ms : MemSys) : BitVec 4 :=
  line.psn ||| (if ms.poison.contains (64 * ln) then m &&& ~~~line.valid else 0)

/-- What a store does to a line it touches: it invalidates the L1 copies but its own hart's, marks the sectors dirty at the
home L2, where a sector overwritten whole is a good one, and tags the line (R121, R207, R208, R210). -/
def touchLine (ln k n slot : Nat) (own : Option Nat) (s : State) : State :=
  let line := tget L2Line.absent s.mm.l2 ln
  let s1 := { s with harts := dropL1 ln line.presence own s.harts }
  let m := sectorMask ln k n
  let mine : BitVec 8 := match own with
    | some h => if (s1.hart h).l1.contains ln then 1#8 <<< (clusterOf (coreOf h) % 8) else 0
    | none => 0
  let good := ~~~wholeMask ln k n
  putLine ln
    ⟨line.valid ||| m, line.dirty ||| m, line.bad &&& good, fillPsn ln line m s.mm &&& good, mine, line.tag slot, isHostPa k⟩ s1

/-- What a read brings into its home L2: the sectors it needs (R207). -/
def readLine (ln k n slot : Nat) (s : State) : State :=
  let line := tget L2Line.absent s.mm.l2 ln
  let m := sectorMask ln k n
  if line.valid &&& m = m then s
  else
    putLine ln { line with
      valid := line.valid ||| m, psn := fillPsn ln line m s.mm, slot := line.tag slot } s

/-- f on the lines ln to last, m of them at most. -/
def linesFrom (f : Nat → State → State) (last : Nat) : Nat → Nat → State → State
  | 0, _, s => s
  | m + 1, ln, s => if last < ln then s else linesFrom f last m (ln + 1) (f ln s)

/-- f on the lines that n bytes from key k touch. -/
def onLines (f : Nat → State → State) (k n : Nat) (s : State) : State :=
  if n = 0 then s else linesFrom f ((k + n - 1) / 64) (n / 64 + 2) (k / 64) s

/-- A store touches its lines. -/
def touchLines (k n slot : Nat) (own : Option Nat) (s : State) : State := onLines (fun ln => touchLine ln k n slot own) k n s

/-- A read brings in its sectors. -/
def readLines (k n slot : Nat) (s : State) : State := onLines (fun ln => readLine ln k n slot) k n s

/-! ## Banks in reset (R273) -/

/-- The near-bank unit that owns a stack address (R260). -/
def unitAt (pa : Nat) : Nat := stackOf pa * 64 + pa / 2 ^ 15 % 64

/-- A channel is in reset (R273). -/
def State.resetting (s : State) : Bool := s.near.any (fun e => e.2.inReset)

/-- A stack address lies in a bank of a channel in reset (R273). -/
def State.bankHeld (s : State) (pa : Nat) : Bool :=
  isStackPa pa && s.near.any (fun e => e.2.inReset && e.1 / 8 == unitAt pa / 8)

/-- An access to n bytes at key k: in a bank of a channel in reset it makes its agent wait, so the step notes it (R273). -/
def holdBanks (k n : Nat) (s : State) : State :=
  if s.resetting && (s.bankHeld k || s.bankHeld (k + n - 1)) then { s with blocked := true } else s

/-- A walker or a fetch accesses n bytes at key k on behalf of w: its bank may be in reset (R273), and the replays that the access
conflicts with depart as the step ends (R286). -/
def walkAccess (own : Option Nat) (k n : Nat) (write : Bool) (s : State) : State :=
  let s1 := holdBanks k n s
  { s1 with walked := s1.walked ++ [⟨own, k, n, write⟩] }

/-! ## The context table (R212) -/

/-- Where the context table lies. -/
def State.ctxTable (s : State) : Nat := s.trust.ctxbase.toNat / 4096 % 2 ^ 40 * 4096

/-- The context's entry, read from the table on first use and kept until an invalidation. -/
def ctxEntry (own : Option Nat) (ctx : Nat) (s : State) : BitVec 256 × State :=
  match tfind s.mm.ctxs ctx with
  | some e => (e, s)
  | none =>
    let e := BitVec.ofNat 256 (memRead s.mm none (s.ctxTable + 32 * ctx) 32)
    (e, (walkAccess own (s.ctxTable + 32 * ctx) 32 false s).setMem { s.mm with ctxs := tput s.mm.ctxs ctx e })

/-- The n bits of an entry from bit lo. -/
def ebits {w : Nat} (e : BitVec w) (lo n : Nat) : Nat := e.toNat / 2 ^ lo % 2 ^ n

/-- The context is open and its entry's zero fields are zero (R212). -/
def ctxOpen (e : BitVec 256) : Bool :=
  ebits e 64 1 == 1 && ebits e 144 112 == 0 && ebits e 65 31 == 0 && ebits e 52 12 == 0 && ebits e 0 12 == 0

/-- The context's key slot. -/
def ctxKey (e : BitVec 256) : Nat := ebits e 128 16

/-- Whether the context owns chip scratchpad block b (R203). -/
def ctxOwns (e : BitVec 256) (b : Nat) : Bool :=
  decide (ebits e 96 16 + ebits e 112 16 ≤ 2048) && decide (ebits e 96 16 ≤ b) &&
    decide (b < ebits e 96 16 + ebits e 112 16)

/-! ## Page table entries (R213, R214) -/

/-- The bytes of a page of a size code (R213). -/
def pageBytes (code : Nat) : Nat :=
  match code with
  | 0 => 2 ^ 12
  | 1 => 2 ^ 16
  | 2 => 2 ^ 21
  | 3 => 2 ^ 25
  | 4 => 2 ^ 28
  | 5 => 2 ^ 31
  | _ => 2 ^ 34

/-- Whether a leaf of the size code may stand at the level (R213). -/
def sizeAt (level code : Nat) : Bool :=
  match level with
  | 0 => code == 0 || code == 1
  | 1 => code == 2 || code == 3 || code == 4
  | 2 => code == 5 || code == 6
  | _ => false

/-- The physical address of an entry's page or next table. -/
def ptePa (p : BitVec 64) : Nat := ebits p 12 40 * 4096

/-- A valid entry is malformed at the level (R214). -/
def pteMalformed (level : Nat) (p : BitVec 64) : Bool :=
  ebits p 52 4 != 0 || ebits p 2 1 != 0 || ebits p 56 3 == 7 ||
  (if ebits p 1 1 == 0 then ebits p 56 8 != 0 || ebits p 3 6 != 0 || level == 0
   else !sizeAt level (ebits p 56 3) || ptePa p % pageBytes (ebits p 56 3) != 0 || !hasTarget (ptePa p) ||
     !hasTarget (ptePa p + pageBytes (ebits p 56 3) - 1) || (ebits p 61 1 == 1 && !isStackPa (ptePa p)) ||
     (ebits p 60 1 == 1 && (peerOf (ptePa p)).isSome))

/-- The virtual address bits above the granule of an entry of the level. -/
def vaPrefix (level va : Nat) : Nat := va / 2 ^ (12 + 9 * level)

/-- The index of a virtual address in a table of the level (R213). -/
def vaIndex (level va : Nat) : Nat := vaPrefix level va % (if level = 4 then 256 else 512)

/-- How a walk ends. -/
inductive Walk where
  | leaf (pte : BitVec 64) (addr : Nat)
  | absent
  | malformed
  deriving DecidableEq, Repr

/-- A walker's cached entry stands on the path of an address at a level. -/
def PtrEntry.onPath (e : PtrEntry) (ctx level va : Nat) : Bool := e.ctx == ctx && e.level == level && e.pre == vaPrefix level va

/-- The pointer entry that the walker of quarter q uses at a level: the one in memory, or the one it has cached, where the two
differ, by free choice (R217). -/
def pointerEntry (q ctx level va table : Nat) (s : State) : BitVec 64 × State :=
  let fresh := BitVec.ofNat 64 (memRead s.mm none (table + 8 * vaIndex level va) 8)
  match s.mm.ptrs.find? (fun e => e.place == q && e.onPath ctx level va) with
  | some c =>
    if c.pte = fresh then (fresh, s)
    else
      let (b, s') := drawBool s
      (if b then c.pte else fresh, s')
  | none => (fresh, s)

/-- The walker of quarter q keeps no pointer entry there: one of its walks has ended at that level (R355). -/
def dropPointer (q ctx level va : Nat) (s : State) : State :=
  s.setMem { s.mm with ptrs := s.mm.ptrs.filter (fun e => !(e.place == q && e.onPath ctx level va)) }

/-- Keep a pointer entry in the cache of the walker of quarter q. -/
def keepPointer (q ctx level va : Nat) (p : BitVec 64) (s : State) : State :=
  let s1 := dropPointer q ctx level va s
  s1.setMem { s1.mm with ptrs := ⟨q, ctx, level, vaPrefix level va, p⟩ :: s1.mm.ptrs }

/-- A walker reads the entry at an address, through its home L2 (R213, R273, R286). -/
def entryRead (own : Option Nat) (addr : Nat) (s : State) : State :=
  let s1 := walkAccess own addr 8 false s
  if cachedPa addr then readLines addr 8 0 s1 else s1

/-- The walker of the quarter of w walks from a table at a level downwards (R213, R214). -/
def walkFrom (w : Who) (va : Nat) : Nat → Nat → State → Walk × State
  | 0, table, s0 =>
    let addr := table + 8 * vaIndex 0 va
    let s := entryRead w.hart addr s0
    let p := BitVec.ofNat 64 (memRead s.mm none addr 8)
    if ebits p 0 1 = 0 then (.absent, s)
    else if pteMalformed 0 p then (.malformed, s)
    else (.leaf p addr, s)
  | level + 1, table, s =>
    let addr := table + 8 * vaIndex (level + 1) va
    let (p, s1) := pointerEntry (quarterOf w.core) w.ctx (level + 1) va table (entryRead w.hart addr s)
    if ebits p 0 1 = 0 then (.absent, dropPointer (quarterOf w.core) w.ctx (level + 1) va s1)
    else if pteMalformed (level + 1) p then (.malformed, dropPointer (quarterOf w.core) w.ctx (level + 1) va s1)
    else if ebits p 1 1 = 1 then (.leaf p addr, s1)
    else walkFrom w va level (ptePa p) (keepPointer (quarterOf w.core) w.ctx (level + 1) va p s1)

/-- The TLB of an access in its core (R217): the one of fetch and scalar accesses, or the one of the vector side and the
engines. -/
def Who.tlb (w : Who) (kind : Acc) : Nat := 2 * w.core + (if w.side = .scalar ∨ kind = .fetch then 0 else 1)

/-- The shared TLB of its quarter. -/
def Who.quarterTlb (w : Who) : Nat := 2048 + quarterOf w.core

/-- How many entries a TLB holds (R217). -/
def tlbRoom (place : Nat) : Nat := if 2048 ≤ place then 8192 else if place % 2 = 0 then 64 else 256

/-- An entry covers an address of a context. -/
def TlbEntry.covers (e : TlbEntry) (ctx va : Nat) : Bool := e.ctx == ctx && decide (e.base ≤ va) && decide (va < e.base + e.size)

/-- The leaf of a TLB that covers an address, if there is one (R217). -/
def tlbAt (place ctx va : Nat) (ms : MemSys) : Option TlbEntry := ms.tlb.find? (fun e => e.place == place && e.covers ctx va)

/-- The cached leaves that can serve an access. -/
def tlbFind (w : Who) (kind : Acc) (va : Nat) (ms : MemSys) : List TlbEntry :=
  (tlbAt (w.tlb kind) w.ctx va ms).toList ++ (tlbAt w.quarterTlb w.ctx va ms).toList

/-- The entry of a leaf. -/
def leafEntry (place ctx va : Nat) (p : BitVec 64) (addr : Nat) : TlbEntry :=
  let size := pageBytes (ebits p 56 3)
  ⟨place, ctx, va / size * size, size, p, addr⟩

/-- Keep a leaf in a TLB, in place of the ones there that cover the same address; in a full TLB it takes the place of one of
the others, a free choice (R217). -/
def tlbKeep (place ctx va : Nat) (p : BitVec 64) (addr : Nat) (s : State) : State :=
  let kept := s.mm.tlb.filter (fun e => !(e.place == place && e.covers ctx va))
  let here := kept.filter (fun e => e.place == place)
  if here.length < tlbRoom place then s.setMem { s.mm with tlb := leafEntry place ctx va p addr :: kept }
  else
    let (w, s1) := drawWord s
    let out := here[w.toNat % here.length]?
    s1.setMem { s1.mm with tlb := leafEntry place ctx va p addr :: kept.filter (fun e => some e != out) }

/-- A walk that faults leaves no leaf for the address in any TLB (R355). -/
def dropLeaf (ctx va : Nat) (s : State) : State :=
  s.setMem { s.mm with tlb := s.mm.tlb.filter (fun e => !e.covers ctx va) }

/-- A walk that faults leaves nothing cached on the path of the address, neither the leaf nor what the walker of the quarter of w keeps
(R355). -/
def dropPath (w : Who) (va : Nat) (s : State) : State :=
  (List.range 4).foldl (fun t n => dropPointer (quarterOf w.core) w.ctx (n + 1) va t) (dropLeaf w.ctx va s)

/-- Without its A and D bits. -/
def pteCore (p : BitVec 64) : BitVec 64 := p &&& ~~~(0x180#64)

/-- The outcome of an operation that may fault: the cause, the tval and the state the fault leaves. -/
inductive Res (α : Type) where
  | ok (a : α) (s : State)
  | trap (cause : Nat) (tval : Word) (s : State)

/-- A walk finds what a cached leaf holds. -/
def Walk.agrees (r : Walk) (c : TlbEntry) : Bool :=
  match r with
  | .leaf p _ => pteCore p == pteCore c.pte
  | _ => false

/-- The cached leaf that an access uses: one that a walk would find again, or another by free choice; none when it walks
(R217). Where the cached and the new entry differ in A and D alone, the access uses the cached one (assumption 79, DESIGN
CHOICE). -/
def pickLeaf (r : Walk) : List TlbEntry → State → Option TlbEntry × State
  | [], s => (none, s)
  | c :: t, s =>
    if r.agrees c then (some c, s)
    else
      let (b, s1) := drawBool s
      if b then (some c, s1) else pickLeaf r t s1

/-- The leaf that translates va: a cached leaf, or a walk, which leaves it in both TLBs (R213, R214, R217). A walk that
faults caches no leaf (R355). Of the walk that only a free choice compares, nothing stays. -/
def findLeaf (w : Who) (kind : Acc) (va root : Nat) (s : State) : Res (BitVec 64 × Nat) :=
  let (r, s1) := walkFrom w va 4 root s
  match pickLeaf r (tlbFind w kind va s.mm) s1 with
  | (some c, s2) =>
    let s3 := { s with free := s2.free }
    .ok (c.pte, c.addr) (if c.place = w.tlb kind then s3 else tlbKeep (w.tlb kind) w.ctx va c.pte c.addr s3)
  | (none, s2) =>
    match r with
    | .leaf p addr => .ok (p, addr) (tlbKeep w.quarterTlb w.ctx va p addr (tlbKeep (w.tlb kind) w.ctx va p addr s2))
    | .absent => .trap 0x06 (BitVec.ofNat 64 va) (dropLeaf w.ctx va s2)
    | .malformed =>
      .trap 0x06 (BitVec.ofNat 64 va) (logError (dropLeaf w.ctx va s2) 7 ⟨BitVec.ofNat 56 va, 6, w.ctx, w.core, 1, 0⟩)

/-- The watched instruction counts a miss of the TLB of its core (R409; assumption 66). -/
def Hart.missed (H : Hart) (miss : Bool) : Hart :=
  if miss then { H with obs := { H.obs with watch := H.obs.watch.map (fun x => { x with misses := x.misses + 1 }) } } else H

/-- The leaf of an access of a vector memory instruction: the one that the instruction already holds for the page, or one
it finds and holds from now on (R218). -/
def leafFor (w : Who) (kind : Acc) (va root : Nat) (s : State) : Res (BitVec 64 × Nat) :=
  match w.side, w.hart with
  | .vector, some h =>
    if kind = .fetch then findLeaf w kind va root s
    else
      match ((s.hart h).vec.xlats).find? (fun e => e.covers w.ctx va) with
      | some e => .ok (e.pte, e.addr) s
      | none =>
        match findLeaf w kind va root s with
        | .trap c t s1 => .trap c t s1
        | .ok (p, addr) s1 =>
          let H := (s1.hart h).missed (tlbAt (w.tlb kind) w.ctx va s.mm).isNone
          .ok (p, addr) (s1.setHart h { H with vec := { H.vec with
            xlats := leafEntry (w.tlb kind) w.ctx va p addr :: H.vec.xlats } })
  | _, _ => findLeaf w kind va root s

/-- The page permits the access (R215). -/
def permits (p : BitVec 64) (kind : Acc) (level : BitVec 2) : Bool :=
  let rd := ebits p 3 1 == 1
  let w := ebits p 4 1 == 1
  let x := ebits p 5 1 == 1
  let user := ebits p 6 1 == 1 && level == 0
  !user && match kind with
    | .read => rd
    | .write => w
    | .amo => rd && w
    | .fetch => x

/-- The bits that an access needs set in its leaf (R215). -/
def Acc.marks (kind : Acc) : BitVec 64 := if kind = .write ∨ kind = .amo then 0x180#64 else 0x80#64

/-- The cached leaves read from the entry at addr that cover an address, with marks set. -/
def markEntries (ctx va addr : Nat) (m : BitVec 64) (l : List TlbEntry) : List TlbEntry :=
  l.map (fun e => if e.covers ctx va && e.addr == addr then { e with pte := e.pte ||| m } else e)

/-- Set A, and D for a write, in the entry in memory, an atomic update of the walker at device scope, and in the cached
leaves, when the entry used lacks them (R215). -/
def markUsed (w : Who) (va : Nat) (p : BitVec 64) (addr : Nat) (kind : Acc) (s : State) : State :=
  let m := kind.marks
  if p &&& m = m then s
  else
    let old := BitVec.ofNat 64 (memRead s.mm none addr 8)
    let s1 := (walkAccess w.hart addr 8 true s).setMem (memWrite s.mm none addr 8 (old ||| m).toNat)
    let s2 := if cachedPa addr then touchLines addr 8 0 none s1 else s1
    let s3 := s2.setMem { s2.mm with tlb := markEntries w.ctx va addr m s2.mm.tlb }
    match w.side, w.hart with
    | .vector, some h =>
      let H := s3.hart h
      s3.setHart h { H with vec := { H.vec with xlats := markEntries w.ctx va addr m H.vec.xlats } }
    | _, _ => s3

/-- A translation: the physical address, the entry and the context's entry. -/
structure Xlat where
  pa  : Nat
  pte : BitVec 64
  ent : BitVec 256
  deriving DecidableEq, Repr

/-- A port is up to the peer that port p reaches (R361, R364). -/
def State.peerUp (s : State) (p : Nat) : Bool :=
  if hp : p < 16 then s.ports.toList.any (fun q => q.up && q.peer == s.ports[p].peer) else false

/-- The reduced service (R423). -/
def State.reduced (s : State) : Bool := s.trust.bstSt == 2

/-- The page is sealed (R216). -/
def Xlat.sealed (x : Xlat) : Bool := ebits x.pte 61 1 == 1

/-- A line of the L2 that the n bytes touch is tagged with another key slot than the context's (R207). -/
def Xlat.clash (x : Xlat) (n : Nat) (s : State) : Bool :=
  (List.range ((x.pa + n - 1) / 64 - x.pa / 64 + 1)).any (fun i =>
    let tag := (tget L2Line.absent s.mm.l2 (x.pa / 64 + i)).slot
    tag != 0 && tag != ctxKey x.ent)

/-- The page refuses an access to n bytes: a peer that no port reaches (R364); in the reduced service stack memory, and host
memory with it, which is reached through CXL.cache (R423); a sealed page whose key slot is empty (R419); a line of the L2
under another key slot (R207). -/
def Xlat.refused (x : Xlat) (n : Nat) (s : State) : Bool :=
  (peerOf x.pa).any (fun p => !s.peerUp p) || (s.reduced && (peerOf x.pa).isNone) ||
    (x.sealed && (tfind s.trust.keys (ctxKey x.ent)).isNone) || x.clash n s

/-- The bytes of an access of n bytes at va that lie in the page of the entry p. -/
def inPage (p : BitVec 64) (va n : Nat) : Nat := min n (pageBytes (ebits p 56 3) - va % pageBytes (ebits p 56 3))

/-- The page of an address: the context entry, whose key slot must exist, and the walk; with it, where its leaf was read (R212 to
R214, R419). -/
def findPage (w : Who) (va : Nat) (kind : Acc) (s : State) : Res (Xlat × Nat) :=
  let (ent, s1) := ctxEntry w.hart w.ctx s
  if ctxOpen ent && decide (ctxKey ent < 1024) then
    match leafFor w kind va (ebits ent 12 40 * 4096) s1 with
    | .trap c t s2 => .trap c t s2
    | .ok (p, addr) s2 => .ok (⟨ptePa p + va % pageBytes (ebits p 56 3), p, ent⟩, addr) s2
  else .trap 0x07 (BitVec.ofNat 64 va) s1

/-- A key command that runs changes slot k, so an access that needs the slot waits (R420). -/
def TrustState.changes (T : TrustState) (k : Nat) : Bool :=
  match T.job with
  | some (.keyload v _ _) => v.toNat % 1024 == k
  | some (.keyclr v) => v.toNat % 1024 == k
  | _ => false

/-- An access that needs a key slot which a running command changes makes its agent wait: the step notes it (R420). -/
def Xlat.await (x : Xlat) (s : State) : State :=
  if x.sealed && s.trust.changes (ctxKey x.ent) then { s with blocked := true } else s

/-- The page permits the n bytes of an access that lie in it, and refuses nothing (R207, R215, R419). -/
def Xlat.allows (x : Xlat) (w : Who) (kind : Acc) (n : Nat) (s : State) : Bool :=
  permits x.pte kind w.level && !x.refused n s

/-- Translate the first byte of an access to n bytes: its page, the permission, what the page refuses, then the A and D bits
(R207, R212 to R215, R419, R420). An access that passes sets them although a rule behind this one refuses it then (assumption
79, DESIGN CHOICE). -/
def translate (w : Who) (va n : Nat) (kind : Acc) (s : State) : Res Xlat :=
  match findPage w va kind s with
  | .trap c t s1 => .trap c t s1
  | .ok (x, addr) s1 =>
    let s2 := x.await s1
    if x.allows w kind (inPage x.pte va n) s2 then .ok x (markUsed w va x.pte addr kind s2)
    else .trap 0x07 (BitVec.ofNat 64 va) s2

/-- An access to a window. -/
def Loc.window (key size : Nat) : Loc :=
  ⟨key, size, 0, size, none, none, 0, 0, false, false, false, false, false, false⟩

/-- The port of the peer that holds the bytes, if a peer does. -/
def Loc.peer (l : Loc) : Option Nat :=
  if l.phys then (peerOf l.key).or (if l.n1 < l.size then peerOf l.key2 else none) else none

/-- The key slot of the page, 0 for none, and its key. -/
def Xlat.slot (x : Xlat) : Nat := if x.sealed then ctxKey x.ent else 0
def Xlat.kopt (x : Xlat) (s : State) : Option (BitVec 512) := if x.sealed then tfind s.trust.keys (ctxKey x.ent) else none

/-- An attribute of the page. -/
def Xlat.attr (x : Xlat) (i : Nat) : Bool := ebits x.pte i 1 == 1

/-- Where the bytes of a translated access lie: n1 of them in the page of x, the others in the page of x2 (R216, R420). -/
def locate (size : Nat) (x x2 : Xlat) (n1 : Nat) (s : State) : Loc :=
  let two := decide (n1 < size)
  ⟨x.pa, n1, x2.pa, size, x.kopt s, x2.kopt s, x.slot, x2.slot, x.attr 59, x2.attr 59,
    x.attr 60 || (two && x2.attr 60), x.attr 63 || (two && x2.attr 63), x.attr 62 && (!two || x2.attr 62), true⟩

/-- An access of size bytes at the address a: its class, straddle, context, translation and protection checks in the
order of R332, the walks of both its pages before their protection, with tval its first byte whatever page faults, and where its
bytes lie (R197, R198, R203, R212 to R216, R219, R429). A chip scratchpad access needs an open context entry too, and an access
that passes sets A and D although a rule behind this one refuses it then (assumption 79, DESIGN CHOICE). -/
def access (w : Who) (a size : Nat) (kind : Acc) (s : State) : Res Loc :=
  let t := BitVec.ofNat 64 a
  let o := a % 2 ^ 28
  match spaceOf a with
  | .outside => .trap 0x07 t s
  | .hole => .trap 0x07 t s
  | .translated =>
    if spaceOf (a + size - 1) = .translated then
      match findPage w a kind s with
      | .trap c v s1 => .trap c v s1
      | .ok (x, addr) s1 =>
        let n1 := inPage x.pte a size
        if n1 = size then
          let s2 := x.await s1
          if x.allows w kind size s2 then .ok (locate size x x n1 s2) (markUsed w a x.pte addr kind s2) else .trap 0x07 t s2
        else
          match findPage w (a + n1) kind s1 with
          | .trap c _ s2 => .trap c t s2
          | .ok (x2, addr2) s2 =>
            let s3 := x2.await (x.await s2)
            if x.allows w kind n1 s3 && x2.allows w kind (size - n1) s3 then
              .ok (locate size x x2 n1 s3) (markUsed w (a + n1) x2.pte addr2 kind (markUsed w a x.pte addr kind s3))
            else .trap 0x07 t s3
    else .trap 0x05 t s
  | c =>
    if kind = .fetch then .trap 0x07 t s
    else if spaceOf (a + size - 1) = c then
      match c with
      | .lane => .ok (.window (laneKey w.core o) size) s
      | .scratch => .ok (.window (scratchKey w.core o) size) s
      | .cluster => .ok (.window (clusterKey (clusterOf w.core) o) size) s
      | _ =>
        let (ent, s1) := ctxEntry w.hart w.ctx s
        if ctxOpen ent && ctxOwns ent (o / 65536) && !(s.reduced && decide (2 ^ 25 ≤ o)) then .ok (.window (chipKey o) size) s1
        else .trap 0x07 t s1
    else .trap 0x05 t s

/-! ## Reading and writing at a location -/

/-- Cut n bytes at a into pieces that each lie in one block. -/
def pieces (a n : Nat) : Nat → List (Nat × Nat)
  | 0 => []
  | f + 1 => if n = 0 then [] else
    let m := min n (4096 - a % 4096)
    (a, m) :: pieces (a + m) (n - m) f

/-- n bytes of a peer's memory from an address, as an access in step m finds them (R364; assumption 77). -/
def peerRead (m a : Nat) : Nat → Nat
  | 0 => 0
  | n + 1 => (Config.peerByte m a).toNat + 256 * peerRead m (a + 1) n

/-- n bytes from key k, of this device or of a peer. -/
def readPart (phys : Bool) (kopt : Option (BitVec 512)) (k n : Nat) (s : State) : Nat :=
  if phys && (peerOf k).isSome then peerRead s.steps k n else memRead s.mm kopt k n

/-- The bytes at a location, as a number. -/
def readLoc (l : Loc) (s : State) : Nat :=
  readPart l.phys l.kopt l.key l.n1 s +
    256 ^ l.n1 * (if l.n1 < l.size then readPart l.phys l.kopt2 l.key2 (l.size - l.n1) s else 0)

/-- Whether the home L2 caches the bytes of the first page, and those of the second (R204, R209). -/
def Loc.cached1 (l : Loc) : Bool := l.phys && !l.uncached && cachedPa l.key
def Loc.cached2 (l : Loc) : Bool := l.phys && !l.uncached2 && cachedPa l.key2 && decide (l.n1 < l.size)

/-- Whether n bytes of this device from key k are poisoned; a peer says so of its own in its answer (R364, R401). -/
def poisonedPart (phys cached : Bool) (k n : Nat) (s : State) : Bool :=
  !(phys && (peerOf k).isSome) && poisoned s.mm cached k n

/-- Whether the bytes at a location are poisoned (R401). -/
def poisonedLoc (l : Loc) (s : State) : Bool :=
  poisonedPart l.phys l.cached1 l.key l.n1 s || (decide (l.n1 < l.size) && poisonedPart l.phys l.cached2 l.key2 (l.size - l.n1) s)

/-- A write at a location that has been made leaves its units poisoned (R250, R301). -/
def poisonLoc (l : Loc) (s : State) : State :=
  let s1 := s.setMem (poisonWrite s.mm l.cached1 l.key l.n1)
  if l.n1 < l.size then s1.setMem (poisonWrite s1.mm l.cached2 l.key2 (l.size - l.n1)) else s1

/-- A read through the home L2 fills the sectors it needs (R207). -/
def fillLoc (l : Loc) (s : State) : State :=
  let s1 := if l.cached1 then readLines l.key l.n1 l.slot s else s
  if l.cached2 then readLines l.key2 (l.size - l.n1) l.slot2 s1 else s1

/-- The answer of a peer to an access that reaches it, in the step that performs the access: whether it is an error, by free
choice (R364; assumption 53). -/
def peerError (l : Loc) (s : State) : Bool × State := if l.peer.isSome then drawBool s else (false, s)

/-- Whether the data that a peer returns is poisoned, by free choice (R364). -/
def peerPoison (l : Loc) (s : State) : Bool × State := if l.peer.isSome then drawBool s else (false, s)

/-- Write a value at a location: the bytes, the poison they clear, the lines of the L2 (R121, R207, R208). -/
def writeLoc (w : Who) (l : Loc) (v : Nat) (s : State) : State :=
  let s1 := s.setMem (memWrite s.mm l.kopt l.key l.n1 v)
  let s2 := if l.n1 < l.size then s1.setMem (memWrite s1.mm l.kopt2 l.key2 (l.size - l.n1) (v / 256 ^ l.n1)) else s1
  let s3 := if l.cached1 then touchLines l.key l.n1 l.slot w.hart s2 else s2
  if l.cached2 then touchLines l.key2 (l.size - l.n1) l.slot2 w.hart s3 else s3

/-- A store to a peer that is lost with it outstanding is dropped and logged; the spec gives the entry no TYPE, so it is free
(R364, R403). -/
def dropRemote (ctx src key : Nat) (s : State) : State :=
  let (ty, s1) := drawWord s
  logError s1 8 ⟨BitVec.ofNat 56 key, ty.toNat % 16, ctx, src, 1, 0⟩

/-- The peer that port p reaches is lost: each port that is up to it goes down before anything else acts (R361). -/
def losePeer (p : Nat) (s : State) : State :=
  let peer (q : Nat) : BitVec 16 := if hq : q < 16 then s.ports[q].peer else 0
  let up (q : Nat) : Bool := if hq : q < 16 then s.ports[q].up else false
  { s with agenda :=
    ((List.range 16).filter (fun q => up q && peer q == peer p)).map Turn.down ++ s.agenda }

/-- Write at a location by an agent that has no pending list: a store at a peer is performed, or the peer is lost with it
(R361, R364; assumption 53). -/
def writeOut (w : Who) (l : Loc) (v : Nat) (s : State) : State :=
  match l.peer with
  | none => writeLoc w l v s
  | some p =>
    let (lost, s1) := drawBool s
    if lost then losePeer p (dropRemote w.ctx w.core l.key s1) else writeLoc w l v s1

end Sys2Proof.Machine
end

