-- ==== Sys2Proof/Machine/Regs.lean ====
section
/-!
DEFINITION. The scalar registers and condition bits: reading, writing, full and empty, the gates an instruction passes
before it issues, and the fills of long-latency producers (R14, R15, R98, R101, R102, R107).
-/
namespace Sys2Proof.Machine

/-- Bit i of v set to b. -/
def putBit {w : Nat} (v : BitVec w) (i : Nat) (b : Bool) : BitVec w :=
  if b then v ||| (1#w <<< i) else v &&& ~~~(1#w <<< i)

/-! ## Registers -/

/-- Scalar register r; s0 reads as zero (R13). -/
def ScalarRegs.readS (R : ScalarRegs) (r : BitVec 5) : Word := if r = 0 then 0 else R.s[r.toNat]

/-- Condition bit k; k0 reads as 1 (R13). -/
def ScalarRegs.readK (R : ScalarRegs) (k : BitVec 3) : Bool := k == 0 || R.k.getLsbD k.toNat

/-- Scalar register r is empty; s0 never is (R14). -/
def ScalarRegs.isEmptyS (R : ScalarRegs) (r : BitVec 5) : Bool := r != 0 && R.empty.getLsbD r.toNat

/-- Condition bit k is empty; k0 never is (R14). -/
def ScalarRegs.isEmptyK (R : ScalarRegs) (k : BitVec 3) : Bool := k != 0 && R.empty.getLsbD (32 + k.toNat)

/-- Write scalar register r and make it full; a write to s0 is discarded (R14). -/
def ScalarRegs.writeS (R : ScalarRegs) (r : BitVec 5) (v : Word) : ScalarRegs :=
  if r = 0 then R else { R with s := R.s.set r.toNat v, empty := putBit R.empty r.toNat false }

/-- Write condition bit k and make it full; a write to k0 is discarded (R14). -/
def ScalarRegs.writeK (R : ScalarRegs) (k : BitVec 3) (b : Bool) : ScalarRegs :=
  if k = 0 then R else { R with k := putBit R.k k.toNat b, empty := putBit R.empty (32 + k.toNat) false }

/-- Make scalar register r empty (R101). -/
def ScalarRegs.markS (R : ScalarRegs) (r : BitVec 5) : ScalarRegs :=
  if r = 0 then R else { R with empty := putBit R.empty r.toNat true }

/-- Make condition bit k empty (R101). -/
def ScalarRegs.markK (R : ScalarRegs) (k : BitVec 3) : ScalarRegs :=
  if k = 0 then R else { R with empty := putBit R.empty (32 + k.toNat) true }

/-- Note a scalar writer in the replay queue of the 16 latest, with all that it has written; s0 and k0 are never written (R14,
R396). -/
def ScalarRegs.note (R : ScalarRegs) (ns : List Nat) : ScalarRegs :=
  match ns.filter (fun n => n != 0 && n != 32) with
  | [] => R
  | e => { R with replay := (e :: R.replay).take 16 }

/-- Write s register r for an instruction that the replay queue notes. -/
def ScalarRegs.putS (R : ScalarRegs) (r : BitVec 5) (v : Word) : ScalarRegs := (R.writeS r v).note [r.toNat]

/-- Write condition bit k for an instruction that the replay queue notes. -/
def ScalarRegs.putK (R : ScalarRegs) (k : BitVec 3) (b : Bool) : ScalarRegs := (R.writeK k b).note [32 + k.toNat]

/-- A scalar instruction of the hart writes s register r. -/
def Hart.putS (H : Hart) (r : BitVec 5) (v : Word) : Hart := { H with regs := H.regs.putS r v }

/-- A scalar instruction of the hart writes condition bit k. -/
def Hart.putK (H : Hart) (k : BitVec 3) (b : Bool) : Hart := { H with regs := H.regs.putK k b }

/-- The hart's destination r becomes empty. -/
def Hart.markS (H : Hart) (r : BitVec 5) : Hart := { H with regs := H.regs.markS r }

/-- The hart's destination k becomes empty. -/
def Hart.markK (H : Hart) (k : BitVec 3) : Hart := { H with regs := H.regs.markK k }

/-- What producer id does to the registers that a departure of the replay would restore, when it is older than the confirmation;
none stands for a producer of the vector queue, which is older than every replay (R106, R287). -/
def MarkedLoop.atConf (L : MarkedLoop) (id : Option Nat) (f : ScalarRegs → ScalarRegs) : MarkedLoop :=
  if L.lpst.toNat % 8 == 3 && L.endDst.isNone && id.all (fun i => decide (i < L.confId)) then { L with conf := f L.conf } else L

/-- An older producer writes s register r: also in the registers that each younger branch, and a departure, would restore (R107,
R287). The producer is number id, or none of the vector queue, which is older than every branch (R106). -/
def Hart.fillS (H : Hart) (id : Option Nat) (r : BitVec 5) (v : Word) : Hart :=
  { H.putS r v with
    checks := H.checks.map (fun c =>
      if id.all (fun i => decide (i < c.nextId)) then { c with regs := c.regs.putS r v } else c)
    loop := H.loop.atConf id (fun R => R.putS r v) }

/-- A producer of the vector queue writes condition bit k: also in the registers that each branch, and a departure, would restore,
and for the branches that wait for it (R107, R108, R287). -/
def Hart.fillK (H : Hart) (k : BitVec 3) (b : Bool) : Hart :=
  { H.putK k b with
    checks := H.checks.map (fun c =>
      { c with regs := c.regs.putK k b, value := if c.k = k && c.value.isNone then some b else c.value })
    loop := H.loop.atConf none (fun R => R.putK k b) }

/-- A queued producer leaves s register r as it was and makes it full (R186). -/
def Hart.releaseS (H : Hart) (r : BitVec 5) : Hart := H.fillS none r (H.regs.readS r)

/-- A queued producer leaves condition bit k as it was and makes it full (R186). -/
def Hart.releaseK (H : Hart) (k : BitVec 3) : Hart := H.fillK k (H.regs.readK k)

/-! ## Gates -/

/-- What an instruction meets before it issues: it may go, it waits, or it traps. -/
inductive Gate where
  | go
  | wait
  | trap (cause : Nat) (tval : Word)
  deriving DecidableEq, Repr

/-- The first of two gates, unless it lets go. -/
def Gate.and (g g' : Gate) : Gate :=
  match g with
  | .go => g'
  | .wait => .wait
  | .trap c t => .trap c t

/-- Reading s register r under a hold bit (R15, R102). -/
def Hart.srcS (H : Hart) (r : BitVec 5) (hold : BitVec 1) : Gate :=
  if H.regs.isEmptyS r then (if hold = 1 then .wait else .trap 0x03 (BitVec.ofNat 64 r.toNat)) else .go

/-- Reading condition bit k under a hold bit (R15, R102). -/
def Hart.srcK (H : Hart) (k : BitVec 3) (hold : BitVec 1) : Gate :=
  if H.regs.isEmptyK k then (if hold = 1 then .wait else .trap 0x03 (BitVec.ofNat 64 (32 + k.toNat))) else .go

/-- Writing s register r: waits while an older producer still owes it (R102). -/
def Hart.dstS (H : Hart) (r : BitVec 5) : Gate := if H.regs.isEmptyS r then .wait else .go

/-- Writing condition bit k: waits while an older producer still owes it (R102). -/
def Hart.dstK (H : Hart) (k : BitVec 3) : Gate := if H.regs.isEmptyK k then .wait else .go

/-- A departure would still cancel what the hart executes: a replay has iterations to perform, and lp.end has not been
issued (R287). -/
def Hart.tentative (H : Hart) : Bool :=
  H.loop.lpst.toNat % 8 == 3 && H.loop.endDst.isNone && decide (H.loop.lpwm.toNat < H.loop.lpn.toNat)

/-- Every older branch is confirmed, and no departure can cancel the instruction: it is cancelled "as on a wrong
prediction", so it may do no more than a speculative one (R106, R287; assumption 24, DEDUCED). -/
def Hart.settled (H : Hart) : Bool := H.checks.isEmpty && !H.tentative

/-- Waiting until the instruction is settled (R106). -/
def Hart.confirmed (H : Hart) : Gate := if H.settled then .go else .wait

/-- A check that traps with a cause when a condition fails. -/
def Gate.need (ok : Bool) (cause : Nat) (tval : Word) : Gate := if ok then .go else .trap cause tval

/-- A wait until a condition holds. -/
def Gate.until (ok : Bool) : Gate := if ok then .go else .wait

/-! ## Time and traces -/

/-- The cycles of a core's arithmetic clock after n steps, each of which takes a free number of them (R99; assumption 5). -/
def cycles (core : Nat) : Nat → Nat
  | 0 => 0
  | n + 1 => cycles core n + Config.stepCycles core n

/-- cyc as the hart reads it (R99). -/
def State.cyc (s : State) (h : Nat) : Word := BitVec.ofNat 64 (cycles (coreOf h) s.steps)

/-- Note a trace record, when trace is enabled (R410). -/
def Hart.trace (H : Hart) (kind : Nat) (src dst : Word) (code : Nat) : Hart :=
  if H.obs.trcfg.getLsbD 63 then
    { H with obs := { H.obs with
      traces := H.obs.traces ++ [⟨H.obs.trNum + 1, kind, src, dst, code⟩], trNum := H.obs.trNum + 1 } }
  else H

/-- Note a record of the Duplicator, which nothing takes back (R410). -/
def Hart.traceFirm (H : Hart) (kind : Nat) (src dst : Word) (code : Nat) : Hart :=
  if H.obs.trcfg.getLsbD 63 then
    { H with obs := { H.obs with traces := H.obs.traces ++ [⟨0, kind, src, dst, code⟩] } }
  else H

/-- The records above a number are of a path that is taken back (R410). -/
def Hart.dropTraces (H : Hart) (n : Nat) : Hart :=
  { H with obs := { H.obs with traces := H.obs.traces.filter (fun t => decide (t.num ≤ n)) } }

/-- One instruction more has completed (R406). -/
def ScalarRegs.completed (R : ScalarRegs) : ScalarRegs := { R with ran := R.ran + 1 }

/-- The instruction at pc has completed: the stream goes on behind it, running. -/
def Hart.advance (H : Hart) : Hart := { H with pc := H.pc + 4, status := .running, regs := H.regs.completed }

/-- The instructions that have retired: what stands behind an unconfirmed branch, or behind a confirmation that may still be taken
back, has not (R106, R287, R406). -/
def Hart.retired (H : Hart) : Nat :=
  let n := match H.checks with
    | [] => H.regs.ran
    | c :: _ => c.regs.ran
  if H.tentative then min n H.loop.conf.ran else n

/-- Note something in the tallies of the hart. -/
def Hart.tallied (H : Hart) (f : Tally → Tally) : Hart := { H with obs := { H.obs with tally := f H.obs.tally } }

/-! ## Arrival words -/

/-- The new value of an arrival word: one more, with bit 63 set on an error and kept once set (R78, R93, R248). -/
def arrivalValue (old : Nat) (err : Bool) : Nat :=
  let v := BitVec.ofNat 64 (old + 1) ||| (if err then 1#64 <<< 63 else 0) ||| (BitVec.ofNat 64 old &&& (1#64 <<< 63))
  v.toNat

end Sys2Proof.Machine
end

