-- ==== Sys2Proof/Machine/Numbers.lean ====
section
/-!
DEFINITION. Numbers to the bit (R130 to R150): the floating-point formats, exact values, the one rounding, the
arithmetic and conversions that scalar, vector and matrix instructions share, and the Limlor generator.
-/
namespace Sys2Proof.Machine

/-! ## Limlor (R148) -/

/-- A 64-bit left rotation. -/
def rotl (x : Word) (n : Nat) : Word := x.rotateLeft n

/-- One round: inject the key, multiply, shift and fold. -/
def limlorRound (key x m w : Word) (rot sh : Nat) : Word :=
  let y := (x ^^^ (rotl key rot ^^^ w)) * m
  y ^^^ (y >>> sh)

/-- limlor(key, counter) (R148). -/
def limlor (key counter : Word) : Word :=
  let x0 := limlorRound key counter 0xC2A51E973B6D48F1 0x5A3CE1F07B29D486 0 29
  let x1 := limlorRound key x0 0x8F3D62B9A4C71E55 0x1F8E6D3AC25709B4 16 31
  let x2 := limlorRound key x1 0xE17A5C3F92D86B0B 0xA4D17C6E3F925B08 32 27
  limlorRound key x2 0xB6D40E837F25C9A7 0x6B0FD8539E14A7C2 48 33

/-! ## Formats (R131 to R133) -/

/-- A floating-point format: exponent and fraction bits, bias, and whether its all-ones exponent is normal (e4m3). -/
structure FloatFmt where
  eb   : Nat
  fb   : Nat
  bias : Nat
  e4m3 : Bool
  deriving DecidableEq, Repr

def fmtE4m3 : FloatFmt := ⟨4, 3, 7, true⟩
def fmtE5m2 : FloatFmt := ⟨5, 2, 15, false⟩
def fmtF16 : FloatFmt := ⟨5, 10, 15, false⟩
def fmtBf16 : FloatFmt := ⟨8, 7, 127, false⟩
def fmtF32 : FloatFmt := ⟨8, 23, 127, false⟩
def fmtF64 : FloatFmt := ⟨11, 52, 1023, false⟩

/-- The format of a code, 8 to 13 (R38). -/
def floatFmt (code : Nat) : FloatFmt :=
  match code with
  | 8 => fmtE4m3
  | 9 => fmtE5m2
  | 10 => fmtF16
  | 11 => fmtBf16
  | 12 => fmtF32
  | _ => fmtF64

/-- The sign bit. -/
def FloatFmt.signBit (f : FloatFmt) : Nat := 2 ^ (f.eb + f.fb)

/-- The canonical NaN (R131, R133). -/
def FloatFmt.nan (f : FloatFmt) : Nat :=
  if f.e4m3 then 0x7F else (2 ^ f.eb - 1) * 2 ^ f.fb + 2 ^ (f.fb - 1)

/-- Infinity of a sign, in a format that has one. -/
def FloatFmt.inf (f : FloatFmt) (neg : Bool) : Nat :=
  (2 ^ f.eb - 1) * 2 ^ f.fb + (if neg then f.signBit else 0)

/-- The encoding of the largest finite value (R131). -/
def FloatFmt.maxBits (f : FloatFmt) : Nat := if f.e4m3 then 0x7E else (2 ^ f.eb - 1) * 2 ^ f.fb - 1

/-- The exponent of the last fraction bit of the smallest normal and of every subnormal. -/
def FloatFmt.qmin (f : FloatFmt) : Int := 1 - (f.bias : Int) - (f.fb : Int)

/-- What an encoding stands for: a NaN, quiet or signalling, an infinity, or m × 2 ^ e with a sign (R132, R133). -/
inductive Num where
  | nan (signalling : Bool)
  | inf (neg : Bool)
  | fin (neg : Bool) (m : Nat) (e : Int)
  deriving DecidableEq, Repr

/-- Unpack an encoding (R132, R133). -/
def unpack (f : FloatFmt) (x : Nat) : Num :=
  let neg := x / f.signBit % 2 == 1
  let ex := x / 2 ^ f.fb % 2 ^ f.eb
  let fr := x % 2 ^ f.fb
  if f.e4m3 then
    if ex = 15 ∧ fr = 7 then .nan false
    else if ex = 0 then .fin neg fr f.qmin
    else .fin neg (fr + 2 ^ f.fb) (f.qmin + (ex - 1 : Nat))
  else if ex = 2 ^ f.eb - 1 then
    if fr = 0 then .inf neg else .nan (decide (fr < 2 ^ (f.fb - 1)))
  else if ex = 0 then .fin neg fr f.qmin
  else .fin neg (fr + 2 ^ f.fb) (f.qmin + (ex - 1 : Nat))

/-- The flags of an operation (R100, R139, R157). -/
structure FFlags where
  nv  : Bool
  dz  : Bool
  of  : Bool
  uf  : Bool
  nx  : Bool
  sat : Bool
  deriving DecidableEq, Repr

/-- No flag. -/
def FFlags.none : FFlags := ⟨false, false, false, false, false, false⟩

/-- Invalid only. -/
def FFlags.invalid : FFlags := { FFlags.none with nv := true }

/-- Both sets of flags. -/
def FFlags.or (a b : FFlags) : FFlags :=
  ⟨a.nv || b.nv, a.dz || b.dz, a.of || b.of, a.uf || b.uf, a.nx || b.nx, a.sat || b.sat⟩

/-- In the layout of fst (R100). -/
def FFlags.fst (a : FFlags) : BitVec 5 :=
  BitVec.ofBool a.nv ++ BitVec.ofBool a.dz ++ BitVec.ofBool a.of ++ BitVec.ofBool a.uf ++ BitVec.ofBool a.nx

/-- In the layout of vst (R157). -/
def FFlags.vst (a : FFlags) : BitVec 5 :=
  BitVec.ofBool a.sat ++ BitVec.ofBool a.nv ++ BitVec.ofBool a.of ++ BitVec.ofBool a.uf ++ BitVec.ofBool a.nx

/-- How an instruction rounds: the code 0 to 4 of R36, the 32 random bits of RSR, saturation, and the Z bit of vcvt. -/
structure Rounding where
  mode : Nat
  rnd  : Nat
  sat  : Bool
  z    : Bool
  deriving DecidableEq, Repr

/-- Round to nearest even. -/
def rne : Rounding := ⟨0, 0, false, false⟩

/-- Truncate. -/
def rtz : Rounding := ⟨1, 0, false, false⟩

/-- x × 2 ^ k for an integer k, rounded down. -/
def shiftBy (x : Nat) (k : Int) : Nat := if 0 ≤ k then x * 2 ^ k.toNat else x / 2 ^ (-k).toNat

/-- Whether the rounding takes hi: lo is the lower magnitude, r / 2 ^ d the fraction above it, sticky whether the exact
value lies above that (R135, R136). Codes 5 to 7, which a kernel write can leave in fmt.RM (R158), round as RSR does
(assumption 64, DESIGN CHOICE). -/
def roundsUp (rd : Rounding) (neg : Bool) (lo r d : Nat) (sticky : Bool) : Bool :=
  if r = 0 && !sticky then false
  else
    match rd.mode with
    | 0 =>
      let h := 2 * r
      decide (2 ^ d < h) || (h == 2 ^ d && (sticky || lo % 2 == 1))
    | 1 => false
    | 2 => neg
    | 3 => !neg
    | _ => decide (rd.rnd < r * 2 ^ 32 / 2 ^ d)

/-- Round the nonzero exact magnitude q × 2 ^ e, or just above it when sticky, to a multiple of 2 ^ qe: the multiple and
whether it is inexact. -/
def roundAt (rd : Rounding) (neg : Bool) (q : Nat) (e : Int) (sticky : Bool) (qe : Int) : Nat × Bool :=
  let lo := shiftBy q (e - qe)
  let d := (qe - e).toNat
  let r := q % 2 ^ d
  ((if roundsUp rd neg lo r d sticky then lo + 1 else lo), r != 0 || sticky)

/-- What an overflow delivers, and whether saturation changed it (R137). -/
def overflowBits (f : FloatFmt) (rd : Rounding) (neg : Bool) : Nat × Bool :=
  let s := if neg then f.signBit else 0
  let keepMax := rd.mode == 1 || (rd.mode == 2 && !neg) || (rd.mode == 3 && neg)
  let open' := if keepMax then f.maxBits + s else if f.e4m3 then f.nan else f.inf neg
  if rd.sat then (f.maxBits + s, !keepMax) else (open', false)

/-- Round an exact magnitude q × 2 ^ e (just above it when sticky) into a format, once, with its flags (R134 to R139).
A zero magnitude keeps the sign given. -/
def roundTo (f : FloatFmt) (rd : Rounding) (neg : Bool) (q : Nat) (e : Int) (sticky : Bool) : Nat × FFlags :=
  let s := if neg then f.signBit else 0
  if q = 0 then (s, FFlags.none)
  else
    let top : Int := e + (Nat.log2 q : Nat)
    let qe := max (top - (f.fb : Int)) f.qmin
    let (m, inexact) := roundAt rd neg q e sticky qe
    let bits := (qe - f.qmin).toNat * 2 ^ f.fb + m
    let tiny := decide (top < f.qmin + (f.fb : Int))
    if f.maxBits < bits then
      let (b, changed) := overflowBits f rd neg
      (b, { FFlags.none with of := true, nx := true, sat := changed })
    else if rd.z && decide (0 < m) && decide (m < 2 ^ f.fb) then
      (s, { FFlags.none with uf := true, nx := true })
    else (bits + s, { FFlags.none with uf := tiny && inexact, nx := inexact })

/-- The canonical NaN with the invalid flag when asked. -/
def nanResult (f : FloatFmt) (nv : Bool) : Nat × FFlags := (f.nan, { FFlags.none with nv := nv })

/-- Whether a value is a NaN. -/
def Num.isNan : Num → Bool
  | .nan _ => true
  | _ => false

/-- Whether a value is a signalling NaN. -/
def Num.isSnan : Num → Bool
  | .nan s => s
  | _ => false

/-- The value with its sign inverted. -/
def Num.neg : Num → Num
  | .nan s => .nan s
  | .inf n => .inf (!n)
  | .fin n m e => .fin (!n) m e

/-- The sign of a value. -/
def Num.sign : Num → Bool
  | .nan _ => false
  | .inf n => n
  | .fin n _ _ => n

/-- m × 2 ^ e as a multiple of 2 ^ e0, e0 ≤ e. -/
def scaled (m : Nat) (e e0 : Int) : Int := (m * 2 ^ (e - e0).toNat : Nat)

/-- A signed exact sum of two finite values, as an integer multiple of a power of two. -/
def exactSum (n1 : Bool) (m1 : Nat) (e1 : Int) (n2 : Bool) (m2 : Nat) (e2 : Int) : Int × Int :=
  let e0 := min e1 e2
  let a := scaled m1 e1 e0
  let b := scaled m2 e2 e0
  ((if n1 then -a else a) + (if n2 then -b else b), e0)

/-- Round a signed exact multiple of a power of two; an exact zero has the sign given. -/
def roundInt (f : FloatFmt) (rd : Rounding) (v : Int) (e : Int) (zeroNeg : Bool) : Nat × FFlags :=
  if v = 0 then ((if zeroNeg then f.signBit else 0), FFlags.none) else roundTo f rd (decide (v < 0)) v.natAbs e false

/-- The sign of an exact zero sum of two addends (R135). -/
def zeroSign (rd : Rounding) (z1 z2 n1 n2 : Bool) : Bool :=
  if z1 && z2 && n1 == n2 then n1 else rd.mode == 2

/-- x + y of unpacked values (R114, R115, R135). -/
def addNum (f : FloatFmt) (rd : Rounding) (x y : Num) : Nat × FFlags :=
  match x, y with
  | .nan s, .nan s' => nanResult f (s || s')
  | .nan s, _ => nanResult f s
  | _, .nan s => nanResult f s
  | .inf a, .inf b => if a = b then (f.inf a, FFlags.none) else nanResult f true
  | .inf a, .fin _ _ _ => (f.inf a, FFlags.none)
  | .fin _ _ _, .inf b => (f.inf b, FFlags.none)
  | .fin n1 m1 e1, .fin n2 m2 e2 =>
    let (v, e) := exactSum n1 m1 e1 n2 m2 e2
    roundInt f rd v e (zeroSign rd (m1 == 0) (m2 == 0) n1 n2)

/-- x × y of unpacked values. -/
def mulNum (f : FloatFmt) (rd : Rounding) (x y : Num) : Nat × FFlags :=
  match x, y with
  | .nan s, .nan s' => nanResult f (s || s')
  | .nan s, _ => nanResult f s
  | _, .nan s => nanResult f s
  | .inf a, .inf b => (f.inf (a != b), FFlags.none)
  | .inf a, .fin n m _ => if m = 0 then nanResult f true else (f.inf (a != n), FFlags.none)
  | .fin n m _, .inf b => if m = 0 then nanResult f true else (f.inf (b != n), FFlags.none)
  | .fin n1 m1 e1, .fin n2 m2 e2 => roundTo f rd (n1 != n2) (m1 * m2) (e1 + e2) false

/-- The exact product as a value that addNum takes as one addend; 0 × ∞ is a signalling NaN here, which sets invalid. -/
def prodNum (x y : Num) : Num :=
  match x, y with
  | .nan s, .nan s' => .nan (s || s')
  | .nan s, _ => .nan s
  | _, .nan s => .nan s
  | .inf a, .inf b => .inf (a != b)
  | .inf a, .fin n m _ => if m = 0 then .nan true else .inf (a != n)
  | .fin n m _, .inf b => if m = 0 then .nan true else .inf (b != n)
  | .fin n1 m1 e1, .fin n2 m2 e2 => .fin (n1 != n2) (m1 * m2) (e1 + e2)

/-- x × y + z, rounded once (R116, R183). -/
def fmaNum (f : FloatFmt) (rd : Rounding) (x y z : Num) : Nat × FFlags := addNum f rd (prodNum x y) z

/-- The quotient of nonzero magnitudes to at least 130 bits, with whether a remainder is left. -/
def quotient (m1 : Nat) (e1 : Int) (m2 : Nat) (e2 : Int) : Nat × Int × Bool :=
  let k := 130 + Nat.log2 m2
  let n := m1 * 2 ^ k
  (n / m2, e1 - e2 - (k : Int), n % m2 != 0)

/-- x / y of unpacked values; a finite nonzero value over zero is an infinity, with dz (R114, R115). -/
def divNum (f : FloatFmt) (rd : Rounding) (x y : Num) : Nat × FFlags :=
  match x, y with
  | .nan s, .nan s' => nanResult f (s || s')
  | .nan s, _ => nanResult f s
  | _, .nan s => nanResult f s
  | .inf _, .inf _ => nanResult f true
  | .inf a, .fin n _ _ => (f.inf (a != n), FFlags.none)
  | .fin n _ _, .inf b => ((if n != b then f.signBit else 0), FFlags.none)
  | .fin n1 m1 e1, .fin n2 m2 e2 =>
    if m2 = 0 then
      if m1 = 0 then nanResult f true else (f.inf (n1 != n2), { FFlags.none with dz := true })
    else if m1 = 0 then ((if n1 != n2 then f.signBit else 0), FFlags.none)
    else
      let (q, e, st) := quotient m1 e1 m2 e2
      roundTo f rd (n1 != n2) q e st

/-- The integer square root, bit by bit from bit b downwards, r so far. -/
def isqrtFrom (n : Nat) : Nat → Nat → Nat
  | 0, r => r
  | b + 1, r => isqrtFrom n b (if (r + 2 ^ b) * (r + 2 ^ b) ≤ n then r + 2 ^ b else r)

/-- The integer square root, rounded down. -/
def isqrt (n : Nat) : Nat := isqrtFrom n (Nat.log2 n / 2 + 1) 0

/-- The square root of a nonzero magnitude to at least 130 bits, with whether it is inexact. -/
def rootOf (m : Nat) (e : Int) : Nat × Int × Bool :=
  let k : Nat := if (e % 2 == 0) then 260 else 261
  let n := m * 2 ^ k
  let r := isqrt n
  (r, (e - (k : Int)) / 2, r * r != n)

/-- The square root of an unpacked value (R114, R115). -/
def sqrtNum (f : FloatFmt) (rd : Rounding) (x : Num) : Nat × FFlags :=
  match x with
  | .nan s => nanResult f s
  | .inf n => if n then nanResult f true else (f.inf false, FFlags.none)
  | .fin n m e =>
    if m = 0 then ((if n then f.signBit else 0), FFlags.none)
    else if n then nanResult f true
    else
      let (q, e', st) := rootOf m e
      roundTo f rd false q e' st

/-- How two values that are no NaNs compare: the sign of x − y. -/
def cmpNum (x y : Num) : Int :=
  match x, y with
  | .inf a, .inf b => if a = b then 0 else if a then -1 else 1
  | .inf a, _ => if a then -1 else 1
  | _, .inf b => if b then 1 else -1
  | .fin n1 m1 e1, .fin n2 m2 e2 => (exactSum n1 m1 e1 (!n2) m2 e2).1
  | _, _ => 0

/-- fmin or fmax on encodings: −0 below +0, one NaN gives the other operand, two the canonical NaN (R114, R181). -/
def minMaxNum (f : FloatFmt) (wantMax : Bool) (a b : Nat) : Nat × FFlags :=
  let x := unpack f a
  let y := unpack f b
  let nv := x.isSnan || y.isSnan
  if x.isNan && y.isNan then nanResult f nv
  else if x.isNan then (b, { FFlags.none with nv := nv })
  else if y.isNan then (a, { FFlags.none with nv := nv })
  else
    let c := cmpNum x y
    let aLess := if c = 0 then x.sign && !y.sign else decide (c < 0)
    let aFirst := if c = 0 && x.sign == y.sign then true else aLess != wantMax
    ((if aFirst then a else b), FFlags.none)

/-- The relations of R112. -/
inductive FRel where
  | eq
  | lt
  | le
  | un
  deriving DecidableEq, Repr

/-- A floating-point compare of encodings, with whether it sets NV (R112, R184). -/
def fcmp (f : FloatFmt) (r : FRel) (a b : Nat) : Bool × Bool :=
  let x := unpack f a
  let y := unpack f b
  let un := x.isNan || y.isNan
  let sig := x.isSnan || y.isSnan
  match r with
  | .eq => (!un && cmpNum x y == 0, sig)
  | .lt => (!un && decide (cmpNum x y < 0), un)
  | .le => (!un && decide (cmpNum x y ≤ 0), un)
  | .un => (un, sig)

/-! ## Conversions (R145 to R147) -/

/-- A float into another format; an infinity into e4m3 saturates or is invalid (R137). -/
def convertNum (f : FloatFmt) (rd : Rounding) (x : Num) : Nat × FFlags :=
  match x with
  | .nan s => nanResult f s
  | .inf n =>
    if f.e4m3 then
      if rd.sat then (f.maxBits + (if n then f.signBit else 0), { FFlags.none with sat := true }) else nanResult f true
    else (f.inf n, FFlags.none)
  | .fin n m e => roundTo f rd n m e false

/-- An integer into a float. -/
def intToFloat (f : FloatFmt) (rd : Rounding) (v : Int) : Nat × FFlags := roundInt f rd v 0 false

/-- A float to an integer of w bits, signed or not, as the value of its bits (R115, R146). -/
def floatToInt (w : Nat) (signed : Bool) (rd : Rounding) (x : Num) : Nat × FFlags :=
  let hi : Int := if signed then 2 ^ (w - 1) - 1 else 2 ^ w - 1
  let lo : Int := if signed then -2 ^ (w - 1) else 0
  let enc (v : Int) : Nat := (v % 2 ^ w).toNat
  match x with
  | .nan _ => (enc hi, FFlags.invalid)
  | .inf n => (enc (if n then lo else hi), FFlags.invalid)
  | .fin n m e =>
    let (r, inexact) := if m = 0 then (0, false) else roundAt rd n m e false 0
    let v : Int := if n then -(r : Int) else r
    if hi < v then (enc hi, FFlags.invalid)
    else if v < lo then (enc lo, FFlags.invalid)
    else (enc v, { FFlags.none with nx := inexact })

/-! ## The operations on encodings of one format -/

def faddBits (f : FloatFmt) (rd : Rounding) (a b : Nat) : Nat × FFlags := addNum f rd (unpack f a) (unpack f b)
def fsubBits (f : FloatFmt) (rd : Rounding) (a b : Nat) : Nat × FFlags := addNum f rd (unpack f a) (unpack f b).neg
def fmulBits (f : FloatFmt) (rd : Rounding) (a b : Nat) : Nat × FFlags := mulNum f rd (unpack f a) (unpack f b)
def fdivBits (f : FloatFmt) (rd : Rounding) (a b : Nat) : Nat × FFlags := divNum f rd (unpack f a) (unpack f b)
def fsqrtBits (f : FloatFmt) (rd : Rounding) (a : Nat) : Nat × FFlags := sqrtNum f rd (unpack f a)

/-- a × b + c (R116, R183). -/
def fmaddBits (f : FloatFmt) (rd : Rounding) (a b c : Nat) : Nat × FFlags :=
  fmaNum f rd (unpack f a) (unpack f b) (unpack f c)

/-- a × b − c. -/
def fmsubBits (f : FloatFmt) (rd : Rounding) (a b c : Nat) : Nat × FFlags :=
  fmaNum f rd (unpack f a) (unpack f b) (unpack f c).neg

/-- c − a × b. -/
def fnmaddBits (f : FloatFmt) (rd : Rounding) (a b c : Nat) : Nat × FFlags :=
  fmaNum f rd (unpack f a).neg (unpack f b) (unpack f c)

/-! ## The approximations (R182) -/

/-- The fraction bits an approximation delivers: 7 for bf16, 10 for f16, 12 for f32 and f64. -/
def approxBits (f : FloatFmt) : Nat := min f.fb 12

/-- Truncate a nonzero exact magnitude towards zero to p fraction bits, or to the subnormal quantum when that is
coarser; overflow as under RTZ (R182). -/
def truncTo (f : FloatFmt) (neg : Bool) (q : Nat) (e : Int) (sticky : Bool) : Nat × FFlags :=
  let top : Int := e + (Nat.log2 q : Nat)
  let qe := max (top - (approxBits f : Int)) f.qmin
  let lo := shiftBy q (e - qe)
  let inexact := q % 2 ^ (qe - e).toNat != 0 || sticky
  let (b, fl) := roundTo f rtz neg lo qe false
  let tiny := decide (top < f.qmin + (f.fb : Int))
  if fl.of then (b, fl)
  else if lo = 0 then ((if neg then f.signBit else 0), { FFlags.none with uf := tiny && inexact, nx := inexact })
  else (b, { FFlags.none with uf := tiny && inexact, nx := inexact })

/-- frcp: 1 / a (R182). -/
def frcpBits (f : FloatFmt) (a : Nat) : Nat × FFlags :=
  match unpack f a with
  | .nan s => nanResult f s
  | .inf n => ((if n then f.signBit else 0), FFlags.none)
  | .fin n m e =>
    if m = 0 then (f.inf n, FFlags.none)
    else
      let (q, e', st) := quotient 1 0 m e
      truncTo f n q e' st

/-- frsq: 1 / √a (R182). -/
def frsqBits (f : FloatFmt) (a : Nat) : Nat × FFlags :=
  match unpack f a with
  | .nan s => nanResult f s
  | .inf n => if n then nanResult f true else (0, FFlags.none)
  | .fin n m e =>
    if m = 0 then (f.inf n, FFlags.none)
    else if n then nanResult f true
    else
      -- 1/√(m 2^e) = √(2^k / m) 2^(−(k + e)/2), with k + e even and k large
      let k : Nat := 400 + (if e % 2 == 0 then 0 else 1)
      let n2 := 2 ^ k / m
      let r := isqrt n2
      truncTo f false r (-((k : Int) + e) / 2) (r * r != n2 || 2 ^ k % m != 0)

/-- The fixed-point precision of the power of two below, in fraction bits. -/
def expPrec : Nat := 240

/-- 2 raised to a fraction, in fixed point rounded down: bits of the fraction from the top, root the current 2^(2^−i).
Each root is the square root of the one before. -/
def expFrom (fr : Nat) : Nat → Nat → Nat → Nat
  | 0, _, acc => acc
  | i + 1, root, acc =>
    let root' := isqrt (root * 2 ^ expPrec)
    expFrom fr i root' (if fr / 2 ^ i % 2 = 1 then acc * root' / 2 ^ expPrec else acc)

/-- fexp2: 2 ^ a, truncated (R182). The power is computed to 2 ^ −200, far below the twelve bits delivered, and an exact
power of two is exact (assumption 9). -/
def fexp2Bits (f : FloatFmt) (a : Nat) : Nat × FFlags :=
  match unpack f a with
  | .nan s => nanResult f s
  | .inf n => if n then (0, FFlags.none) else (f.inf false, FFlags.none)
  | .fin n m e =>
    -- a = ip + fr / 2^200 with 0 ≤ fr; anything below 2^−200 only makes the result inexact
    let s : Int := if n then -(m : Int) else m
    let w : Int := if 0 ≤ e + 200 then s * 2 ^ (e + 200).toNat else s / 2 ^ (-(e + 200)).toNat
    let lost := decide (e + 200 < 0) && s % 2 ^ (-(e + 200)).toNat != 0
    let ip : Int := max (-3000) (min 3000 (w / 2 ^ 200))   -- beyond, every format underflows or overflows alike
    let fr : Nat := (w % 2 ^ 200).toNat
    let q := if fr = 0 then 2 ^ expPrec else expFrom fr 200 (2 ^ (expPrec + 1)) (2 ^ expPrec)
    truncTo f false q (ip - (expPrec : Int)) (fr != 0 || lost)

end Sys2Proof.Machine
end

