-- ==== Sys2Proof/Machine/Flags.lean ====
section
/-!
DEFINITION. Every flag computation: the scalar sticky flags fst and the vector sticky flags vst (R100, R139, R157,
R356).
-/
namespace Sys2Proof.Machine

/-- Scalar flags are sticky: an instruction ORs its own into fst (R100). -/
def ScalarRegs.raise (R : ScalarRegs) (f : FFlags) : ScalarRegs := { R with fst := R.fst ||| f.fst }

/-- Vector flags are sticky: an element ORs its own into vst (R139, R157). -/
def VecState.raise (V : VecState) (f : FFlags) : VecState := { V with vst := V.vst ||| f.vst }

/-- The write of a W1C flag register: a 1 clears the flag, a 0 leaves it; in a trap the write sets each flag to the bit
written (R100, R157, R356). -/
def flagWrite (ts : Bool) (old : BitVec 5) (v : Word) : BitVec 5 :=
  if ts then v.setWidth 5 else old &&& ~~~(v.setWidth 5)

end Sys2Proof.Machine
end

