-- ==== Sys2Proof/Machine/LoopOps.lean ====
section
/-!
DEFINITION. What the marked loop of a hart does to the accesses of every agent: its state fields, the evaluation of a
replayed iteration, the footprint, and departures (R279, R283 to R287); and what a channel in reset does to them (R273).
-/
namespace Sys2Proof.Machine

/-- Bits lo to lo + n - 1 of a word. -/
def bits {w : Nat} (v : BitVec w) (lo n : Nat) : Nat := v.toNat / 2 ^ lo % 2 ^ n

/-- v with the n bits from lo replaced by x. -/
def setBits (v : Word) (lo n x : Nat) : Word :=
  BitVec.ofNat 64 (v.toNat - bits v lo n * 2 ^ lo + x % 2 ^ n * 2 ^ lo)

/-- lpst.ST (R279). -/
def MarkedLoop.st (L : MarkedLoop) : Nat := bits L.lpst 0 3

/-- The demonstration length d. -/
def MarkedLoop.len (L : MarkedLoop) : Nat := bits L.lpst 12 4

/-- Register r is an induction register. -/
def MarkedLoop.isInd (L : MarkedLoop) (r : Nat) : Bool := L.lpst.getLsbD (32 + r)

/-- Set ST. -/
def MarkedLoop.setSt (L : MarkedLoop) (st : Nat) : MarkedLoop := { L with lpst := setBits L.lpst 0 3 st }

/-- Set DEP. -/
def MarkedLoop.setDep (L : MarkedLoop) (dep : Nat) : MarkedLoop := { L with lpst := setBits L.lpst 8 4 dep }

/-- A demonstration ends on the hart: ST 1 becomes 2 with a cause (R279, R282, R283). -/
def MarkedLoop.breach (L : MarkedLoop) (dep : Nat) : MarkedLoop :=
  if L.st = 1 then { (L.setSt 2).setDep dep with verdict := none, cur := [], iters := [], ends := [] } else L

/-! ## Evaluating a replayed iteration (R282, R284) -/

/-- A low part of a word, extended to 64 bits as a load does (R119). -/
def extendLoad (size : Nat) (signed : Bool) (v : Nat) : Word :=
  if signed then BitVec.signExtend 64 (BitVec.ofNat (8 * size) v) else BitVec.ofNat 64 (v % 256 ^ size)

/-- An operation of a stored value, by number: add sub and or xor min max minu maxu, shifts, fadd.s fsub.s fmul.s. -/
def treeOp (rd : Rounding) (fn : Nat) (a b : Word) : Word × FFlags :=
  let f32 (r : Nat × FFlags) : Word × FFlags := (BitVec.ofNat 64 (r.1 % 2 ^ 32), r.2)
  let x := a.toNat % 2 ^ 32
  let y := b.toNat % 2 ^ 32
  match fn with
  | 0 => (a + b, FFlags.none)
  | 1 => (a - b, FFlags.none)
  | 2 => (a &&& b, FFlags.none)
  | 3 => (a ||| b, FFlags.none)
  | 4 => (a ^^^ b, FFlags.none)
  | 5 => (if a.toInt ≤ b.toInt then a else b, FFlags.none)
  | 6 => (if a.toInt ≤ b.toInt then b else a, FFlags.none)
  | 7 => (if a.toNat ≤ b.toNat then a else b, FFlags.none)
  | 8 => (if a.toNat ≤ b.toNat then b else a, FFlags.none)
  | 9 => (a <<< (b.toNat % 64), FFlags.none)
  | 10 => (a >>> (b.toNat % 64), FFlags.none)
  | 11 => (a.sshiftRight (b.toNat % 64), FFlags.none)
  | 12 => f32 (faddBits fmtF32 rd x y)
  | 13 => f32 (fsubBits fmtF32 rd x y)
  | _ => f32 (fmulBits fmtF32 rd x y)

/-- The value of a tree, with the flags of its floating-point operations. -/
def evalTree (rd : Rounding) (loads : List Word) (ind : Nat → Word) : Expr → Word × FFlags
  | .load j => (loads.getD j 0, FFlags.none)
  | .ind r => (ind r, FFlags.none)
  | .val v => (v, FFlags.none)
  | .op fn a b =>
    let (u, f) := evalTree rd loads ind a
    let (v, g) := evalTree rd loads ind b
    let (w, k) := treeOp rd fn u v
    (w, (f.or g).or k)
  | .fma sub a b c =>
    let (u, f) := evalTree rd loads ind a
    let (v, g) := evalTree rd loads ind b
    let (w, k) := evalTree rd loads ind c
    let r := if sub then fmsubBits fmtF32 rd (u.toNat % 2 ^ 32) (v.toNat % 2 ^ 32) (w.toNat % 2 ^ 32)
      else fmaddBits fmtF32 rd (u.toNat % 2 ^ 32) (v.toNat % 2 ^ 32) (w.toNat % 2 ^ 32)
    (BitVec.ofNat 64 (r.1 % 2 ^ 32), ((f.or g).or k).or r.2)

/-- The address of a template access in iteration i (R282). -/
def LoopAccess.addr (a : LoopAccess) (i : Nat) : Nat := (a.base + BitVec.ofNat 64 i * a.step).toNat

/-- Induction register r at the start of iteration i (R283, R287). -/
def MarkedLoop.indAt (L : MarkedLoop) (i r : Nat) : Word :=
  if hr : r < 32 then L.init[r] + BitVec.ofNat 64 i * L.steps[r] else 0

/-! ## The footprint (R285, R286) -/

/-- Where an address lies, found without an effect, for an access of a kind. -/
def quietKey (w : Who) (a size : Nat) (kind : Acc) (s : State) : Option Loc :=
  match access w a size kind s with
  | .ok l _ => some l
  | .trap _ _ _ => none

/-- The kind of a template access. -/
def LoopAccess.kind (a : LoopAccess) : Acc := if a.store then .write else .read

/-- n bytes at key k meet the bytes of a template access of iteration i. -/
def LoopAccess.covers (a : LoopAccess) (w : Who) (i k n : Nat) (s : State) : Bool :=
  match quietKey w (a.addr i) a.size a.kind s with
  | some l => decide (k < l.key + a.size) && decide (l.key < k + n)
  | none => false

/-- They meet in a way that counts: one of the two writes. -/
def LoopAccess.meets (a : LoopAccess) (w : Who) (i k n : Nat) (write : Bool) (s : State) : Bool :=
  (write || a.store) && a.covers w i k n s

/-- The access of a replaying hart's loop in its context and at the level of the confirmation. -/
def Hart.loopWho (H : Hart) (h : Nat) : Who := ⟨coreOf h, H.place.lctx.toNat, H.loop.level, none, .engine⟩

/-- n bytes at key k meet an iteration that has not been performed. -/
def Hart.replayMeets (H : Hart) (h k n : Nat) (write : Bool) (s : State) : Bool :=
  H.loop.st == 3 &&
    (List.range (H.loop.lpn.toNat - H.loop.lpwm.toNat)).any (fun j =>
      H.loop.template.any (fun a => a.meets (H.loopWho h) (H.loop.lpwm.toNat + j) k n write s))

/-- An access of the replaying hart itself waits for every iteration that accesses its bytes (R285). -/
def Hart.replayHolds (H : Hart) (h k n : Nat) (s : State) : Bool :=
  H.loop.st == 3 &&
    (List.range (H.loop.lpn.toNat - H.loop.lpwm.toNat)).any (fun j =>
      H.loop.template.any (fun a => a.covers (H.loopWho h) (H.loop.lpwm.toNat + j) k n s))

/-- An access of the replaying hart at a location waits (R285). -/
def Hart.replayHoldsLoc (H : Hart) (h : Nat) (l : Loc) (s : State) : Bool :=
  H.replayHolds h l.key l.n1 s || (decide (l.n1 < l.size) && H.replayHolds h l.key2 (l.size - l.n1) s)

/-- An access of the replaying hart to n bytes at an address waits (R285). -/
def Hart.replayHoldsAt (H : Hart) (h a n : Nat) (kind : Acc) (s : State) : Bool :=
  H.loop.st == 3 && (quietKey (s.who h) a n kind s).any (fun l => H.replayHoldsLoc h l s)

/-! ## Departure (R286, R287) -/

/-- The induction registers take their values of iteration k. -/
def Hart.setInd (H : Hart) (k : Nat) : Hart :=
  { H with regs := (List.range 32).foldl (fun R r =>
      if H.loop.isInd r then R.writeS (BitVec.ofNat 5 r) (H.loop.indAt k r) else R) H.regs }

/-- Flags of a replay reach the registers that a wrong prediction would restore (R284). -/
def Checkpoint.orFlags (f : BitVec 5) (c : Checkpoint) : Checkpoint := { c with regs := { c.regs with fst := c.regs.fst ||| f } }

/-- The loop registers as a departure at index k leaves them (R287, R289). -/
def MarkedLoop.handBack (L : MarkedLoop) (k dep : Nat) : MarkedLoop :=
  { L with
    lpst := setBits ((L.setSt 2).setDep dep).lpst 3 1 1
    lpi := BitVec.ofNat 64 k
    lpwm := BitVec.ofNat 64 k
    fflags := 0
    endDst := none }

/-- Everything younger than the confirmation is cancelled, as on a wrong prediction: the stream goes back to the re-entry address
(R107, R287). -/
def Hart.cancelReplay (H : Hart) : Hart :=
  { H.dropTraces H.loop.confTr with
    regs := H.loop.conf
    pc := H.loop.lpre
    status := .running
    checks := []
    loads := H.loads.filter (fun l => l.kind == PendKind.store || decide (l.id < H.loop.confId))
    cmds := H.cmds.filter (fun c => decide (c.id < H.loop.confId)) }

/-- The replay of a hart leaves with index k and a cause: its flags reach fst, and its record is noted (R284, R287, R410). -/
def Hart.endReplay (H : Hart) (k dep : Nat) : Hart :=
  { H with
    loop := H.loop.handBack k dep
    regs := { H.regs with fst := H.regs.fst ||| H.loop.fflags }
    checks := H.checks.map (Checkpoint.orFlags H.loop.fflags) }.traceFirm 6 H.loop.lpre (BitVec.ofNat 64 k) dep

/-- The replay ends at index k with a cause. A hart that has not issued lp.end goes back to the re-entry address;
one that has moved on owes the trap of the hand-back, of cause 0x11 under pre-emption (R287). -/
def Hart.depart (H : Hart) (k dep : Nat) : Hart :=
  if H.loop.endDst.isSome then
    { H with handBack := some (if dep = 4 then 0x11 else 0x0F, BitVec.ofNat 64 k) }.endReplay k dep
  else (H.cancelReplay.setInd k).endReplay k dep

/-- An access of another agent conflicts with a replay (R286). -/
def conflicting (own : Option Nat) (k n : Nat) (write : Bool) (s : State) (e : Nat × Hart) : Bool :=
  own != some e.1 && e.2.replayMeets e.1 k n write s

/-- Every replay of another hart that an access conflicts with departs at its watermark (R286). -/
def departReplays (own : Option Nat) (k n : Nat) (write : Bool) (s : State) : State :=
  s.harts.foldl (fun t e =>
    if conflicting own k n write s e then t.setHart e.1 (e.2.depart e.2.loop.lpwm.toNat 1) else t) s

/-- Before an access of an agent is performed: the replays that it conflicts with depart (R286), and the banks of a channel in
reset hold it (R273). -/
def departConflicts (own : Option Nat) (k n : Nat) (write : Bool) (s : State) : State :=
  holdBanks k n (departReplays own k n write s)

/-- The replays that the walkers' accesses and the fetches of a step conflict with depart as it ends (R286). -/
def departWalked (s : State) : State :=
  s.walked.foldl (fun t x => departReplays x.own x.key x.n x.write t) { s with walked := [] }

/-- A walker's access or a fetch of this step conflicts with a replay (R286). -/
def State.walkConflicts (s : State) : Bool := s.walked.any (fun x => s.harts.any (conflicting x.own x.key x.n x.write s))

/-- departConflicts for the bytes of a location. -/
def departLoc (own : Option Nat) (l : Loc) (write : Bool) (s : State) : State :=
  let s1 := departConflicts own l.key l.n1 write s
  if l.n1 < l.size then departConflicts own l.key2 (l.size - l.n1) write s1 else s1

/-- An access by an agent: its checks, then the departures it causes. -/
def accessBy (w : Who) (a size : Nat) (kind : Acc) (s : State) : Res Loc :=
  match access w a size kind s with
  | .trap c t s1 => .trap c t s1
  | .ok l s1 => .ok l (departLoc w.hart l (kind == .write || kind == .amo) s1)

/-- The bytes at a location that has passed its checks, for address a: the answer of a peer, poison; the sectors come into the home
L2 (R119, R207, R229, R364; assumption 53). -/
def readFrom (l : Loc) (a : Nat) (s : State) : Res Nat :=
  let (err, s1) := peerError l s
  let (bad, s2) := peerPoison l s1
  if err then .trap 0x07 (BitVec.ofNat 64 a) s2
  else if bad || poisonedLoc l s2 then .trap 0x0E (BitVec.ofNat 64 a) s2
  else .ok (readLoc l s2) (fillLoc l s2)

/-- An agent that has no pending list reads n bytes (R119). -/
def readAt (w : Who) (a n : Nat) (s : State) : Res Nat :=
  match accessBy w a n .read s with
  | .trap c t s1 => .trap c t s1
  | .ok l s1 => readFrom l a s1

/-- An agent that has no pending list writes n bytes: the checks, the answer of a peer, the bytes (R121, R364; assumption
53). -/
def writeAt (w : Who) (a n v : Nat) (s : State) : Res Unit :=
  match accessBy w a n .write s with
  | .trap c t s1 => .trap c t s1
  | .ok l s1 =>
    let (err, s2) := peerError l s1
    if err then .trap 0x07 (BitVec.ofNat 64 a) s2 else .ok () (writeOut w l v s2)

/-- Increment an arrival word in a context, if there is one; whether it could be written. -/
def increment (w : Who) (addr : Word) (err : Bool) (s : State) : Bool × State :=
  if addr = 0 then (true, s)
  else
    match accessBy w addr.toNat 8 .write s with
    | .ok l s1 => (true, writeLoc w l (arrivalValue (readLoc l s1) err) s1)
    | .trap _ _ s1 => (false, s1)

/-- Increment the arrival word of a launch, a task, a job or a pipeline; one that cannot be written is dropped and logged at
level 9 (R431). -/
def arrive (w : Who) (addr : Word) (err : Bool) (src : Nat) (s : State) : State :=
  match increment w addr err s with
  | (true, s1) => s1
  | (false, s1) => logError s1 9 ⟨BitVec.ofNat 56 addr.toNat, 13, w.ctx, src, 1, 0⟩

/-! ## Pending scalar accesses (R119, R120, R122, R364)

A load and a store that have issued wait in the list until they are performed: by a perform turn of the agenda, when their
data returns, or when something younger must come after them. -/

/-- A local access reads its bytes. -/
def PendingLoad.perform (ms : MemSys) (p : PendingLoad) : PendingLoad :=
  { p with
    value := some (extendLoad p.size p.signed (memRead ms p.loc.kopt p.key p.size))
    poison := poisoned ms p.loc.cached1 p.key p.size }

/-- A local access that has not been performed. -/
def PendingLoad.due (p : PendingLoad) : Bool := !p.remote && p.value.isNone

/-- Replace the n-th pending access. -/
def Hart.setLoad (H : Hart) (n : Nat) (p : PendingLoad) : Hart := { H with loads := H.loads.set n p }

/-- The n-th pending access leaves. -/
def Hart.dropLoad (H : Hart) (n : Nat) : Hart := { H with loads := H.loads.eraseIdx n }

/-- Pending access p, the n-th, is performed: replays that it conflicts with depart, then a store writes its bytes and
leaves, and a load takes its value (R120, R122, R286). -/
def performAt (h n : Nat) (p : PendingLoad) (s : State) : State :=
  let s1 := departLoc (some h) p.loc (p.kind != .load) s
  match p.kind with
  | .store =>
    let s2 := writeLoc (s1.who h) p.loc (p.data.toNat % 256 ^ p.size) s1
    s2.setHart h ((s2.hart h).dropLoad n)
  | _ => s1.setHart h ((s1.hart h).setLoad n (p.perform s1.mm))

/-- Perform the due accesses that f selects from the n-th on, m of them at most, in program order. -/
def forceFrom (h : Nat) (f : PendingLoad → Bool) : Nat → Nat → State → State
  | 0, _, s => s
  | m + 1, n, s =>
    match (s.hart h).loads[n]? with
    | none => s
    | some p =>
      if f p && p.due then forceFrom h f m (if p.kind = .store then n else n + 1) (performAt h n p s)
      else forceFrom h f m (n + 1) s

/-- Perform every pending local access of the hart that f selects. -/
def forceLoads (h : Nat) (f : PendingLoad → Bool) (s : State) : State := forceFrom h f (s.hart h).loads.length 0 s

/-- An access that f selects is at a peer that has not answered. -/
def Hart.owes (H : Hart) (f : PendingLoad → Bool) : Bool := H.loads.any (fun p => f p && p.remote)

/-- The accesses of a stream. -/
def onStream (q : Nat) (p : PendingLoad) : Bool := p.stream == q

end Sys2Proof.Machine
end

