-- ==== Sys2Proof/Machine/Records.lean ====
section
/-!
DEFINITION. Sample and trace records: their rings, and their writing (R409 to R411).
-/
namespace Sys2Proof.Machine

/-- Who writes the records of a hart: the spec names no level; the rings are the kernel's. -/
def recordWho (h : Nat) (s : State) : Who := { s.who h with level := 1 }

/-- NEXT. -/
def nextOf (cfg : Word) : Nat := bits cfg 0 32

/-- NEXT advances. -/
def bumpNext (cfg : Word) : Word := setBits cfg 0 32 (nextOf cfg + 1)

/-- The slot of a ring. -/
def ringAddr (base cfg : Word) (size : Nat) : Nat := base.toNat + size * (nextOf cfg % 2 ^ bits cfg 53 5)

/-- The cycles that accesses of others wait behind a record's write, a free number, are added to trdly (R411). -/
def recordDelay (h : Nat) (s : State) : State :=
  let (d, s1) := drawWord s
  let H := s1.hart h
  s1.setHart h { H with obs := { H.obs with trdly := H.obs.trdly + d.setWidth 48 } }

/-- The oldest sample record goes to the ring; one that cannot be written is lost (R409, R411). -/
def writeSample (h : Nat) (s : State) : State :=
  let H := s.hart h
  match H.obs.samples with
  | [] => s
  | r :: t =>
    let s1 := recordDelay h (s.setHart h { H with obs := { H.obs with samples := t } })
    match accessBy (recordWho h s) (ringAddr H.obs.smpbase H.obs.smpcfg 64) 64 .write s1 with
    | .trap _ _ s2 => s2
    | .ok l s2 =>
      let s3 := writeLoc (recordWho h s) l r.toNat s2
      let K := s3.hart h
      s3.setHart h { K with obs := { K.obs with smpcfg := bumpNext K.obs.smpcfg } }

/-- A trace record (R410). -/
def TraceRec.word (t : TraceRec) : Nat :=
  bits t.src 0 56 + t.kind % 16 * 2 ^ 60 + (bits t.dst 0 56 + t.code % 256 * 2 ^ 56) * 2 ^ 64

/-- The ring is full and does not wrap (R410). -/
def ringFull (cfg : Word) : Bool := !cfg.getLsbD 62 && decide (2 ^ bits cfg 53 5 ≤ nextOf cfg)

/-- A trace record may still be one of a wrong path: it is younger than an unconfirmed branch, or than the confirmation of a
replay that may depart (R287, R410). -/
def Hart.mayCancel (H : Hart) (r : TraceRec) : Bool :=
  H.checks.any (fun c => decide (c.trNum < r.num)) || (H.tentative && decide (H.loop.confTr < r.num))

/-- The oldest trace record goes to the ring, or is dropped; one that may be of a wrong path waits (R410, R411). -/
def writeTrace (h : Nat) (s : State) : State :=
  let H := s.hart h
  match H.obs.traces with
  | [] => s
  | r :: t =>
    if H.mayCancel r then s
    else if ringFull H.obs.trcfg then
      s.setHart h { H with obs := { H.obs with traces := t, trdrop := H.obs.trdrop + 1 } }
    else
      let s1 := recordDelay h (s.setHart h { H with obs := { H.obs with traces := t } })
      match accessBy (recordWho h s) (ringAddr H.obs.trbase H.obs.trcfg 16) 16 .write s1 with
      | .trap _ _ s2 => s2
      | .ok l s2 =>
        let s3 := writeLoc (recordWho h s) l r.word s2
        let K := s3.hart h
        s3.setHart h { K with obs := { K.obs with trcfg := bumpNext K.obs.trcfg } }

/-- A function, n times. -/
def repeated (f : State → State) : Nat → State → State
  | 0, s => s
  | n + 1, s => repeated f n (f s)

/-- What the hart has recorded and not written goes to its rings before the hart leaves its slot (R409, R410). -/
def writeRecords (h : Nat) (s : State) : State :=
  let s1 := repeated (writeSample h) (s.hart h).obs.samples.length s
  repeated (writeTrace h) (s1.hart h).obs.traces.length s1

end Sys2Proof.Machine
end

