-- ==== Sys2Proof/Machine/VecAccess.lean ====
section
/-!
DEFINITION. Vector accesses that have been dispatched and are still to be performed: accesses of distinct streams are unordered, and
so are the elements of one access off H pages (R120, R222, R223, R428).
-/
namespace Sys2Proof.Machine

/-! ## Pieces of a store (R121, R222, R401) -/

/-- v with the n bits from lo replaced by x. -/
def putBits {w : Nat} (v : BitVec w) (lo n x : Nat) : BitVec w :=
  BitVec.ofNat w (v.toNat - bits v lo n * 2 ^ lo + x % 2 ^ n * 2 ^ lo)

/-- Whether byte k lies within one of the pieces. -/
def coversByte (ps : List (Nat × Nat)) (k : Nat) : Bool := ps.any (fun p => decide (p.1 ≤ k) && decide (k < p.1 + p.2))

/-- One store has written the pieces (key, bytes): it clears the poison of every unit that they overwrite whole together
(R121, R222, R401). -/
def clearCovered (ps : List (Nat × Nat)) (s : State) : State :=
  s.setMem (mendUnits (fun u n => (List.range n).all (fun j => coversByte ps (u + j))) s.mm)

/-- The pieces of a location. -/
def Loc.pieces (l : Loc) : List (Nat × Nat) := [(l.key, l.n1), (l.key2, l.size - l.n1)]

/-- Two locations share a byte. -/
def Loc.meets (a b : Loc) : Bool :=
  a.pieces.any (fun p => b.pieces.any (fun q => decide (p.1 < q.1 + q.2) && decide (q.1 < p.1 + p.2)))

/-! ## Performing -/

/-- The sum of amoadd in a format, of n bytes (R234). -/
def addTo (ew n m x : Nat) : Nat :=
  if ew = 12 then (faddBits fmtF32 rne m x).1
  else if ew = 13 then (faddBits fmtF64 rne m x).1
  else (m + x) % 256 ^ n

/-- The bytes of a register that a load's element takes, read once more. -/
def Hart.reread (H : Hart) (e : VecElem) (x : Nat) : Hart :=
  if hr : e.reg < 32 then
    { H with vec := { H.vec with v := H.vec.v.set e.reg (putBits H.vec.v[e.reg] (8 * e.off) (8 * e.loc.size) x) } }
  else H

/-- An element is performed: replays that it conflicts with depart, then it reads, writes or adds (R234, R286). An element whose bytes
have become poisoned since its check reads and adds nothing (assumption 78, DESIGN CHOICE). -/
def VecElem.perform (h : Nat) (k : MemKind) (ew : Nat) (e : VecElem) (s : State) : State :=
  let s1 := departLoc (some h) e.loc (k != .load) s
  match k with
  | .load => if poisonedLoc e.loc s1 then s1 else s1.setHart h ((s1.hart h).reread e (readLoc e.loc s1))
  | .store => writeLoc (s1.who h) e.loc e.value s1
  | .add =>
    if poisonedLoc e.loc s1 then s1 else writeLoc (s1.who h) e.loc (addTo ew e.loc.size (readLoc e.loc s1) e.value) s1

/-- Replace the vector accesses of a hart. -/
def setVaccs (h : Nat) (f : List VecAccess → List VecAccess) (s : State) : State :=
  s.setHart h { s.hart h with vaccs := f (s.hart h).vaccs }

/-- The j-th element to do of access n has been performed. -/
def VecAccess.did1 (A : VecAccess) (j : Nat) : VecAccess :=
  { A with todo := A.todo.eraseIdx j, did := A.did ++ ((A.todo[j]?).map (fun e => e.loc.pieces)).getD [] }

/-- The accesses of a hart that are over leave: with its last element a store clears the poison of every unit that its elements
have overwritten whole together (R121, R222). -/
def leaveVaccs (h : Nat) (s : State) : State :=
  let left (A : VecAccess) : Bool := A.todo.isEmpty && !A.going
  let s1 := ((s.hart h).vaccs.filter (fun A => left A && A.kind == .store)).foldl (fun t A => clearCovered A.did t) s
  setVaccs h (fun l => l.filter (fun A => !left A)) s1

/-- The elements that remain of access A are performed in ascending order, m of them at most: a load has read its data already. -/
def performAll (h : Nat) (A : VecAccess) (s : State) : State :=
  let s1 := if A.kind = .load then s else A.todo.foldl (fun t e => e.perform h A.kind A.ew t) s
  setVaccs h (fun l => l.map (fun B =>
    if B.id = A.id then { B with todo := [], did := B.did ++ B.todo.flatMap (fun e => e.loc.pieces) } else B)) s1

/-! ## Order (R152, R222, R223) -/

/-- The access is one of an entry older than the ticket. -/
def VecAccess.older (A : VecAccess) (t : Ticket) : Bool := if A.hand then decide (A.entry < t.hand) else decide (A.entry < t.main)

/-- Access A comes before one of the stream q, of the entry n of a queue, to the bytes of f: accesses of a stream are in order, and
the hart sees its entries in order (R152, R222). -/
def VecAccess.precedes (A : VecAccess) (q n : Nat) (hand : Bool) (f : Loc → Bool) : Bool :=
  A.stream == q || ((A.entry != n || A.hand != hand) && A.todo.any (fun e => f e.loc))

/-- Those of the accesses, oldest first, that are performed with the ones that f selects. -/
def neededVaccs (f : VecAccess → Bool) : List VecAccess → List VecAccess
  | [] => []
  | A :: t =>
    let r := neededVaccs f t
    if f A || r.any (fun B => A.precedes B.stream B.entry B.hand (fun l => B.todo.any (fun e => l.meets e.loc))) then A :: r else r

/-- Perform the vector accesses of the hart that f selects, with those that come before them. -/
def forceVaccs (h : Nat) (f : VecAccess → Bool) (s : State) : State :=
  if (s.hart h).vaccs.isEmpty then s
  else leaveVaccs h ((neededVaccs f (s.hart h).vaccs).foldl (fun t A => performAll h A t) s)

/-- Every access of entries older than a ticket is performed (R246, R275, R311, R328). -/
def forceEntries (h : Nat) (t : Ticket) (s : State) : State := forceVaccs h (fun A => A.older t) s

/-- Every access of a completed entry is performed (R152, R224). -/
def forceDone (h : Nat) (f : VecAccess → Bool) (s : State) : State :=
  forceVaccs h (fun A => A.older (s.hart h).vec.done && f A) s

/-- Every pending access of the hart is performed, of its scalar and its vector side. -/
def forceAll (h : Nat) (s : State) : State := forceVaccs h (fun _ => true) (forceLoads h (fun _ => true) s)

/-- The elements of A that come before its j-th: those that share a byte with it, and on a page with H all before it (R211, R223). -/
def VecAccess.inOrder (A : VecAccess) (j : Nat) : List VecElem :=
  match A.todo[j]? with
  | none => []
  | some e => (A.todo.take j).filter (fun d => d.loc.meets e.loc || (e.loc.host && d.loc.host))

/-- Everything that comes before element e of access A is performed. -/
def forceBeforeElem (h : Nat) (A : VecAccess) (e : VecElem) (s : State) : State :=
  forceVaccs h (fun B => decide (B.id < A.id) && B.precedes A.stream A.entry A.hand e.loc.meets) s

/-- The j-th element to do of the n-th access is performed, unless an element of the access comes before it; accesses that come
before it are performed first (R222, R223). -/
def elementTurn (h n j : Nat) (s : State) : State :=
  match (s.hart h).vaccs[n]? with
  | none => s
  | some A =>
    match A.todo[j]? with
    | none => s
    | some e =>
      if !(A.inOrder j).isEmpty then s
      else
        let s1 := e.perform h A.kind A.ew (forceBeforeElem h A e s)
        leaveVaccs h (setVaccs h (fun l => l.map (fun B => if B.id = A.id then B.did1 j else B)) s1)

/-! ## Dispatching -/

/-- The number in its queue of the entry whose instruction is in progress (R338). -/
def Hart.entryNow (H : Hart) : Nat := if H.trap.vf then H.vec.done.hand else H.vec.done.main

/-- The access of the instruction in progress on a stream, with its kind. -/
def VecAccess.isGoing (A : VecAccess) (q : Nat) (k : MemKind) : Bool := A.going && A.stream == q && A.kind == k

/-- Elements of the instruction in progress join its access (R222). -/
def pushElems (h : Nat) (q : Nat) (k : MemKind) (ew : Nat) (es : List VecElem) (s : State) : State :=
  let H := s.hart h
  if H.vaccs.any (fun A => A.isGoing q k) then
    setVaccs h (fun l => l.map (fun A => if A.isGoing q k then { A with todo := A.todo ++ es } else A)) s
  else
    s.setHart h { H with
      vaccs := H.vaccs ++ [⟨H.nextId, q, H.entryNow, H.trap.vf, k, ew, es, [], true⟩], nextId := H.nextId + 1 }

/-- An element of a store on stream q: at a peer it goes out, here it is to be performed (R222, R364). -/
def storeElem (h q : Nat) (l : Loc) (v : Nat) (s : State) : State :=
  if l.peer.isSome then writeOut (s.who h) l v (departLoc (some h) l true s)
  else pushElems h q .store 0 [⟨l, v, 0, 0⟩] s

/-- The instruction in progress ends: its access has all its elements. -/
def closeVacc (h : Nat) (s : State) : State :=
  if (s.hart h).vaccs.isEmpty then s
  else leaveVaccs h (setVaccs h (fun l => l.map (fun A => { A with going := false })) s)

/-- Every vector access of the hart is performed, its instruction in progress with the elements it has come to. -/
def finishVaccs (h : Nat) (s : State) : State := forceVaccs h (fun _ => true) (closeVacc h s)

/-- Before a read of the bytes at l, on stream q by the entry in progress: what comes before it is performed (R152, R222), and the
replays that it conflicts with depart (R286). -/
def readyToRead (h q : Nat) (l : Loc) (s : State) : State :=
  let H := s.hart h
  departLoc (some h) l false (forceVaccs h (fun A => !A.going && A.precedes q H.entryNow H.trap.vf l.meets) s)

/-- An element of a load on stream q has read its bytes into a register, from a byte on: it may read them again (R222). -/
def loadedElem (h q : Nat) (l : Loc) (reg off : Nat) (s : State) : State :=
  if l.peer.isSome then s else pushElems h q .load 0 [⟨l, 0, reg, off⟩] s

/-- The loads whose registers f selects have read their data: nothing reads it again (R154). -/
def settleLoads (h : Nat) (f : Nat → Bool) (s : State) : State :=
  if (s.hart h).vaccs.isEmpty then s
  else leaveVaccs h (setVaccs h (fun l => l.map (fun A =>
    if A.kind = .load && !A.going then { A with todo := A.todo.filter (fun e => !f e.reg) } else A)) s)

end Sys2Proof.Machine
end

