-- ==== Sys2Proof/Machine/Ending.lean ====
section
/-!
DEFINITION. Ending work: copies that are stopped, tasks that are cancelled, near-bank jobs that are stopped, groups that
lose a member, harts and launches that retire, launches that are terminated (R91 to R93, R255, R278, R310, R326, R327,
R393).
-/
namespace Sys2Proof.Machine

/-! ## Launches -/

/-- The resident launch of a number. -/
def State.launchAt (s : State) (n : Nat) : Option Launch := tfind s.launch.resident n

/-- Replace a resident launch. -/
def State.setLaunch (s : State) (n : Nat) (L : Launch) : State :=
  { s with launch := { s.launch with resident := tput s.launch.resident n L } }

/-- The launch of a hart. -/
def State.launchOf (s : State) (h : Nat) : Option Launch := s.launchAt (s.hart h).place.launch

/-- The placement order of a hart's launch. -/
def State.orderOf (s : State) (h : Nat) : Nat := ((s.launchOf h).map (fun L => L.order)).getD 0

/-- A hart of the launch that runs or waits in its slot, not one that is parked (R350). -/
def Launch.holdsSlot (L : Launch) (n : Nat) (s : State) (h : Nat) : Bool :=
  L.live.contains h && (s.hart h).place.launch == n && !L.parked.contains h

/-- The hart is parked in the launch of a placement order (R350). -/
def State.parkedIn (s : State) (h order : Nat) : Bool :=
  s.launch.resident.any (fun e => e.2.order == order && e.2.parked.contains h)

/-- A field of a launch's record (R75). -/
def Launch.field (L : Launch) (lo n : Nat) : Nat := bits L.record lo n

/-! ## Copies that are stopped (R255) -/

/-- Who the copies of a hart act as (R220). -/
def copyWho (h : Nat) (J : CopyJob) (s : State) : Who := ⟨coreOf h, (s.hart h).place.lctx.toNat, J.level, none, .engine⟩

/-- Stop a channel: every copy ends with an arrival with bit 63 set, and FLT clears (R255). A word that cannot be written
is a fault of the channel, which has ended: it is dropped with nothing logged (R251, R431; assumption 67, DEDUCED). -/
def stopChannel (h c : Nat) (s : State) : State :=
  if hc : c < 32 then
    let C := (s.hart h).chans[c]
    let s0 := forgetAssists (· == copyAgent h c) s
    let s1 := C.copies.foldl (fun t J => (increment (copyWho h J t) J.arrive true t).2) s0
    let H := s1.hart h
    s1.setHart h { H with chans := H.chans.set c { H.chans[c] with
      copies := [], flt := false, fault := none, err := H.chans[c].err || !C.copies.isEmpty } }
  else s

/-- Stop every channel of a hart. -/
def stopChannels (h : Nat) (s : State) : State := (List.range 32).foldl (fun t c => stopChannel h c t) s

/-! ## Tasks -/

/-- The scheduler of a quarter. -/
def State.scheduler (s : State) (q : Nat) : Scheduler := if hq : q < 4 then s.sched[q] else s.sched[0]

/-- Replace a scheduler. -/
def State.setScheduler (s : State) (q : Nat) (Q : Scheduler) : State :=
  if hq : q < 4 then { s with sched := s.sched.set q Q } else s

/-- A field of a task's record (R293). -/
def Task.field (T : Task) (lo n : Nat) : Nat := bits T.record lo n

/-- A task leaves the table for the status list, and what waits on it by an edge goes on (R302, R303). -/
def Scheduler.retire (Q : Scheduler) (T : Task) : Scheduler :=
  { Q with
    tasks := (Q.tasks.filter (fun U => U.seq != T.seq)).map (fun U => { U with edges := U.edges.filter (· != T.seq) })
    past := (T :: Q.past).take 1024 }

/-- The arrival of a task (R300, R310). -/
def taskArrive (T : Task) (err : Bool) (s : State) : State :=
  arrive ⟨T.core, T.ctx, T.level, none, .engine⟩ (BitVec.ofNat 64 (T.field 192 56)) err T.core s

/-- Forget the waiters of a task (R307, R310). -/
def dropTaskWaiters (q seq : Nat) (s : State) : State :=
  { s with sched := Vector.ofFn (fun n =>
    { s.sched[n] with
      waiters := s.sched[n].waiters.filter (fun w => !(w.task.any (fun t => t.1 == q && t.2.1 == seq))) }) }

/-- The waiters of a hart that leaves ev.wait (R307). -/
def dropHartWaiters (h : Nat) (s : State) : State :=
  { s with sched := Vector.ofFn (fun q =>
    { s.sched[q] with waiters := s.sched[q].waiters.filter (fun w => w.hart != some h) }) }

/-- Cancel a task that is waiting or ready (R310). -/
def cancelTask (q : Nat) (T : Task) (s : State) : State :=
  let s1 := s.setScheduler q ((s.scheduler q).retire { T with can := true })
  taskArrive T true (dropTaskWaiters q T.seq s1)

/-- Cancel the tasks of a launch that have not been issued; a task stopped on a fault goes too (R393). -/
def cancelTasks (order : Nat) (s : State) : State :=
  (List.range 4).foldl (fun t q =>
    ((t.scheduler q).tasks.filter (fun T => T.launch == order && (!T.issued || T.flt))).foldl
      (fun t T => cancelTask q T t) t) s

/-- The scheduler holds a task of the launch. -/
def State.hasTask (s : State) (f : Task → Bool) : Bool := s.sched.toList.any (fun Q => Q.tasks.any f)

/-! ## Near-bank jobs -/

/-- nb.stop of a job: a queued or parked one ends at once, a running one at its next safe point (R278). -/
def NbJob.halt (J : NbJob) : NbJob :=
  if J.endCode.isSome then J
  else if J.started && !J.parked then { J with stop := true }
  else { J with endCode := some 0x81 }

/-- Stop the jobs that f selects. -/
def stopJobs (f : NbJob → Bool) (s : State) : State :=
  { s with near := s.near.map (fun e =>
    (e.1, { e.2 with jobs := e.2.jobs.map (fun J => if f J then J.halt else J) })) }

/-! ## Groups (R326, R327) -/

/-- A generation completes when every live member has arrived; held arrivals are applied, once more if they complete
the next generation too (R326). -/
def Group.settle (G : Group) : Group :=
  if G.members ≠ 0 ∧ G.arr = G.members then
    let G1 : Group := { G with arr := G.held, held := 0, gen := G.gen + 1 }
    if G1.arr = G1.members then { G1 with arr := 0, gen := G1.gen + 1 } else G1
  else G

/-- Member m arrives (R326). -/
def Group.arrive (G : Group) (m : Nat) : Group :=
  if G.arr.getLsbD m then { G with held := G.held ||| (1#1024 <<< m) }
  else { G with arr := G.arr ||| (1#1024 <<< m) }.settle

/-- Member m retires (R327). -/
def Group.leave (G : Group) (m : Nat) : Group :=
  let out := ~~~(1#1024 <<< m)
  { G with members := G.members &&& out, arr := G.arr &&& out, held := G.held &&& out }.settle

/-! ## Clearing (R91) -/

/-- Drop the cells and the poison whose keys lie in a range. -/
def clearKeys (lo n : Nat) (ms : MemSys) : MemSys :=
  { ms with
    cells := ms.cells.filter (fun c => !(decide (lo ≤ c.1) && decide (c.1 < lo + n)))
    poison := ms.poison.filter (fun k => !(decide (lo ≤ k) && decide (k < lo + n))) }

/-- Another resident launch has harts, running or parked, on a core that f selects. -/
def State.othersOn (s : State) (n : Nat) (f : Nat → Bool) : Bool :=
  s.launch.resident.any (fun e => e.1 != n && e.2.harts.any (fun h => f (coreOf h)))

/-- Clear a core that a launch held: its windows and accumulators, unless another launch has harts there; the cluster's
memory, unless another launch has harts in the cluster (R91, R350). -/
def clearCore (n core : Nat) (s : State) : State :=
  if s.othersOn n (fun c => c == core) then s
  else
    let m1 := clearKeys (laneKey core 0) (2 ^ 18) (clearKeys (scratchKey core 0) (2 ^ 20) s.mm)
    let m2 := clearKeys (clusterKey (clusterOf core) 0) (2 ^ 22) m1
    (s.setMem m2).setCore core { s.core core with acc := [], accpsn := 0 }

/-- The queue heads that have passed their checks and wait: queue, number and priority (R84). -/
def State.waitingHeads (s : State) : List (Nat × Nat × Nat) :=
  (List.range 64).filterMap (fun q =>
    if hq : q < 64 then
      match s.launch.queues[q].entries with
      | e :: _ => if e.checked then some (q, e.num, bits (e.read.getD 0) 112 3) else none
      | [] => none
    else none)

/-- Cores that fall idle while heads wait are held for those heads (R84). -/
def holdCores (cores : List Nat) (s : State) : State :=
  let heads := s.waitingHeads.map (fun w => (w.1, w.2.1))
  if heads.isEmpty then s
  else { s with launch := { s.launch with held := cores.foldl (fun t c => tput t c heads) s.launch.held } }

/-- The cores that wait for a launch to leave before they retire do so (R394). -/
def retireCores (L : Launch) (s : State) : State :=
  L.cores.foldl (fun t c =>
    let C := t.core c.2
    if C.retiring = some L.order then t.setCore c.2 { C with retired := true, retiring := none } else t) s

/-- The launch leaves the device: the records of its harts are written, their slots fall idle and its cores are cleared (R92, R93,
R394, R409, R410). -/
def releaseLaunch (n : Nat) (L : Launch) (s : State) : State :=
  let s1 := L.harts.foldl (fun t h =>
    if (t.hart h).place.launch = n then
      let u := writeRecords h t
      { u with harts := tdrop u.harts h }
    else t) s
  let s2 := retireCores L (L.cores.foldl (fun t c => clearCore n c.2 t) s1)
  holdCores (L.cores.map (fun c => c.2)) { s2 with launch := { s2.launch with resident := tdrop s2.launch.resident n } }

/-- The arrival word of a launch, in its context (R93, R431). -/
def launchArrive (L : Launch) (err : Bool) (s : State) : State :=
  arrive ⟨0, L.field 116 12, L.level, none, .engine⟩ (BitVec.ofNat 64 (L.field 320 56)) err L.queue s

/-- A hart of the launch, in its slot, has a store or an atomic at a peer that has not answered (R93). -/
def Launch.owesStore (L : Launch) (n : Nat) (s : State) : Bool :=
  L.harts.any (fun h => (s.hart h).place.launch == n && (s.hart h).owes (fun p => p.kind != .load))

/-- A terminated launch whose issued tasks, near-bank jobs and stores have finished increments its word with bit 63 set and
leaves (R393). -/
def finishEnding (n : Nat) (s : State) : State :=
  match s.launchAt n with
  | none => s
  | some L =>
    if L.ending && !s.hasTask (fun T => T.launch == L.order) &&
        !s.near.any (fun e => e.2.jobs.any (fun J => J.launch == L.order)) &&
        !L.owesStore n s then
      releaseLaunch n L (launchArrive L true s)
    else s

/-- Every terminated launch that can leave leaves. -/
def finishEndings (s : State) : State := s.launch.resident.foldl (fun t e => finishEnding e.1 t) s

/-! ## Retiring (R93, R327) -/

/-- A hart has retired: its groups lose it, and with the last hart the launch retires (R93). -/
def retireHart (h : Nat) (s0 : State) : State :=
  let s := finishVaccs h (forceLoads h (fun p => p.kind == .store) s0)
  let H := s.hart h
  let n := H.place.launch
  let s1 := s.setHart h { H with status := .retired, checks := [], loads := [], cmds := [], regs := H.regs.completed }
  match s1.launchAt n with
  | none => s1
  | some L =>
    let L1 := { L with
      live := L.live.filter (· != h)
      groups := L.groups.map (fun g => (g.1, g.2.leave H.place.lvh.toNat)) }
    let s2 := s1.setLaunch n L1
    if L1.live.isEmpty && !L1.ending then releaseLaunch n L1 (launchArrive L1 false s2) else s2

/-- A hart of a terminated launch stops issuing, and its queued and frozen vector work is dropped; a store or an atomic
at a peer is on its way (R393). -/
def Hart.stop (H : Hart) : Hart :=
  let H0 := if H.loop.st = 3 then H.depart H.loop.lpwm.toNat 5 else H
  let H1 := match H0.checks with
    | [] => H0
    | c :: _ => H0.dropTraces c.trNum
  { H1 with
    status := .retired
    checks := []
    regs := { H1.regs with ran := H1.retired }
    loads := H1.loads.filter (fun p => p.kind != .load && p.remote)
    updates := []
    cmds := []
    handBack := none
    mcheck := none
    taskFaults := []
    loadTraps := []
    vec := { H1.vec with inst := none, queue := [], hqueue := [], frozen := none, xlats := [] }
    group := { H1.group with pend := Vector.replicate 4 none }
    trap := { H1.trap with vf := false, tva := false, prq := false } }

/-- A hart stops with its channels; the stores that it has issued are performed (R255, R393). -/
def stopHart (h : Nat) (s : State) : State :=
  let s1 := forgetAssists (fun a => a / 4 == h)
    (dropHartWaiters h (stopChannels h (finishVaccs h (forceLoads h (fun p => p.kind == .store) s))))
  s1.setHart h (s1.hart h).stop

/-- Terminate a resident launch, as one step of the launch unit (R393). -/
def terminateLaunch (n : Nat) (s : State) : State :=
  match s.launchAt n with
  | none => s
  | some L =>
    if L.ending then s
    else
      let s1 := (L.live.filter (fun h => (s.hart h).place.launch == n)).foldl (fun t h => stopHart h t) s
      let s2 := s1.setLaunch n
        { L with ending := true, live := [], parked := [], groups := [], slots := [], owed := [], causes := [] }
      let s3 := stopJobs (fun J => J.launch == L.order) (cancelTasks L.order s2)
      finishEnding n s3

/-- The launch that a core holds: the one whose harts have its slots, or else one with harts parked there (R350, R393). -/
def State.launchOn (s : State) (core : Nat) : Option Nat :=
  let on (f : Launch → Nat → Bool) : Option Nat :=
    (s.launch.resident.find? (fun e => e.2.harts.any (fun h => coreOf h == core && f e.2 h))).map (fun e => e.1)
  (on (fun L h => !L.parked.contains h)).or (on (fun L h => L.parked.contains h))

/-- Terminate the launch that holds a core, if one does (R393). -/
def terminateCore (core : Nat) (s : State) : State :=
  match s.launchOn core with
  | none => s
  | some n => terminateLaunch n s

end Sys2Proof.Machine
end

