-- ==== Sys2Proof/Machine/NearOps.lean ====
section
/-!
DEFINITION. What the threads of a near-bank job have in common: the running job of a unit, a thread that computes, a
job that ends (R261 to R263, R276).
-/
namespace Sys2Proof.Machine

/-- A near-bank unit. -/
def State.unit (s : State) (u : Nat) : NbUnit := tget NbUnit.initial s.near u

/-- Replace a unit. -/
def State.setUnit (s : State) (u : Nat) (U : NbUnit) : State := { s with near := tput s.near u U }

/-- The running job of a unit, if one runs and has not ended. -/
def NbUnit.running (U : NbUnit) : Option NbJob := U.jobs.find? (fun j => j.started && !j.parked && j.endCode.isNone)

/-- Replace a job, by its sequence number. -/
def NbUnit.put (U : NbUnit) (J : NbJob) : NbUnit :=
  { U with jobs := U.jobs.map (fun j => if j.seq = J.seq then J else j) }

/-- The arithmetic thread (true) or the address thread (false). -/
def NbJob.thread (J : NbJob) (x : Bool) : NbThread := if x then J.x else J.a

/-- Replace a thread. -/
def NbJob.setThread (J : NbJob) (x : Bool) (T : NbThread) : NbJob := if x then { J with x := T } else { J with a := T }

/-- The thread goes on behind its instruction (R262). -/
def NbJob.advance (J : NbJob) (x : Bool) : NbJob := J.setThread x { J.thread x with pc := (J.thread x).pc + 1 }

/-- Act on the running job of a unit, when the thread has not halted. -/
def onJob (u : Nat) (x : Bool) (s : State) (f : NbJob → State) : State :=
  match (s.unit u).running with
  | none => s
  | some J => if (J.thread x).halted then s else f J

/-- Put a job back into its unit. -/
def State.putJob (s : State) (u : Nat) (J : NbJob) : State := s.setUnit u ((s.unit u).put J)

/-- The running job ends with a code (R263, R264, R268, R276). -/
def nearEnd (u code : Nat) (s : State) : State :=
  match (s.unit u).running with
  | none => s
  | some J => s.putJob u { J with endCode := some code }

/-- A computing instruction on a near-bank thread: registers are never empty and hold bits are ignored (R261). -/
def nearCompute (u : Nat) (x : Bool) (f : ScalarRegs → ScalarRegs) (s : State) : State :=
  onJob u x s (fun J =>
    s.putJob u ((J.setThread x { J.thread x with regs := f (J.thread x).regs }).advance x))

end Sys2Proof.Machine
end

