-- ==== Sys2Proof/Machine/Ops.lean ====
section
/-!
DEFINITION. The shared operations of the streams: taking an exception and returning from one, the vector queue, and the
skeletons through which every scalar, queued and vector meaning passes (R18, R102 to R108, R332 to R341, R430).
-/
namespace Sys2Proof.Machine

/-! ## Taking an exception (R332 to R338, R340, R341) -/

/-- tinfo with its source and detail (R354). -/
def trapInfo (src det : Nat) : Word := BitVec.ofNat 64 (src * 2 ^ 60 + det % 2 ^ 40)

/-- Loads and amos older than every unconfirmed branch: trap entry waits for them (R334). -/
def Hart.olderLoads (H : Hart) : List PendingLoad :=
  match H.checks with
  | [] => H.loads.filter (fun l => l.kind != PendKind.store)
  | c :: _ => H.loads.filter (fun l => l.kind != PendKind.store && decide (l.id < c.nextId))

/-- lp.end waits for the stores of a replay (R288): trap entry waits for it too (R334). -/
def Hart.awaitsReplay (H : Hart) : Bool := H.loop.endDst.isSome && H.loop.st == 3

/-- Every entry older than a ticket has been performed. -/
def Hart.reached (H : Hart) (t : Ticket) : Bool :=
  decide (t.main ≤ H.vec.done.main) && decide (t.hand ≤ H.vec.done.hand)

/-- Only the destination of the lp.iter is still empty: a confirmation leaves every register full (R283). -/
def Hart.onlyVerdict (H : Hart) (k : BitVec 3) : Bool := (H.regs.empty &&& ~~~(1#40 <<< (32 + k.toNat))) == 0

/-- A loop ends with a verdict awaited: the destination of the lp.iter becomes 0 (R281). -/
def Hart.dropVerdict (H : Hart) : Hart :=
  match H.loop.verdict with
  | some k => H.fillK k false
  | none => H

/-- A demonstration ends with a cause; an awaited verdict answers 0 (R279, R281, R282). -/
def Hart.breachDemo (H : Hart) (dep : Nat) : Hart :=
  let H1 := { H with loop := H.loop.breach dep }
  match H.loop.verdict with
  | some k => if H.loop.st = 1 then H1.fillK k false else H1
  | none => H1

/-- Trap entry must wait for an older producer that does not depend on the vector queue: a load, an amo, an lp.end in
replay, an lp.iter whose verdict can return, a command that has not answered, an event update that waits for no queue entry.
A verdict that waits for another producer does not hold a trap: the trap ends the demonstration (R279, R334). -/
def Hart.trapWaits (H : Hart) : Bool :=
  !H.olderLoads.isEmpty || H.awaitsReplay || H.loop.verdict.any H.onlyVerdict || H.tentative || !H.cmds.isEmpty ||
    H.updates.any (fun u => H.reached u.ticket)

/-- Undo everything beyond the oldest unconfirmed branch (R107, R334). -/
def Hart.cancelYounger (H : Hart) : Hart :=
  match H.checks with
  | [] => H
  | c :: _ =>
    { H.dropTraces c.trNum with
      regs := c.regs
      pc := c.branchPc
      checks := []
      loads := H.loads.filter (fun l => decide (l.id < c.nextId)) }

/-- The sample record of a watched instruction (R409). -/
def Watch.record (w : Watch) (ctx : BitVec 12) : BitVec 512 :=
  let sat (x : Nat) : Nat := min x 0xFFFF
  BitVec.ofNat 512 (bits w.iaddr 0 56 * 2 ^ 392 + w.elem % 65536 * 2 ^ 376 + bits w.free 0 16 * 2 ^ 360 +
    sat w.misses * 2 ^ 344 + sat w.pages * 2 ^ 328 + sat w.lines * 2 ^ 312 + bits w.free 32 16 * 2 ^ 296 +
    w.fn * 2 ^ 292 + w.scls * 2 ^ 288 + ctx.toNat * 2 ^ 256)

/-- The watched instruction ends, by completion or by a trap: a sampled one leaves its record (R409). -/
def Hart.endWatch (H : Hart) : Hart :=
  match H.obs.watch with
  | none => H
  | some w =>
    { H with obs := { H.obs with
      watch := none
      samples := if w.sampled then H.obs.samples ++ [w.record H.place.lctx] else H.obs.samples } }

/-- The vector unit stops at an element boundary: the running instance is frozen, with its vpc in tvpc, its estart in
telem and its g snapshot in tg (R335, R337, R338). -/
def Hart.freeze (H : Hart) : Hart :=
  { H with
    vec := { H.vec with
      frozen := H.vec.inst, inst := none, estart := if H.vec.inst.isSome then 0 else H.vec.estart,
      kept := if H.vec.inst.isSome then H.vec.made else H.vec.kept, xlats := [], armed := false, begun := none }
    trap := { H.trap with
      vf := H.vec.inst.isSome || !H.vec.queue.isEmpty
      tva := H.vec.inst.isSome
      tvpc := if H.vec.inst.isSome then H.vec.vpc else H.trap.tvpc
      telem := if H.vec.inst.isSome then H.vec.estart else H.trap.telem
      tg := if H.vec.inst.isSome then H.vec.g else H.trap.tg } }

/-- The trap record, the registers made full, the level and the handler's address (R336, R337). The resume point is the
oldest scalar instruction that has not completed, or the one after it when skip is set (R127, R334, R341). -/
def Hart.enter (H : Hart) (cause : Nat) (tval info : Word) (skip : Bool) : Hart :=
  let H1 := (H.breachDemo (if cause = 0x11 then 4 else 6)).cancelYounger.endWatch.freeze
  let tpc := if skip then H1.pc + 4 else H1.pc
  { (H1.trace 3 tpc H1.trap.tvec cause) with
    status := .running
    pc := H1.trap.tvec
    plev := 1
    regs := { (if skip then H1.regs.completed else H1.regs) with empty := 0 }
    group := if H1.group.sent then { H1.group with wo := true, sent := false } else H1.group
    trap := { H1.trap with
      tpc := tpc
      tcause := BitVec.ofNat 8 cause
      tval := tval
      tinfo := info
      ppl := H1.plev
      ts := true
      tfe := H1.regs.empty } }

/-- A trap in a trap: the hart stops, the level-0 log takes a machine check, the launch is terminated (R340). The
entry's ADDR and SYN are left open and free. -/
def doubleTrap (h : Nat) (s : State) : State :=
  let H := s.hart h
  let (a, s1) := drawWord s
  let (y, s2) := drawWord s1
  let s3 := logError s2 0 ⟨a.setWidth 56, 5, H.place.lctx.toNat, coreOf h, 1, y.toNat % 65536⟩
  terminateLaunch H.place.launch (stopHart h s3)

/-- Before the handler is entered the vector accesses that have been dispatched are performed, the waiters of a hart that waits in
ev.wait leave, and what its streams ask of the host is forgotten (R307, R335, R341). -/
def leaveWait (h : Nat) (s : State) : State :=
  let s1 := finishVaccs h s
  forgetAssists (fun a => a / 4 == h) (if (s1.hart h).status = .waiting .event then dropHartWaiters h s1 else s1)

/-- Take an exception: wait for older producers, then enter the handler, out of any wait; in a trap it is a double trap. A step
that meets the wait is taken back whole, so what the trap found is found again when it is taken, and once (R214, R334 to R337,
R340; assumption 21). -/
def takeTrap (h cause : Nat) (tval info : Word) (skip : Bool) (s : State) : State :=
  if (s.hart h).trapWaits then { s with blocked := true }
  else if (s.hart h).trap.ts then doubleTrap h s
  else
    let s1 := leaveWait h s
    s1.setHart h ((s1.hart h).enter cause tval info skip)

/-- The detail of a translation fault: the context, the address, the agent (R422). -/
def faultDetail (agent ctx : Nat) (va : Word) : BitVec 192 :=
  BitVec.ofNat 192 (ctx + va.toNat * 2 ^ 64 + agent * 2 ^ 128)

/-- A fault of an agent: in host-assisted mode a translation fault makes it stall until the host answers; none while it
stalls. An agent that waits already goes on doing so, whatever the mode now (R421, R422). -/
def servedFault (agent ctx cause : Nat) (va : Word) (s : State) : Option Nat × State :=
  if cause ≠ 0x06 then (some cause, s)
  else if (s.assistOf agent).isSome then (none, s)
  else if s.handsOver 0 then
    (none, wantHost 1 (faultDetail agent ctx va)
      { s with trust := { s.trust with assists := s.trust.assists ++ [⟨agent, va, none⟩] } })
  else (some cause, s)

/-- What an agent does that may wait for the host: nothing while it waits; it takes the cause that the host has answered, or
else goes on (R422). -/
def serveHost {α : Type} (agent : Nat) (s : State) (rest : α) (take : Nat → Word → State → α) (go : α) : α :=
  match s.assistOf agent with
  | none => go
  | some a =>
    match a.cause with
    | none => rest
    | some c => take c a.va (forgetAssists (· == agent) s)

/-- A trap of one of the streams of a hart, numbered k: taken, unless the host serves it (R422). -/
def streamTrap (h k cause : Nat) (tval info : Word) (skip : Bool) (s : State) : State :=
  match servedFault (streamAgent h k) (s.hart h).place.lctx.toNat cause tval s with
  | (none, s1) => s1
  | (some c, s1) => takeTrap h c tval info skip s1

/-- A trap of the scalar instruction at pc: taken once the instruction is confirmed (R44, R106). -/
def scalarTrap (h cause : Nat) (tval : Word) (skip : Bool) (s : State) : State :=
  if (s.hart h).settled then streamTrap h 0 cause tval (trapInfo 0 0) skip s else s

/-- A trap of the vector instruction at vpc, at the element estart names (R335). -/
def vectorTrap (h cause : Nat) (tval : Word) (s : State) : State := streamTrap h 1 cause tval (trapInfo 1 0) false s

/-- A trap that has just been taken from s is one of an instruction with no element complete: telem is 0 (R43, R429). -/
def noElement (h : Nat) (s t : State) : State :=
  let H := t.hart h
  if H.trap.ts && !(s.hart h).trap.ts then t.setHart h { H with trap := { H.trap with telem := 0 } } else t

/-- A trap in the fetch of the word at vpc or in its shape checks: telem is 0 (R43, R429). -/
def dispatchTrap (h cause : Nat) (tval : Word) (s : State) : State := noElement h s (vectorTrap h cause tval s)

/-- A trap of a class Q entry that the queue performs (R335); one of its shape checks leaves telem 0 (R43, R156). -/
def queueTrap (h cause : Nat) (tval : Word) (s : State) : State :=
  let t := streamTrap h 2 cause tval (trapInfo 2 0) false s
  if cause = 0x02 then noElement h s t else t

/-- Gate an operation of the scalar stream: go on, wait with nothing changed, or trap. -/
def gated (h : Nat) (g : Gate) (s : State) (k : State) : State :=
  match g with
  | .go => k
  | .wait => s
  | .trap c t => scalarTrap h c t false s

/-! ## The queue (R104, R152, R338) -/

/-- The entries the hart's next vblk or class Q instruction joins: the handler queue while a frozen set is held. -/
def Hart.activeQueue (H : Hart) : List QEntry := if H.trap.vf then H.vec.hqueue else H.vec.queue

/-- How many entries it holds. -/
def Hart.queueRoom (H : Hart) : Nat := if H.trap.vf then 4 else 16

/-- Replace the active queue. -/
def Hart.setQueue (H : Hart) (q : List QEntry) : Hart :=
  if H.trap.vf then { H with vec := { H.vec with hqueue := q } } else { H with vec := { H.vec with queue := q } }

/-- The queue position now: the handler queue is ahead of the frozen set (R246, R338). -/
def Hart.position (H : Hart) : Ticket := if H.trap.vf then ⟨H.vec.done.main, H.vec.enq.hand⟩ else H.vec.enq

/-- Append an entry. -/
def Hart.enqueue (H : Hart) (e : QEntry) : Hart :=
  let H1 := H.setQueue (H.activeQueue ++ [e])
  { H1 with vec := { H1.vec with enq :=
      if H.trap.vf then { H.vec.enq with hand := H.vec.enq.hand + 1 } else { H.vec.enq with main := H.vec.enq.main + 1 } } }

/-- One more entry has been performed. -/
def Hart.performed (H : Hart) : Hart :=
  { H with vec := { H.vec with done :=
      if H.trap.vf then { H.vec.done with hand := H.vec.done.hand + 1 }
      else { H.vec.done with main := H.vec.done.main + 1 } } }

/-- The class Q entry at the head has been performed and leaves. -/
def Hart.dequeue (H : Hart) : Hart := (H.setQueue (H.activeQueue.drop 1)).performed

/-- The vector side is idle: no entry and no running instance (R158, R338). -/
def Hart.vectorIdle (H : Hart) : Bool := H.activeQueue.isEmpty && H.vec.inst.isNone

/-- The entry that the queue is performing. -/
def Hart.headEntry (H : Hart) : Option QEntry := H.activeQueue.head?

/-! ## Asynchronous causes (R332, R333, R341, R343) -/

/-- The first channel with an undelivered copy fault (R251, R332). -/
def firstCopyFault (H : Hart) : Option (Nat × Nat × Word) :=
  (List.range 32).findSome? (fun c =>
    if hc : c < 32 then (H.chans[c]).fault.map (fun f => (c, f.1, f.2)) else none)

/-- An asynchronous cause of a hart, with what it delivers. -/
inductive Async where
  | machineCheck (tval : Word)
  | preempt
  | handBack (cause : Nat) (k : Word)
  | copyFault (c cause : Nat) (tval : Word)
  | taskFault (cause handle : Nat) (tval : Word)
  | loadTrap (cause : Nat) (ea : Word) (d : BitVec 5)
  deriving DecidableEq, Repr

/-- A returned access's trap as an asynchronous cause. -/
def LoadTrap.async (l : LoadTrap) : Async := .loadTrap l.cause l.ea l.dst

/-- A pre-emption is pending, and not the hand-back of a departure for it, which takes its place (R287, R343). -/
def Hart.mayPreempt (H : Hart) : Bool := H.trap.prq && !H.handBack.any (fun b => b.1 == 0x11)

/-- The hart as it takes a pre-emption: PRQ clears. A replay in ST 3 departs first; here it has performed every iteration, and
lp.end has not been issued, so no iteration comes back to the hart: nothing is cancelled, and the boundary stays where it is
(R287, R289, R343; assumption 24, DEDUCED). -/
def Hart.forPreempt (H : Hart) : Hart :=
  let H1 := if H.loop.st = 3 then H.endReplay H.loop.lpwm.toNat 4 else H
  { H1 with trap := { H1.trap with prq := false } }

/-- The pending cause of highest priority that may be taken now: while TS is 1 only a machine check or the trap of the
handler's own access; a replay departs before a pre-emption is taken (R287, R332, R340, R343). -/
def Hart.pendingAsync (H : Hart) : Option Async :=
  if H.tentative then none
  else match H.mcheck with
  | some t => some (.machineCheck t)
  | none =>
    if H.trap.ts then (H.loadTraps.find? (fun l => l.hand)).map LoadTrap.async
    else if H.mayPreempt then some .preempt
    else match H.handBack with
      | some (c, k) => some (.handBack c k)
      | none =>
        match firstCopyFault H with
        | some (c, cause, t) => some (.copyFault c cause t)
        | none =>
          match H.taskFaults with
          | (cause, hd, t) :: _ => some (.taskFault cause hd t)
          | [] => H.loadTraps.head?.map LoadTrap.async

/-- The hart with a copy fault delivered. -/
def Hart.clearCopyFault (H : Hart) (c : Nat) : Hart :=
  if hc : c < 32 then { H with chans := H.chans.set c { H.chans[c] with fault := none } } else H

/-- The memory that the hart's fetches see: the bytes as they stood when its launch was placed (R103). -/
def codeView (h : Nat) (s : State) : State :=
  match s.launchOf h with
  | some L => s.setMem { s.mm with cells := L.code, seals := L.codeSeals }
  | none => s

/-- Fetch the word at an address, checked as a read of 4 bytes through a page with X (R103, R429). -/
def fetchWord (h : Nat) (pc : Word) (s : State) : Res Nat :=
  match access (s.who h) pc.toNat 4 .fetch s with
  | .trap c t s1 => .trap c t s1
  | .ok l s1 =>
    let s2 := walkAccess (some h) l.key l.n1 false s1
    if poisonedLoc l s2 then .trap 0x0E pc s2 else .ok (readLoc l (codeView h s2)) (fillLoc l s2)

/-- The word at the hart's pc, looked at without an effect. -/
def peekWord (h : Nat) (s : State) : Option Nat :=
  match fetchWord h (s.hart h).pc s with
  | .ok w _ => some w
  | .trap _ _ _ => none

/-- Under pre-emption the stream resumes behind an idle it waits in or a yield it stands at (R127, R341, R343). -/
def resumesBehind (h : Nat) (s : State) : Bool :=
  (s.hart h).status == .waiting .idle || ((s.hart h).checks.isEmpty && peekWord h s == some yieldWord)

/-- A hand-back of a hart that has moved on: the queue is done first, and the stream resumes at the re-entry address
with the induction registers of iteration k (R287). -/
def Hart.handedBack (H : Hart) (k : Word) : Hart :=
  { H.cancelYounger.setInd k.toNat with pc := H.loop.lpre, handBack := none }

/-- An asynchronous cause is to be taken before a stop: any but a hand-back that waits for the vector queue (R287, R332). -/
def Hart.asyncFirst (H : Hart) : Bool :=
  match H.pendingAsync with
  | none => false
  | some (.handBack _ _) => H.vectorIdle
  | some _ => true

/-- Take a pending asynchronous cause at the boundary before the instruction at pc (R333, R341). -/
def takeAsync (h : Nat) (a : Async) (s : State) : State :=
  let H := s.hart h
  if H.trapWaits then s
  else
    match a with
    | .machineCheck t => takeTrap h 0x12 t (trapInfo 6 0) false (s.setHart h { H with mcheck := none })
    | .preempt =>
      takeTrap h 0x11 0 (trapInfo 6 0) (resumesBehind h s) (s.setHart h H.forPreempt)
    | .handBack c k =>
      if !H.vectorIdle then s
      else if c = 0x11 then
        takeTrap h 0x11 0 (trapInfo 6 0) false
          (s.setHart h { H.handedBack k with trap := { H.trap with prq := false } })
      else takeTrap h 0x0F k (trapInfo 5 0) false (s.setHart h (H.handedBack k))
    | .copyFault c cause t =>
      takeTrap h cause t (trapInfo 3 c) false (s.setHart h (H.clearCopyFault c))
    | .taskFault cause hd t =>
      takeTrap h cause t (trapInfo 4 (hd % 2 ^ 34)) false (s.setHart h { H with taskFaults := H.taskFaults.drop 1 })
    | .loadTrap c ea d =>
      takeTrap h c ea (trapInfo 0 (if c = 0x0E then 32 + d.toNat else 0)) false
        (s.setHart h { H with loadTraps := H.loadTraps.eraseP (fun l => l.cause == c && l.ea == ea && l.dst == d && (l.hand || !H.trap.ts)) })

/-! ## Return from an exception (R339, R340) -/

/-- The scalar destination of a class Q word, as a bit of the tfe layout: setlen, setrows, setfmt, setfmti, vstat and
qstat have one (R101). -/
def queuedDst (w : BitVec 32) : BitVec 40 :=
  let op := w.toNat % 128
  let fn := w.toNat / 2 ^ 24
  let d := w.toNat / 128 % 32
  if d ≠ 0 ∧ ((op = 0x3C ∧ (fn = 0 ∨ fn = 1 ∨ fn = 2 ∨ fn = 4)) ∨ op = 0x3D ∨ (op = 0x4F ∧ fn = 3)) then
    1#40 <<< d
  else 0

/-- Scanned destinations in the layout of tfe. -/
def scanBits (ss : BitVec 32) (kk : BitVec 8) : BitVec 40 := ss.setWidth 40 ||| (kk.setWidth 40 <<< 32)

/-- The registers whose producer is in the frozen set (R336). -/
def Hart.frozenProducers (H : Hart) : BitVec 40 :=
  let i := match H.vec.frozen with
    | some b => scanBits b.scanS b.scanK
    | none => 0
  H.vec.queue.foldl (fun m e => m ||| queuedDst e.word ||| scanBits e.scanS e.scanK) i

/-- The effect of tret (R339). -/
def Hart.leave (H : Hart) : Hart :=
  let regs := { H.regs.completed with empty := (H.regs.empty &&& ~~~H.trap.tfe) ||| (H.trap.tfe &&& H.frozenProducers) }
  let H1 := { H with
    regs := regs
    plev := H.trap.ppl
    pc := H.trap.tpc
    status := .running
    trap := { H.trap with ts := false } }
  if H.trap.vf then
    { H1 with
      trap := { H1.trap with vf := false, tva := false }
      vec := match H.vec.frozen with
        | some b =>
          { H.vec with
            inst := some b, frozen := none, vpc := H.trap.tvpc, estart := H.trap.telem, g := H.trap.tg,
            made := H.vec.kept }
        | none => H.vec }
  else H1

/-! ## Skeletons -/

/-- The end code of a job whose thread meets a word that it may not run: 0x01 (R263), but 0x02 for a setfmti of the
arithmetic thread with a nonzero A or IMM[13] (R264). -/
def nearIllegal (x : Bool) (word : Nat) : Nat := if x && word % 128 == 0x3D && word / 2 ^ 17 % 2 == 0 then 0x02 else 0x01

/-- A word that may not run where it was fetched: cause 0x01 with the word (R18, R42); a near-bank job ends (R263, R264). -/
def wrongClass (word : Nat) (s : State) : State :=
  match s.agent with
  | .scalar h => scalarTrap h 0x01 (BitVec.ofNat 64 word) false s
  | .vector h => vectorTrap h 0x01 (BitVec.ofNat 64 word) s
  | .queue h => queueTrap h 0x01 (BitVec.ofNat 64 word) s
  | .nearBank u x => nearEnd u (nearIllegal x word) s

/-- A meaning of a class S instruction that near-bank threads are not granted: the scalar stream runs it (R18). -/
def onScalar (word : Nat) (s : State) (k : Nat → State) : State :=
  match s.agent with
  | .scalar h => k h
  | _ => wrongClass word s

end Sys2Proof.Machine
end

