-- ==== Sys2Proof/Machine/Operands.lean ====
section
/-!
DEFINITION. Operand forms: immediates, branch targets, the low word of an f32 operand, and the element, mask and
register-group forms of vector operands.
-/
namespace Sys2Proof.Machine

/-- A signed immediate as a word (R11, R12). -/
def simm {n : Nat} (i : BitVec n) : Word := i.signExtend 64

/-- An address plus a signed count of words (R11). -/
def wordTarget {n : Nat} (base : Word) (off : BitVec n) : Word := base + 4 * off.signExtend 64

/-- The f32 operand of a register: bits [31:0] (R98). -/
def f32Of (w : Word) : Nat := w.toNat % 2 ^ 32

/-- A register value for an f32 result: bits [63:32] zero (R98). -/
def f32Word (n : Nat) : Word := BitVec.ofNat 64 (n % 2 ^ 32)

end Sys2Proof.Machine
end

