-- ==== Sys2Proof/Machine/MemOps.lean ====
section
/-!
DEFINITION. Shared operations of accesses: layouts, the stalls a copy and a replay put on the issuing hart, pending
scalar accesses and their performing, the fill of a line, the memory functions of the amo family (R119 to R125, R206,
R208, R220 to R226, R243, R249, R285, R364).
-/
namespace Sys2Proof.Machine

/-! ## Layouts (R243) -/

/-- The extent of a dimension word. -/
def dimExtent (w : Word) : Nat := bits w 40 24

/-- The signed byte stride of a dimension word. -/
def dimStride (w : Word) : Int := (BitVec.ofNat 40 (bits w 0 40)).toInt

/-- How many elements a layout has. -/
def layoutCount (l : List Word) : Nat := l.foldl (fun n w => n * dimExtent w) 1

/-- The byte offset of element j. -/
def layoutOffset : List Word → Nat → Int
  | [], _ => 0
  | w :: t, j => (j % dimExtent w : Nat) * dimStride w + layoutOffset t (j / dimExtent w)

/-- The lowest offset of any element. -/
def layoutLow (l : List Word) : Int := l.foldl (fun o w => o + min 0 (dimStride w * (dimExtent w - 1))) 0

/-- The highest offset of any element. -/
def layoutHigh (l : List Word) : Int := l.foldl (fun o w => o + max 0 (dimStride w * (dimExtent w - 1))) 0

/-- The address of element j of a layout at a base. -/
def layoutAddr (base : Word) (l : List Word) (j : Nat) : Nat := (base + BitVec.ofInt 64 (layoutOffset l j)).toNat

/-! ## Watermark stalls (R249) -/

/-- The element size of a configuration (R245). -/
def cfgSize (cfg : Word) : Nat := 2 ^ bits cfg 9 2

/-- The configuration asks for a reserved slot. -/
def cfgSlotted (cfg : Word) : Bool := cfg.getLsbD 8

/-- The word is a cp.lay of channel c. -/
def isLayOf (c : Nat) (w : BitVec 32) : Bool := bits w 0 7 == 0x50 && bits w 24 8 == 0 && bits w 7 5 == c

/-- The position of the oldest entry of the main queue: an instance that runs or is frozen comes before it. -/
def Hart.mainBase (H : Hart) : Nat :=
  H.vec.done.main + (if H.trap.vf then (if H.vec.frozen.isSome then 1 else 0) else (if H.vec.inst.isSome then 1 else 0))

/-- The position of the oldest entry of the handler queue. -/
def Hart.handBase (H : Hart) : Nat := H.vec.done.hand + (if H.trap.vf && H.vec.inst.isSome then 1 else 0)

/-- A cp.lay of the channel older than the ticket has not been performed. -/
def Hart.layPending (H : Hart) (c : Nat) (t : Ticket) : Bool :=
  (H.vec.queue.take (t.main - H.mainBase)).any (fun e => isLayOf c e.word) ||
    (H.vec.hqueue.take (t.hand - H.handBase)).any (fun e => isLayOf c e.word)

/-- n bytes at virtual address a lie at or above the watermark of a copy of channel c (R249, R258). -/
def Hart.copyHolds (H : Hart) (c : Nat) (C : Channel) (J : CopyJob) (a n : Nat) : Bool :=
  (!cfgSlotted J.cfg || spaceOf a == .scratch) &&
    let sz := cfgSize J.cfg
    match J.layouts with
    | some p =>
      (List.range (layoutCount p.dst)).any (fun j =>
        decide (C.wm ≤ j * sz) && decide (a < layoutAddr J.dst p.dst j + sz) && decide (layoutAddr J.dst p.dst j < a + n))
    | none =>
      (J.taken.isNone && H.layPending c J.ticket) ||
        match J.taken.getD C.layouts with
        | none => false
        | some p =>
          let lo := (J.dst.toNat : Int) + layoutLow p.dst
          let hi := (J.dst.toNat : Int) + layoutHigh p.dst + sz
          decide ((a : Int) < hi) && decide (lo < (a + n : Nat))

/-- An access of the hart to n bytes at a stalls on one of its copies that f selects. -/
def Hart.copyStalls (H : Hart) (f : CopyJob → Bool) (a n : Nat) : Bool :=
  (List.range 32).any (fun c =>
    if hc : c < 32 then (H.chans[c]).copies.any (fun J => f J && H.copyHolds c H.chans[c] J a n) else false)

/-- An access of the hart's own to n bytes at a waits: for one of its copies, or for its replay (R249, R285). -/
def ownStalls (h a n : Nat) (kind : Acc) (s : State) : Bool :=
  (s.hart h).copyStalls (fun _ => true) a n || (s.hart h).replayHoldsAt h a n kind s

/-! ## Caches (R206, R208) -/

/-- Scalar accesses of this location may use the L1 (R206). -/
def Loc.cacheable (l : Loc) : Bool := l.cached1

/-- The lines of the set of a line in an L1: 64 KiB in 4 ways give 256 sets, chosen by the low bits of the line number
(R206; the choice of the bits is assumption 63). -/
def l1Set (ln : Nat) (l : List Nat) : List Nat := l.filter (fun x => x % 256 == ln % 256)

/-- A line enters the hart's L1; in a full set it takes the place of one of the four, a free choice (R206). -/
def putL1 (h ln : Nat) (s : State) : State :=
  let H := s.hart h
  if H.l1.contains ln || decide ((l1Set ln H.l1).length < 4) then s.setHart h { H with l1 := ninsert H.l1 ln }
  else
    let (w, s1) := drawWord s
    let out := (l1Set ln H.l1).getD (w.toNat % 4) 0
    s1.setHart h { H with l1 := ninsert (H.l1.filter (· != out)) ln }

/-- A load fills the whole line of its L1 from the home L2; copies elsewhere are invalidated (R206, R208). -/
def fillLine (h ln slot : Nat) (s : State) : State :=
  let old := tget L2Line.absent s.mm.l2 ln
  let s1 := { s with harts := dropL1 ln old.presence (some h) s.harts }
  putL1 h ln (putLine ln { old with
    valid := 15, psn := fillPsn ln old 15 s.mm, presence := 1#8 <<< (clusterOf (coreOf h) % 8), slot := old.tag slot } s1)

/-- The line of n bytes is in the hart's L1, or their sectors are in the home L2 (R106). -/
def cacheHit (h k n : Nat) (s : State) : Bool :=
  (s.hart h).l1.contains (k / 64) ||
    (let m := sectorMask (k / 64) k n
     (tget L2Line.absent s.mm.l2 (k / 64)).valid &&& m == m)

/-- An access of the hart conflicts with the replay of another (R286). -/
def anyConflict (h k n : Nat) (write : Bool) (s : State) : Bool := s.harts.any (conflicting (some h) k n write s)

/-- Whether an access is younger than an unconfirmed branch, or than a confirmed loop whose replay may still depart (R107, R287). -/
def Hart.speculative (H : Hart) (id : Nat) : Bool :=
  H.checks.any (fun c => decide (c.nextId ≤ id)) || (H.tentative && decide (H.loop.confId ≤ id))

/-- The accesses of p's stream up to p itself. -/
def PendingLoad.upTo (p q : PendingLoad) : Bool := decide (q.id ≤ p.id) && q.stream == p.stream

/-- A speculative access that f selects would make a replay depart: it waits (R107). -/
def Hart.specConflict (H : Hart) (h : Nat) (f : PendingLoad → Bool) (s : State) : Bool :=
  H.loads.any (fun q => f q && q.due && H.speculative q.id && anyConflict h q.key q.size (q.kind != .load) s)

/-- A load that executes beyond an unconfirmed branch: one of the lane window or the core scratchpad, or one whose
translation is cached with its A bit set, of a page without H, S or U, that hits the L1 or the home L2; it walks nowhere,
marks nothing, and makes no replay depart (R106, R107, R215). -/
def specLoad (h a size : Nat) (s : State) : Option (Loc × State) :=
  let w := s.who h
  match spaceOf a with
  | .translated =>
    match tfind s.mm.ctxs w.ctx, tlbFind w .read a s.mm with
    | some ent, c :: _ =>
      if ctxOpen ent && decide (ctxKey ent < 1024) && permits c.pte .read w.level && c.pte &&& Acc.read.marks == Acc.read.marks
      then
        let x : Xlat := ⟨ptePa c.pte + a % pageBytes (ebits c.pte 56 3), c.pte, ent⟩
        let l := locate size x x size s
        if !x.refused size s && !l.host && !x.sealed && l.cacheable && cacheHit h l.key size s && !anyConflict h l.key size false s
        then some (l, s)
        else none
      else none
    | _, _ => none
  | .lane | .scratch =>
    match access w a size .read s with
    | .ok l s1 => some (l, s1)
    | .trap _ _ _ => none
  | _ => none

/-- A pending access of the hart. -/
def Hart.push (H : Hart) (p : PendingLoad) : Hart :=
  { H with loads := H.loads ++ [{ p with id := H.nextId }], nextId := H.nextId + 1 }

/-- The pending access of a location. -/
def Loc.pending (l : Loc) (kind : PendKind) (d : BitVec 5) (ea : Word) (signed : Bool) (q : Nat) : PendingLoad :=
  { id := 0, kind := kind, dst := d, ea := ea, loc := l, signed := signed, stream := q, remote := l.peer.isSome, op := 0,
    data := 0, cmp := 0, value := none, poison := false, err := false }

/-- A load whose checks have passed in s: a hit of the L1 may deliver at once, after the older accesses of its stream; any
other load empties d and waits for its data (R101, R107, R120). -/
def loadFrom (h size : Nat) (signed : Bool) (q : Nat) (ea : Word) (d : BitVec 5) (l : Loc) (s : State) : State :=
  let may := l.cacheable && (s.hart h).l1.contains (l.key / 64) && !poisonedLoc l s && !(s.hart h).specConflict h (onStream q) s
  let (hit, s1) := if may then drawBool s else (false, s)
  if hit then
    let s2 := departConflicts (some h) l.key size false (forceLoads h (onStream q) s1)
    s2.setHart h ((s2.hart h).putS d (extendLoad size signed (readLoc l s2))).advance
  else s1.setHart h (((s1.hart h).markS d).push (l.pending .load d ea signed q)).advance

/-- A scalar load from ea: the stalls, the checks, the access; what no settled load may do, a speculative one does not
(R106, R119, R120). -/
def loadAt (h size : Nat) (signed : Bool) (q : Nat) (ea : Word) (d : BitVec 5) (s : State) : State :=
  let H := s.hart h
  if H.copyStalls (fun _ => true) ea.toNat size || H.owes (onStream q) then s
  else if H.settled then
    match access (s.who h) ea.toNat size .read s with
    | .trap c t s1 => scalarTrap h c t false s1
    | .ok l s1 => if H.replayHoldsLoc h l s then s else loadFrom h size signed q ea d l s1
  else
    match specLoad h ea.toNat size s with
    | none => s
    | some (l, s1) => if H.replayHoldsLoc h l s then s else loadFrom h size signed q ea d l s1

/-- A scalar store of the low bytes of v at ea: its checks, then it waits to be performed, here or at a peer (R121, R122,
R364). -/
def storeAt (h size : Nat) (q : Nat) (ea v : Word) (s : State) : State :=
  let H := s.hart h
  if H.copyStalls (fun _ => true) ea.toNat size || H.owes (onStream q) then s
  else
    match access (s.who h) ea.toNat size .write s with
    | .trap c t s1 => scalarTrap h c t false s1
    | .ok l s1 =>
      if H.replayHoldsLoc h l s then s
      else s1.setHart h ((s1.hart h).push { l.pending .store 0 ea false q with data := v }).advance

/-! ## amo (R123 to R125) -/

/-- The operations of R24. -/
inductive AmoOp where
  | addW | addD | minD | maxD | minuD | maxuD | swapD | casD | faddS | faddD
  deriving DecidableEq, Repr

/-- The bytes of an operation. -/
def AmoOp.size : AmoOp → Nat
  | .addW => 4
  | .faddS => 4
  | _ => 8

/-- The new value from the old value m, the operand b and the compare value c (R123, R125). -/
def AmoOp.new (op : AmoOp) (m : Nat) (b c : Word) : Nat :=
  let w := BitVec.ofNat 64 m
  match op with
  | .addW => (m + b.toNat) % 2 ^ 32
  | .addD => (w + b).toNat
  | .minD => if w.toInt ≤ b.toInt then m else b.toNat
  | .maxD => if w.toInt ≤ b.toInt then b.toNat else m
  | .minuD => if m ≤ b.toNat then m else b.toNat
  | .maxuD => if m ≤ b.toNat then b.toNat else m
  | .swapD => b.toNat
  | .casD => if w = c then b.toNat else m
  | .faddS => (faddBits fmtF32 rne m (f32Of b)).1
  | .faddD => (faddBits fmtF64 rne m b.toNat).1

/-- What s[D] takes: add.w sign-extends, fadd.s zero-extends (R123). -/
def AmoOp.old (op : AmoOp) (m : Nat) : Word := extendLoad op.size (op == .addW) m

/-- The number of an operation (R24). -/
def AmoOp.num : AmoOp → Nat
  | .addW => 0 | .addD => 1 | .minD => 2 | .maxD => 3 | .minuD => 4
  | .maxuD => 5 | .swapD => 6 | .casD => 7 | .faddS => 8 | .faddD => 9

/-- The operation of a number. -/
def AmoOp.of : Nat → AmoOp
  | 0 => .addW | 1 => .addD | 2 => .minD | 3 => .maxD | 4 => .minuD
  | 5 => .maxuD | 6 => .swapD | 7 => .casD | 8 => .faddS | _ => .faddD

/-- Perform an amo at a location: the value returned, and whether the old value was poisoned, in which case nothing is
written. -/
def amoPerform (w : Who) (l : Loc) (op : AmoOp) (b c : Word) (s : State) : Word × Bool × State :=
  let m := readLoc l s
  if poisonedLoc l s then (0, true, s) else (op.old m, false, writeLoc w l (op.new m b c) s)

/-- An amo at ea: performed at issue, in q0 order; its old value returns later (R101, R123, R124). An uncached host page
refuses it (R209). -/
def amoAt (h : Nat) (op : AmoOp) (ea b c : Word) (d : BitVec 5) (s : State) : State :=
  let H := s.hart h
  if H.copyStalls (fun _ => true) ea.toNat op.size || H.owes (onStream 0) then s
  else
    match accessBy (s.who h) ea.toNat op.size .amo s with
    | .trap cause t s1 => scalarTrap h cause t false s1
    | .ok l s1 =>
      if l.uncached && isHostPa l.key then scalarTrap h 0x07 ea false s1
      else if H.replayHoldsLoc h l s then s
      else
        let s2 := forceLoads h (onStream 0) s1
        let p := { l.pending .amo d ea false 0 with op := op.num, data := b, cmp := c }
        if l.peer.isSome then s2.setHart h (((s2.hart h).markS d).push p).advance
        else
          let (v, bad, s3) := amoPerform (s2.who h) l op b c s2
          s3.setHart h (((s3.hart h).markS d).push { p with value := some v, poison := bad }).advance

/-! ## Returns (R101, R119, R123, R364) -/

/-- A returned access traps: the trap waits to be taken (R119, R334). -/
def Hart.noteTrap (H : Hart) (cause : Nat) (p : PendingLoad) : Hart :=
  { H with loadTraps := H.loadTraps ++ [⟨cause, p.ea, p.dst, H.trap.ts⟩] }

/-- The data of the n-th pending access, of the given kind, returns: it fills its destination and the line, or its trap is
noted once it is confirmed (R119, R206, R364). -/
def dataReturn (h n : Nat) (kind : PendKind) (s : State) : State :=
  match (s.hart h).loads[n]? with
  | none => s
  | some p =>
    if p.kind ≠ kind ∨ p.remote then s
    else if p.value.isNone && ((s.hart h).owes p.upTo || (s.hart h).specConflict h p.upTo s) then s
    else
      let s1 := forceLoads h p.upTo s
      let H := s1.hart h
      match H.loads.findIdx? (fun q => q.id == p.id) with
      | none => s
      | some m =>
        match H.loads[m]? with
        | none => s
        | some r =>
          if r.poison || r.err then
            if H.speculative r.id then s1
            else s1.setHart h ((H.dropLoad m).noteTrap (if r.err then 0x07 else 0x0E) r)
          else
            let s2 := s1.setHart h ((H.dropLoad m).fillS (some r.id) r.dst (r.value.getD 0))
            if r.loc.cacheable && r.kind == .load then fillLine h (r.key / 64) r.loc.slot s2 else s2

/-- A turn performs the n-th pending access with the older ones of its stream, when none of them is at a peer (R120,
R122). -/
def performTurn (h n : Nat) (s : State) : State :=
  match (s.hart h).loads[n]? with
  | none => s
  | some p => if p.remote || (s.hart h).owes p.upTo || (s.hart h).specConflict h p.upTo s then s else forceLoads h p.upTo s

/-- The answer of a peer to the n-th pending access, p, after everything older of its stream (R364). -/
def answerAt (h n k : Nat) (p : PendingLoad) (s : State) : State :=
  let H := s.hart h
  if k = 1 then
    if p.kind = .store then s.setHart h ((H.dropLoad n).noteTrap 0x07 p)
    else s.setHart h (H.setLoad n { p with remote := false, err := true, value := some 0 })
  else
    match p.kind with
    | .store =>
      let s1 := writeLoc (s.who h) p.loc (p.data.toNat % 256 ^ p.size) s
      s1.setHart h ((s1.hart h).dropLoad n)
    | .load =>
      s.setHart h (H.setLoad n { p with
        remote := false, value := some (extendLoad p.size p.signed (readLoc p.loc s)), poison := k == 2 })
    | .amo =>
      if k = 2 then s.setHart h (H.setLoad n { p with remote := false, poison := true, value := some 0 })
      else
        let (v, bad, s1) := amoPerform (s.who h) p.loc (AmoOp.of p.op) p.data p.cmp s
        s1.setHart h ((s1.hart h).setLoad n { p with remote := false, poison := bad, value := some v })

/-- The accesses before the n-th that are of the stream q are performed. -/
def forceBefore (h n q : Nat) (s : State) : State := forceFrom h (onStream q) n 0 s

/-- Where the n-th pending access of s stands once those before it have been performed: performed stores have left. -/
def placeAfter (h n : Nat) (s s1 : State) : Nat := n - ((s.hart h).loads.length - (s1.hart h).loads.length)

/-- A peer answers the n-th pending access: 0 performed, 1 error, 2 poisoned. It waits for the answer of an older one of its
stream, and the local ones among those are performed before it (R120, R122, R364). -/
def remoteAnswer (h n k : Nat) (s : State) : State :=
  let H := s.hart h
  match H.loads[n]? with
  | none => s
  | some p =>
    if !p.remote || (H.loads.take n).any (fun q => onStream p.stream q && q.remote) then s
    else
      let s1 := forceBefore h n p.stream s
      answerAt h (placeAfter h n s s1) k p s1

/-- The peer is lost: a load or amo gets poisoned data, a store is dropped and logged; the spec gives the entry no TYPE,
so it is free (R364, R403). -/
def peerLost (h : Nat) (peer : Nat → Bool) (s : State) : State :=
  let H := s.hart h
  let hit (p : PendingLoad) : Bool := p.remote && (peerOf p.key).any peer
  let s1 := (H.loads.filter (fun p => hit p && p.kind == PendKind.store)).foldl (fun t p =>
    dropRemote H.place.lctx.toNat (coreOf h) p.key t) s
  s1.setHart h { H with
    loads := (H.loads.filter (fun p => !(hit p && p.kind == PendKind.store))).map (fun p =>
      if hit p then { p with remote := false, poison := true, value := some 0 } else p) }

end Sys2Proof.Machine
end

