-- ==== Sys2Proof/Machine/Tile.lean ====
section
/-!
DEFINITION. Tiles of the vector register file: formats and their units, capacity, reading and writing units, footprints,
active elements (R38, R43, R159 to R163, R171, R175).
-/
namespace Sys2Proof.Machine

/-! ## Formats (R38, R162) -/

/-- The width in bits of an unblocked format. -/
def ewBits (ew : Nat) : Nat :=
  if ew < 8 then 8 * 2 ^ (ew % 4) else if ew < 10 then 8 else if ew < 12 then 16 else if ew = 12 then 32 else 64

/-- The format is blocked: q4n or e4m3b. -/
def ewBlocked (ew : Nat) : Bool := decide (14 ≤ ew)

/-- The format is a signed integer. -/
def ewSigned (ew : Nat) : Bool := decide (ew < 4)

/-- How rows of a format lie in registers: bytes of a unit (an element or a cell), units of a register, elements of a
unit. -/
structure Geometry where
  unit  : Nat
  per   : Nat
  block : Nat
  deriving DecidableEq, Repr

/-- The visible bytes of a register (R160, R162). -/
def regBytes (prot : Bool) : Nat := if prot then 1024 else 2048

/-- The elements of a block (R140, R143). A BL that a kernel write left in fmt against R156 counts as its code says for e4m3b, and
for nothing under another EW (assumption 79, DESIGN CHOICE). -/
def blockOf (ew bl : Nat) : Nat := if ew = 14 then 64 else if ew = 15 then 32 * 2 ^ bl else 1

/-- The geometry of a format and a block length code. -/
def geometry (ew bl : Nat) (prot : Bool) : Geometry :=
  let u := if ew = 14 then 33 else if ew = 15 then 1 + 32 * 2 ^ bl else ewBits ew / 8
  ⟨u, regBytes prot / u, blockOf ew bl⟩

/-! ## fmt (R156) -/

def VecState.ew (V : VecState) : Nat := bits V.fmt 0 5
def VecState.gf (V : VecState) : Nat := 2 ^ bits V.fmt 5 2
def VecState.bl (V : VecState) : Nat := bits V.fmt 7 2
def VecState.sat (V : VecState) : Bool := V.fmt.getLsbD 9
def VecState.rm (V : VecState) : Nat := bits V.fmt 10 3
def VecState.ill (V : VecState) : Bool := V.fmt.getLsbD 63

/-- The geometry under fmt. -/
def VecState.geo (V : VecState) (prot : Bool) : Geometry := geometry V.ew V.bl prot

/-- Elements per row that fmt allows (R162). -/
def VecState.capacity (V : VecState) (prot : Bool) : Nat := V.gf * (V.geo prot).per * (V.geo prot).block

/-- A requested image is well formed (R156). -/
def fmtWellFormed (v : Word) : Bool :=
  let ew := bits v 0 5
  let bl := bits v 7 2
  bits v 13 51 == 0 && decide (ew ≤ 15) && decide (bits v 10 3 ≤ 4) && decide (bl ≤ 2) &&
    (ew == 15 || bl == (if ew = 14 then 1 else 0))

/-- Units per row. -/
def VecState.rowUnits (V : VecState) (g : Geometry) : Nat := V.len.toNat / g.block

/-- Units of the tile (R171, R175). -/
def VecState.units (V : VecState) (g : Geometry) : Nat := V.rows.toNat * V.rowUnits g

/-- The units that vbr, vjoin and vend count: elements while ILL is set (R173). A len that a kernel write left off a block
counts its whole blocks, and an EW that it left reserved counts elements (assumption 66, DESIGN CHOICE). -/
def VecState.liveUnits (V : VecState) (prot : Bool) : Nat :=
  if V.ill then V.rows.toNat * V.len.toNat else V.units (V.geo prot)

/-! ## Registers as bytes (R160, R162) -/

/-- n bytes of a register from byte o. -/
def regRead (R : Vector VReg 32) (r o n : Nat) : Nat := if hr : r < 32 then bits R[r] (8 * o) (8 * n) else 0

/-- The n parts from number p on. -/
def partsFrom (p n : Nat) : LaneParts := BitVec.ofNat 18464 ((2 ^ n - 1) * 2 ^ p)

/-- The parts that n bytes of register r from byte o, that bits lo to lo + n − 1 of mask m, that the side word of r lie in. -/
def regParts (r o n : Nat) : LaneParts := if n = 0 then 0 else partsFrom (128 * r + o / 16) ((o + n - 1) / 16 - o / 16 + 1)
def maskParts (m lo n : Nat) : LaneParts :=
  if n = 0 then 0 else partsFrom (4096 + 2048 * (m - 1) + lo / 8) ((lo + n - 1) / 8 - lo / 8 + 1)
def sidePart (r : Nat) : LaneParts := partsFrom (18432 + r) 1

/-- Register i, in the layout of vdirty, has been written: it is dirty, and the producer of the parts p is the instruction in
progress (R155, R397). -/
def VecState.noteWrite (V : VecState) (i : Nat) (p : LaneParts) : VecState :=
  { V with
    vdirty := V.vdirty ||| 1#64 <<< i
    made := { V.made with now := V.made.now ||| p }
    kept := ⟨V.kept.done &&& ~~~p, V.kept.now &&& ~~~p⟩ }

/-- Replace n bytes of a register from byte o, and note it (R155). -/
def VecState.regWrite (V : VecState) (r o n x : Nat) : VecState :=
  if hr : r < 32 then { V with v := V.v.set r (putBits V.v[r] (8 * o) (8 * n) x) }.noteWrite r (regParts r o n) else V

/-- The side word of a register. -/
def VecState.sideAt (V : VecState) (r : Nat) : BitVec 32 := if hr : r < 32 then V.side[r] else 0

/-- Set the side word of a register. -/
def VecState.setSide (V : VecState) (r : Nat) (x : BitVec 32) : VecState :=
  if hr : r < 32 then { V with side := V.side.set r x }.noteWrite r (sidePart r) else V

/-- The register that holds unit u of row r of the field F (R159, R162). -/
def unitReg (g : Geometry) (gf F r u : Nat) : Nat := F + r * gf + u / g.per

/-- Unit u of row r of the field F. -/
def readUnit (R : Vector VReg 32) (g : Geometry) (gf F r u : Nat) : Nat :=
  regRead R (unitReg g gf F r u) (u % g.per * g.unit) g.unit

/-- Write unit u of row r of the field F. A cell also clears the bytes beyond the last cell of its register (R162); a
destination register that receives no active cell keeps them (assumption 66, DESIGN CHOICE). -/
def VecState.putUnit (V : VecState) (g : Geometry) (prot : Bool) (F r u x : Nat) : VecState :=
  let reg := unitReg g V.gf F r u
  let V1 := V.regWrite reg (u % g.per * g.unit) g.unit x
  if g.block = 1 then V1 else V1.regWrite reg (g.per * g.unit) (regBytes prot - g.per * g.unit) 0

/-! ## Masks and active units (R163, R171) -/

/-- Mask m; m0 is all-true (R151). -/
def VecState.maskAt (V : VecState) (m : BitVec 3) : Mask := if m = 0 then BitVec.allOnes 16384 else V.m[m.toNat]

/-- Replace mask m, of which the n bits from lo are written, and note it. -/
def VecState.setMask (V : VecState) (m : BitVec 3) (x : Mask) (lo n : Nat) : VecState :=
  if m = 0 then V else { V with m := V.m.set m.toNat x }.noteWrite (31 + m.toNat) (maskParts m.toNat lo n)

/-- The path mask of the running instance. -/
def VecState.path (V : VecState) : Mask := (V.inst.map (fun b => b.path)).getD 0

/-- Unit i is live: on the path. -/
def VecState.live (V : VecState) (i : Nat) : Bool := V.path.getLsbD i

/-- Unit i is active under mask m. -/
def VecState.active (V : VecState) (m : BitVec 3) (i : Nat) : Bool := V.live i && (V.maskAt m).getLsbD i

/-! ## The shape rules (R43, R159) -/

/-- The rules that only a kernel write can break, and ILL; a reserved EW is ill-formed wherever it stands (R38, R43, R176). -/
def VecState.shapeOk (V : VecState) (prot : Bool) : Bool :=
  !V.ill && decide (V.ew < 16) && V.rows != 0 && decide (V.rows.toNat * V.gf ≤ 8) && decide (V.len.toNat ≤ V.capacity prot) &&
    V.len.toNat % blockOf V.ew V.bl == 0

/-- The registers of a footprint. -/
def VecState.span (V : VecState) : Nat := V.rows.toNat * V.gf

/-- A vector register field is a multiple of GF, and its footprint ends at or below v31. -/
def VecState.fieldOk (V : VecState) (F : Nat) : Bool := F % V.gf == 0 && decide (F + V.span ≤ 32)

/-- How a destination may overlap a source (R177). -/
inductive Overlap where
  | same
  | disjoint
  deriving DecidableEq, Repr

/-- A destination and a source obey the rule. -/
def VecState.overlapOk (V : VecState) (o : Overlap) (d F : Nat) : Bool :=
  (o == .same && d == F) || decide (d + V.span ≤ F) || decide (F + V.span ≤ d)

end Sys2Proof.Machine
end

