-- ==== Sys2Proof/Machine/VecOps.lean ====
section
/-!
DEFINITION. The frame of every vector instruction: bindings and their chunks, the dispatch checks, the sweep over the
units of the tile with its stops, and completion (R43, R159, R171, R175 to R179, R219, R237 to R239, R351, R412).
-/
namespace Sys2Proof.Machine

/-! ## Patterns and bindings (R235 to R239) -/

/-- The layout of a pattern. -/
def patLayout (p : BitVec 512) : List Word :=
  ([bits p 64 64, bits p 128 64, bits p 192 64].take (bits p 264 3)).map (BitVec.ofNat 64)

/-- Bytes of an element. -/
def patSize (p : BitVec 512) : Nat := 2 ^ bits p 256 2

/-- A write stream. -/
def patWrites (p : BitVec 512) : Bool := bits p 267 1 == 1

/-- How many elements the stream has. -/
def patCount (p : BitVec 512) : Nat := layoutCount (patLayout p)

/-- The address of element j. -/
def patAddr (p : BitVec 512) (j : Nat) : Nat := layoutAddr (BitVec.ofNat 64 (bits p 0 64)) (patLayout p) j

/-- A record obeys the map (R235). -/
def patOk (p : BitVec 512) : Bool :=
  let nd := bits p 264 3
  bits p 272 240 == 0 && bits p 258 6 == 0 && bits p 268 4 != 0 && decide (bits p 268 4 ≤ 8) && nd != 0 &&
    decide (nd ≤ 3) && (patLayout p).all (fun w => dimExtent w != 0) &&
    (decide (2 ≤ nd) || bits p 128 64 == 0) && (decide (3 ≤ nd) || bits p 192 64 == 0)

/-- The binding is to a channel. -/
def Binding.onChannel (b : Binding) : Bool := b.operand.getLsbD 63

/-- The stream or channel bound. -/
def Binding.num (b : Binding) : Nat := bits b.operand 0 5

/-- The binding emits what is written to its range. -/
def Binding.writes (b : Binding) : Bool := !b.onChannel && patWrites b.pattern

/-- The bytes of a chunk (R238). -/
def Binding.bytes (b : Binding) : Nat := b.count * 2048

/-- The elements of a chunk of a stream. -/
def Binding.elems (b : Binding) : Nat := b.bytes / patSize b.pattern

/-- The bytes of a part. -/
def ChanPart.bytes (p : ChanPart) : Nat := layoutCount p.layout * p.size

/-- Where byte n of the parts lies: the core whose windows its address names, and the address (R238, R258). -/
def partAddr : List ChanPart → Nat → Option (Nat × Nat)
  | [], _ => none
  | p :: t, n =>
    if n < p.bytes then some (p.core, layoutAddr p.dst p.layout (n / p.size) + n % p.size) else partAddr t (n - p.bytes)

/-- A stream of a hart. -/
def Hart.stream (H : Hart) (q : Nat) : StreamState := if hq : q < 16 then H.streams[q] else H.streams[0]

/-- Replace a stream. -/
def Hart.setStream (H : Hart) (q : Nat) (S : StreamState) : Hart :=
  if hq : q < 16 then { H with streams := H.streams.set q S } else H

/-- A channel of a hart. -/
def Hart.chan (H : Hart) (c : Nat) : Channel := if hc : c < 32 then H.chans[c] else H.chans[0]

/-- Replace a channel. -/
def Hart.setChan (H : Hart) (c : Nat) (C : Channel) : Hart :=
  if hc : c < 32 then { H with chans := H.chans.set c C } else H

/-- The bytes of a channel binding that are written: those of the copies that are complete, and those below the watermark
of the one that runs, if it was accepted after the binding was made (R238, R249). -/
def Hart.covered (H : Hart) (b : Binding) : Nat :=
  let C := H.chan b.num
  let running := C.copies.head?.any (fun J => J.layouts.isSome) && !b.parts.isEmpty
  let total := b.parts.foldl (fun n p => n + p.bytes) 0
  if running then total - (b.parts.getLast?.map (fun p => p.bytes)).getD 0 + C.wm else total

/-- The binding has ended (R240). One of a channel is ended while every chunk of its copies has been consumed, before the first copy
too, and a later copy ends that (assumption 79, DESIGN CHOICE). -/
def Hart.ended (H : Hart) (b : Binding) : Bool :=
  if b.onChannel then
    (H.chan b.num).copies.isEmpty && decide (b.parts.foldl (fun n p => n + p.bytes) 0 ≤ b.chunks * b.bytes)
  else decide (patCount b.pattern ≤ (H.stream b.num).done)

/-- The binding whose range a field names, if it is one that a read consumes. -/
def Hart.sourceBinding (H : Hart) (F : Nat) : Option Binding := H.binds.find? (fun b => b.base == F && !b.writes)

/-- The write binding whose range a field names. -/
def Hart.sinkBinding (H : Hart) (F : Nat) : Option Binding := H.binds.find? (fun b => b.base == F && b.writes)

/-- Replace the binding of a base. -/
def Hart.setBinding (H : Hart) (b : Binding) : Hart :=
  { H with binds := H.binds.map (fun c => if c.base = b.base then b else c) }

/-- Split a number of n × 2,048 bytes into registers. -/
def toRegs : Nat → Nat → List VReg
  | 0, _ => []
  | n + 1, x => BitVec.ofNat 16384 x :: toRegs n (x / 2 ^ 16384)

/-- Read one element for a chunk: its bytes, or the fault that reading it takes (R229, R239, R364). -/
def chunkElement (w : Who) (a size : Nat) (s : State) : Nat × Option (Nat × Word) × State :=
  if a % size ≠ 0 then (0, some (0x04, BitVec.ofNat 64 a), s)
  else
    match readAt w a size s with
    | .trap c t s1 => (0, some (c, t), s1)
    | .ok v s1 => (v, none, s1)

/-- The queue entry that runs, or will run next, entered the queue after the copy was issued (R249). -/
def Hart.afterIssue (H : Hart) (J : CopyJob) : Bool :=
  if H.trap.vf then decide (J.ticket.hand ≤ H.vec.done.hand) else decide (J.ticket.main ≤ H.vec.done.main)

/-- An access of the hart's vector side to n bytes at a waits: a copy has not written its bytes, or an iteration of the
hart's own replay accesses them (R249, R285). -/
def vectorStalls (h a n : Nat) (kind : Acc) (s : State) : Bool :=
  let H := s.hart h
  H.copyStalls H.afterIssue a n || H.replayHoldsAt h a n kind s

/-- Read n elements, the j-th at addr j in the windows of a core, into the bytes x from byte o upwards; addr none is beyond the
end. -/
def readChunk (h size : Nat) (addr : Nat → Option (Nat × Nat)) : Nat → Nat → Nat → List (Nat × Nat × Word) → State →
    Nat × List (Nat × Nat × Word) × State
  | 0, _, x, fs, s => (x, fs, s)
  | n + 1, j, x, fs, s =>
    match addr j with
    | none => readChunk h size addr n (j + 1) x fs s
    | some (c, a) =>
      let (v, f, s1) := chunkElement { s.who h with core := c } a size s
      let fs1 := match f with
        | none => fs
        | some (u, t) => fs ++ [(j, u, t)]
      readChunk h size addr n (j + 1) (x + v * 2 ^ (8 * size * j)) fs1 s1

/-- The next chunk of a channel binding, read now, behind the stores of older entries (R152, R238). -/
def channelChunk (h : Nat) (b : Binding) (s0 : State) : Chunk × State :=
  let s := forceDone h (fun A => A.kind != .load) s0
  let (x, fs, s1) := readChunk h 1 (fun j => partAddr b.parts (b.chunks * b.bytes + j)) b.bytes 0 0 [] s
  (⟨toRegs b.count x, 1, fs⟩, s1)

/-- The next chunk of a channel binding waits for bytes that an iteration of the hart's own replay accesses (R285). -/
def channelHeld (h : Nat) (b : Binding) (s : State) : Bool :=
  (s.hart h).loop.st == 3 && (List.range b.bytes).any (fun j =>
    (partAddr b.parts (b.chunks * b.bytes + j)).any (fun p => (s.hart h).replayHoldsAt h p.2 1 .read s))

/-- A chunk of zeros, which a binding that has ended delivers (R238). -/
def zeroChunk (n : Nat) : Chunk := ⟨List.replicate n 0, 1, []⟩

/-- What the bound sources of an instruction meet. -/
inductive Primed where
  | ready (s : State)
  | wait
  | empty (base : Nat)

/-- Take the chunks that the sources read; a source with none ready is empty (R238). -/
def prime (h : Nat) : List (Nat × Bool) → State → Primed
  | [], s => .ready s
  | (F, hold) :: t, s =>
    let H := s.hart h
    match H.sourceBinding F with
    | none => prime h t s
    | some b =>
      if b.held.isSome then prime h t s
      else if H.ended b then prime h t (s.setHart h (H.setBinding { b with held := some (zeroChunk b.count) }))
      else if b.onChannel then
        if decide ((b.chunks + 1) * b.bytes ≤ H.covered b) || (H.chan b.num).copies.isEmpty then
          if channelHeld h b s then .wait else
          let (c, s1) := channelChunk h b s
          prime h t (s1.setHart h ((s1.hart h).setBinding { b with held := some c }))
        else if hold then .wait else .empty b.base
      else
        let S := H.stream b.num
        match S.ready with
        | c :: r => prime h t (s.setHart h ((H.setStream b.num { S with ready := r }).setBinding { b with held := some c }))
        | [] => if hold then .wait else .empty b.base

/-- The registers as the sources read them (R238). -/
def Hart.sourceRegs (H : Hart) (srcs : List (Nat × Bool)) : Vector VReg 32 :=
  srcs.foldl (fun R f =>
    match (H.sourceBinding f.1).bind (fun b => b.held) with
    | none => R
    | some c =>
      (List.range c.regs.length).foldl (fun R i =>
        if hi : f.1 + i < 32 then R.set (f.1 + i) (c.regs.getD i 0) else R) R) H.vec.v

/-- The instruction has completed: the chunks it read are consumed (R238, R241). A chunk of zeros that an ended binding has given
counts as one (assumption 79, DESIGN CHOICE). -/
def Hart.consume (H : Hart) (srcs : List (Nat × Bool)) : Hart :=
  srcs.foldl (fun H f =>
    match H.sourceBinding f.1 with
    | none => H
    | some b =>
      if b.held.isNone then H
      else
        let H1 := H.setBinding { b with held := none, chunks := b.chunks + 1 }
        if b.onChannel then H1
        else
          let S := H1.stream b.num
          H1.setStream b.num { S with done := min (patCount b.pattern) (S.done + b.elems) }) H

/-- A chunk that faulted is dropped, with what has been read ahead of it: its stream reads it again (R239). -/
def Hart.dropHeld (H : Hart) (srcs : List (Nat × Bool)) : Hart :=
  srcs.foldl (fun H f =>
    match H.sourceBinding f.1 with
    | none => H
    | some b =>
      let H1 := H.setBinding { b with held := none }
      if b.onChannel then H1 else H1.setStream b.num { H1.stream b.num with ready := [] }) H

/-- Bytes of a register group: the field of the group, the first byte, how many (R160, R238). -/
structure GroupBytes where
  field : Nat
  first : Nat
  count : Nat
  deriving DecidableEq, Repr

/-- The bytes of unit u of row r of the field F. -/
def unitBytes (g : Geometry) (gf F r u : Nat) : GroupBytes :=
  ⟨F, (r * gf + u / g.per) * 2048 + u % g.per * g.unit, g.unit⟩

/-- The fault of bytes of a bound source (R239). -/
def Hart.bytesFault (H : Hart) (x : GroupBytes) : Option (Nat × Word) :=
  match (H.sourceBinding x.field).bind (fun b => b.held) with
  | none => none
  | some c =>
    (c.faults.find? (fun f =>
      decide (f.1 * c.size < x.first + x.count) && decide (x.first < (f.1 + 1) * c.size))).map (fun f => (f.2.1, f.2.2))

/-- A bound source holds an element that faulted. -/
def Hart.anyFault (H : Hart) (srcs : List (Nat × Bool)) : Bool :=
  srcs.any (fun f => ((H.sourceBinding f.1).bind (fun b => b.held)).any (fun c => !c.faults.isEmpty))

/-- A field obeys the rule of bound ranges (R238). -/
def Hart.bindOk (H : Hart) (F : Nat) (isDst : Bool) : Bool :=
  H.binds.all (fun b =>
    decide (F + H.vec.span ≤ b.base) || decide (b.base + b.count ≤ F) ||
      (b.base == F && b.count == H.vec.span && (!isDst || b.writes)))

/-! ## Dispatch (R43, R175, R332, R351) -/

/-- The vector fields of an instruction: its destination and how that may overlap each source, and its sources with
whether an empty one waits (R15, R16). -/
structure VecFields where
  dst  : Option Nat
  rule : Overlap
  srcs : List (Nat × Bool)

/-- No vector field. -/
def VecFields.none : VecFields := ⟨.none, .same, []⟩

/-- The shape rules of the fields (R43, R177, R238). -/
def Hart.fieldsOk (H : Hart) (f : VecFields) : Bool :=
  let V := H.vec
  f.srcs.all (fun x => V.fieldOk x.1 && H.bindOk x.1 false) &&
    (match f.dst with
     | some d => V.fieldOk d && H.bindOk d true && f.srcs.all (fun x => V.overlapOk f.rule d x.1)
     | .none => true)

/-- A class V instruction runs in the block instance of a hart (R18). -/
def onVector (word : Nat) (s : State) (k : Nat → State) : State :=
  match s.agent with
  | .vector h => k h
  | _ => wrongClass word s

/-- The elements of a write binding's next chunk that are still to be stored: their addresses. -/
def Hart.toEmit (H : Hart) (b : Binding) : List Nat :=
  let j := (H.stream b.num).done
  ((List.range (b.chunks * b.elems + b.elems - j)).filter (fun i => decide (j + i < patCount b.pattern))).map
    (fun i => patAddr b.pattern (j + i))

/-- The chunk that a destination emits waits for bytes of a copy or a replay (R249, R285). -/
def sinkStalls (h : Nat) (dst : Option Nat) (s : State) : Bool :=
  match dst.bind (s.hart h).sinkBinding with
  | none => false
  | some b => ((s.hart h).toEmit b).any (fun a => vectorStalls h a (patSize b.pattern) .write s)

/-- Register r may belong to the footprint of a field, of at most 8 registers (R159). -/
def VecFields.names (f : VecFields) (r : Nat) : Bool :=
  (f.dst.toList ++ f.srcs.map (fun x => x.1)).any (fun F => decide (F ≤ r) && decide (r < F + 8))

/-- The dispatch of a class V instruction: 0x0B, then 0x02, then 0x03 (R332). Of these only 0x02 leaves telem 0 (R43, R335,
R351). Older loads of its registers have read their data for good (R154). -/
def dispatch (h word : Nat) (f : VecFields) (ok : Bool) (s : State) (k : State → State) : State :=
  let H := s.hart h
  if H.vec.vdirty.getLsbD 63 then vectorTrap h 0x0B 0 s
  else if !(H.vec.shapeOk H.obs.prot && H.fieldsOk f && ok) then dispatchTrap h 0x02 (BitVec.ofNat 64 word) s
  else
    match prime h f.srcs s with
    | .wait => s
    | .empty b => vectorTrap h 0x03 (BitVec.ofNat 64 (64 + b)) s
    | .ready s1 => if sinkStalls h f.dst s1 then s else k (settleLoads h f.names s1)

/-! ## The sweep (R159, R175, R219, R412) -/

/-- How a sweep ends. -/
inductive SweepEnd where
  | reached (i : Nat) (s : State)
  | stopped (i : Nat) (s : State)
  | trapped (i cause : Nat) (tval : Word) (s : State)

/-- Sweep n units from unit i, up to the stop or the first that traps; elem acts on an active unit. -/
def sweepLoop (act : Nat → Bool) (elem : Nat → State → Res Unit) (stop : Option Nat) : Nat → Nat → State → SweepEnd
  | 0, i, s => .reached i s
  | n + 1, i, s =>
    if stop = some i then .stopped i s
    else if act i then
      match elem i s with
      | .trap c t s1 => .trapped i c t s1
      | .ok _ s1 => sweepLoop act elem stop n (i + 1) s1
    else sweepLoop act elem stop n (i + 1) s

/-- Set estart of a hart. -/
def setEstart (h i : Nat) (s : State) : State :=
  let H := s.hart h
  s.setHart h { H with vec := { H.vec with estart := BitVec.ofNat 64 i } }

/-- The unit at which a stop fires in this dispatch (R412). -/
def Hart.stopUnit (H : Hart) (n : Nat) : Option Nat :=
  let e := bits H.obs.stpe 0 16
  if H.obs.stpa.getLsbD 63 && !H.trap.ts && bits H.obs.stpa 2 54 == H.vec.vpc.toNat / 4 &&
      decide (H.vec.estart.toNat ≤ e) && decide (e < n) then some e
  else none

/-- The stop at unit e (R412): EN clears as the trap is taken. An asynchronous cause is taken before it (R332). -/
def stopTrap (h e : Nat) (s : State) : State :=
  let H := s.hart h
  if H.trapWaits || H.asyncFirst then s
  else
    vectorTrap h 0x0D (BitVec.ofNat 64 e)
      (s.setHart h { H with obs := { H.obs with stpa := putBit H.obs.stpa 63 false } })

/-- The sweep has come to the element at estart: its stop may fire when it is the stop's (R412). -/
def armStop (h n : Nat) (s : State) : State :=
  let H := s.hart h
  s.setHart h { H with vec := { H.vec with armed := H.stopUnit n == some H.vec.estart.toNat } }

/-- The element groups that a vector instruction completes: those of the rows of the tile under fmt, up to len (R160, R406; what an
instruction completes is assumption 57, DESIGN CHOICE). -/
def VecState.groups (V : VecState) (prot : Bool) : Nat :=
  V.rows.toNat * ((V.rowUnits (V.geo prot) * (V.geo prot).unit + 15) / 16)

/-- The vector stream goes on behind its instruction: the translations it held leave it (R218), and it has produced what it
wrote (R397). -/
def Hart.nextVector (H : Hart) : Hart :=
  { H.tallied (fun t => { t with groups := t.groups + H.vec.groups H.obs.prot }) with vec := { H.vec with
    estart := 0, vpc := H.vec.vpc + 4, xlats := [], armed := false, begun := none
    made := ⟨H.vec.made.done ||| H.vec.made.now, 0⟩ } }

/-- A trap of a unit is the chunk's: the chunk is not consumed (R239). -/
def unitTrap (h i c : Nat) (t : Word) (srcs : List (Nat × Bool)) (s : State) : State :=
  let H := s.hart h
  let bad := H.anyFault srcs
  vectorTrap h c t (setEstart h i (if bad then s.setHart h (H.dropHeld srcs) else s))

/-- The last unit is done: fin completes the instruction, and the stream goes on behind it. -/
def completeVector (h : Nat) (srcs : List (Nat × Bool)) (fin : State → State) (s : State) : State :=
  let s1 := fin s
  s1.setHart h ((s1.hart h).consume srcs).nextVector

/-- Sweep the n units of a dispatched instruction from estart on, as far as the turn goes; note sees how far the sweep has
come, cut may turn a trap into the end of the instruction (R233), and with the last unit fin completes the instruction
(R159, R175). -/
def sweepNoting (note : Nat → State → State) (cut : Nat → Nat → State → Option State) (h n : Nat) (srcs : List (Nat × Bool))
    (act : Nat → Bool) (elem : Nat → State → Res Unit) (fin : State → State) (s : State) : State :=
  let H := s.hart h
  let e0 := H.vec.estart.toNat
  let up := match s.limit with
    | none => n
    | some e => min n e
  match sweepLoop act elem (H.stopUnit n) (up - e0) e0 s with
  | .trapped i c t s1 =>
    match cut i c s1 with
    | some s2 => completeVector h srcs fin (note i s2)
    | none => unitTrap h i c t srcs (note i s1)
  | .stopped i s1 => stopTrap h i (armStop h n (setEstart h i (note i s1)))
  | .reached i s1 =>
    if i < n then armStop h n (setEstart h i (note i s1)) else completeVector h srcs fin (note i s1)

/-- A sweep that nothing notes. -/
def sweep (h n : Nat) (srcs : List (Nat × Bool)) (act : Nat → Bool) (elem : Nat → State → Res Unit)
    (fin : State → State) (s : State) : State := sweepNoting (fun _ t => t) (fun _ _ _ => none) h n srcs act elem fin s

/-- Advance srctr, also in the registers that a wrong prediction or a departure restores: the vector queue is older than every
unconfirmed branch and every replay (R106, R136, R178, R287). -/
def Hart.advanceRandom (H : Hart) (n : Nat) : Hart :=
  { H with
    regs := { H.regs with srctr := H.regs.srctr + BitVec.ofNat 64 n }
    checks := H.checks.map (fun c => { c with regs := { c.regs with srctr := c.regs.srctr + BitVec.ofNat 64 n } })
    loop := H.loop.atConf none (fun R => { R with srctr := R.srctr + BitVec.ofNat 64 n }) }

/-- A rounding instruction has completed: srctr advances by rows × len (R178). -/
def drawn (h : Nat) (s : State) : State :=
  let H := s.hart h
  s.setHart h (H.advanceRandom (H.vec.rows.toNat * H.vec.len.toNat))

/-- How element i of a rounding instruction rounds, under a rounding code and saturation (R136, R178). -/
def Hart.elemRounding (H : Hart) (mode : Nat) (sat : Bool) (i : Nat) : Rounding :=
  ⟨mode, (limlor H.srkey (H.regs.srctr + BitVec.ofNat 64 i)).toNat % 2 ^ 32, sat, false⟩

/-! ## Emissions (R238, R239) -/

/-- The elements of the next chunk of a write binding that cannot be stored, ascending: number, cause and address. Elements
j to j + n − 1 are looked at. -/
def emitFaults (h : Nat) (p : BitVec 512) : Nat → Nat → State → List (Nat × Nat × Word) × State
  | 0, _, s => ([], s)
  | n + 1, j, s =>
    if patCount p ≤ j then ([], s)
    else
      let a := patAddr p j
      let bad (c : Nat) (v : Word) (t : State) : List (Nat × Nat × Word) × State :=
        let (r, t1) := emitFaults h p n (j + 1) t
        ((j, c, v) :: r, t1)
      if a % patSize p ≠ 0 then bad 0x04 (BitVec.ofNat 64 a) s
      else
        match access (s.who h) a (patSize p) .write s with
        | .trap c v s1 => bad c v s1
        | .ok l s1 =>
          let (err, s2) := peerError l s1
          if err then bad 0x07 (BitVec.ofNat 64 a) s2 else emitFaults h p n (j + 1) s2

/-- n elements of a write stream have been stored. -/
def streamStored (h q n : Nat) (s : State) : State :=
  let H := s.hart h
  s.setHart h (H.setStream q { H.stream q with done := n })

/-- Store n elements of a chunk from element j on: element j lies at byte (j − j0) × size of the registers. An element that
cannot be stored and that no active unit wrote is left out. -/
def emitFrom (h : Nat) (b : Binding) (j0 : Nat) : Nat → Nat → State → State
  | 0, _, s => s
  | n + 1, j, s =>
    if patCount b.pattern ≤ j then s
    else
      let z := patSize b.pattern
      let o := (j - j0) * z
      let v := regRead (s.hart h).vec.v (b.base + o / 2048) (o % 2048) z
      match access (s.who h) (patAddr b.pattern j) z .write s with
      | .trap _ _ s1 => emitFrom h b j0 n (j + 1) (streamStored h b.num (j + 1) s1)
      | .ok l s1 => emitFrom h b j0 n (j + 1) (streamStored h b.num (j + 1) (storeElem h b.num l v s1))

/-- The element at which the chunk that an instruction in progress emits begins. -/
def Binding.start (b : Binding) : Nat := b.chunks * b.elems

/-- The faults that emitting the destination's chunk meets, if it is a write-bound range. Looking ahead changes nothing but
the count of the values it draws. -/
def destFaults (h : Nat) (dst : Option Nat) (s : State) : List (Binding × Nat × Nat × Word) × State :=
  let H := s.hart h
  match dst.bind H.sinkBinding with
  | none => ([], s)
  | some b =>
    let j := (H.stream b.num).done
    let (fs, s1) := emitFaults h b.pattern (b.start + b.elems - j) j s
    (fs.map (fun f => (b, f)), { s with free := s1.free })

/-- Whether bytes of the destination hold bytes of element j of its write stream. -/
def Binding.emits (b : Binding) (j : Nat) (x : GroupBytes) : Bool :=
  let z := patSize b.pattern
  let e := (j - b.start) * z
  decide (e < x.first + x.count) && decide (x.first < e + z)

/-- A unit that writes the bytes xs traps for element j: the elements before j that it has no part in are complete; the ones
it would write too are left for the resumed instruction (R239). -/
def Binding.before (b : Binding) (j : Nat) (xs : List GroupBytes) : Nat :=
  xs.foldl (fun k x => min k (b.start + x.first / patSize b.pattern)) j

/-- The store of element j, at which an emission stops, meets its fault of a cause: what the fault leaves in the translations and the
logs is kept, and of a walk that faults nothing stays cached (R239, R355). -/
def meetFault (h : Nat) (b : Binding) (j cause : Nat) (s : State) : State :=
  let s0 := if cause = 0x06 then dropPath (s.who h) (patAddr b.pattern j) s else s
  match access (s0.who h) (patAddr b.pattern j) (patSize b.pattern) .write s0 with
  | .trap _ _ s1 => s1
  | .ok _ _ => s0

/-- The destination's chunk is emitted, up to but not including element j when one is given. -/
def emit (h : Nat) (dst : Option Nat) (upto : Option Nat) (s : State) : State :=
  let H := s.hart h
  match dst.bind H.sinkBinding with
  | none => s
  | some b =>
    let j0 := b.start
    let j := (H.stream b.num).done
    let last := upto.getD (j0 + b.elems)
    let s1 := closeVacc h (emitFrom h b j0 (last - j) j s)
    if upto.isSome then s1
    else
      let H1 := s1.hart h
      s1.setHart h (H1.setBinding { b with chunks := b.chunks + 1 })

/-! ## The frame of a computing instruction (R175) -/

/-- How a computing instruction acts on the units of its tile: the units' geometry, the governing mask, the bytes that
unit i reads and those it writes, its effect. -/
structure VecEffect where
  geo    : VecState → Bool → Geometry
  mask   : BitVec 3
  reads  : Hart → Vector VReg 32 → Nat → List GroupBytes
  writes : Hart → Nat → List GroupBytes
  eff    : Hart → Vector VReg 32 → Nat → VecState → VecState

/-- One active unit: the faults of what it reads, then of what it emits, then its effect. -/
def unitStep (h : Nat) (f : VecFields) (v : VecEffect) (H : Hart) (R : Vector VReg 32) (bad : Bool)
    (df : List (Binding × Nat × Nat × Word)) (i : Nat) (t : State) : Res Unit :=
  match (if bad then (v.reads H R i).findSome? H.bytesFault else none) with
  | some (c, a) => .trap c a t
  | none =>
    match df.find? (fun x => (v.writes H i).any (x.1.emits x.2.1)) with
    | some (b, j, c, a) => .trap c a (meetFault h b j c (emit h f.dst (some (b.before j (v.writes H i))) t))
    | none => .ok () (t.setHart h { t.hart h with vec := v.eff H R i (t.hart h).vec })

/-- A computing instruction (R175): the dispatch, the sweep, then fin. -/
def computing (word : Nat) (f : VecFields) (ok : VecState → Bool → Bool) (v : VecEffect)
    (fin : Nat → State → State) (s : State) : State :=
  onVector word s (fun h =>
    let H0 := s.hart h
    dispatch h word f (ok H0.vec H0.obs.prot) s (fun s1 =>
      let H := s1.hart h
      let (df, s2) := destFaults h f.dst s1
      sweep h (H.vec.units (v.geo H.vec H.obs.prot)) f.srcs (fun i => H.vec.active v.mask i)
        (unitStep h f v H (H.sourceRegs f.srcs) (H.anyFault f.srcs) df)
        (fun t => fin h (emit h f.dst none t)) s2))

/-- The unit of a tile: its row and its place in the row. -/
def VecState.rowOf (V : VecState) (g : Geometry) (i : Nat) : Nat × Nat :=
  (i / V.rowUnits g, i % V.rowUnits g)

/-- The units of fmt's format. -/
def fmtGeo (V : VecState) (prot : Bool) : Geometry := V.geo prot

/-- The bytes of unit i of each of some fields, in fmt's format. -/
def sameBytes (fields : List Nat) (H : Hart) (i : Nat) : List GroupBytes :=
  let g := H.vec.geo H.obs.prot
  let (r, u) := H.vec.rowOf g i
  fields.map (fun F => unitBytes g H.vec.gf F r u)

/-- The usual reads: each source at its own row and place. -/
def sameReads (srcs : List (Nat × Bool)) (H : Hart) (_ : Vector VReg 32) (i : Nat) : List GroupBytes :=
  sameBytes (srcs.map (fun f => f.1)) H i

/-- No vector destination. -/
def noWrites (_ : Hart) (_ : Nat) : List GroupBytes := []

/-- Nothing more to do at completion. -/
def noFin (_ : Nat) (s : State) : State := s

/-! ## Elementwise operations, on the tile and on a near-bank thread -/

/-- A vector operand: a register with its hold bit (none: it always waits), a g register, an immediate. -/
inductive VecSrc where
  | reg (F : Nat) (hold : Bool)
  | g (n : Nat)
  | imm (i : BitVec 5)
  deriving DecidableEq, Repr

/-- The register sources. -/
def VecSrc.field : VecSrc → Option (Nat × Bool)
  | .reg F w => some (F, w)
  | _ => none

/-- The operand for unit u of row r, as w bits (R30, R175). -/
def VecSrc.value (V : VecState) (R : Vector VReg 32) (g : Geometry) (r u : Nat) : VecSrc → Nat
  | .reg F _ => readUnit R g V.gf F r u
  | .g n => (if hn : n < 8 then V.g[n].toNat else 0) % 2 ^ (8 * g.unit)
  | .imm i => (i.toInt % 2 ^ (8 * g.unit)).toNat

/-- An operation on elements: the formats it accepts, whether near-bank threads have it, whether it rounds, and its
function of the format, the rounding and the operands as bits. -/
structure ElemOp where
  accepts : Nat → Bool
  near    : Bool
  rounds  : Bool
  f       : Nat → Rounding → List Nat → Nat × FFlags

/-- An elementwise instruction of a block instance. -/
def elementwise (word : Nat) (op : ElemOp) (m : BitVec 3) (d : BitVec 5) (srcs : List VecSrc) (s : State) : State :=
  let fs := srcs.filterMap VecSrc.field
  computing word ⟨some d.toNat, .same, fs⟩ (fun V _ => op.accepts V.ew)
    ⟨fmtGeo, m, sameReads fs, sameBytes [d.toNat], fun H R i V =>
      let g := H.vec.geo H.obs.prot
      let (r, u) := H.vec.rowOf g i
      let (x, fl) := op.f H.vec.ew (H.elemRounding H.vec.rm H.vec.sat i) (srcs.map (VecSrc.value H.vec R g r u))
      (V.putUnit g H.obs.prot d.toNat r u x).raise fl⟩
    (fun h t => if op.rounds then drawn h t else t) s

/-- A unit register of a near-bank job. -/
def NbJob.reg (J : NbJob) (n : Nat) : BitVec 512 := if hn : n < 16 then J.w[n] else 0

/-- An operand of a near-bank vector instruction: g names s8 to s15 of the arithmetic thread (R264). -/
def VecSrc.nearValue (J : NbJob) (w e : Nat) : VecSrc → Nat
  | .reg F _ => bits (J.reg F) (w * e) w
  | .g n => (J.x.regs.readS (BitVec.ofNat 5 (8 + n))).toNat % 2 ^ w
  | .imm i => (i.toInt % 2 ^ w).toNat

/-- The elements of a near-bank row from e on, n of them, with their flags. -/
def nearRow (f : List Nat → Nat × FFlags) (J : NbJob) (w : Nat) (srcs : List VecSrc) : Nat → Nat → Nat × FFlags
  | 0, _ => (0, FFlags.none)
  | n + 1, e =>
    let (x, fl) := f (srcs.map (VecSrc.nearValue J w e))
    let (y, fl') := nearRow f J w srcs n (e + 1)
    (x % 2 ^ w + 2 ^ w * y, fl.or fl')

/-- An elementwise instruction of a near-bank arithmetic thread: w0 to w15, every element, round to nearest even, no
saturation (R263, R264). -/
def nearElementwise (u : Nat) (op : ElemOp) (m : BitVec 3) (d : BitVec 5) (srcs : List VecSrc) (s : State) : State :=
  onJob u true s (fun J =>
    let ew := J.fmt.toNat
    let fields := d.toNat :: srcs.filterMap (fun x => x.field.map (fun f => f.1))
    if !op.near || m != 0 || fields.any (fun F => decide (16 ≤ F)) then nearEnd u 0x01 s
    else if !op.accepts ew then nearEnd u 0x02 s
    else
      let w := ewBits ew
      let (x, fl) := nearRow (op.f ew rne) J w srcs (512 / w) 0
      let J1 : NbJob := if hd : d.toNat < 16 then { J with w := J.w.set d.toNat (BitVec.ofNat 512 x) } else J
      s.putJob u ({ J1 with flags := J1.flags ||| fl.vst }.advance true))

/-- An elementwise instruction, wherever it runs. -/
def elemOp (word : Nat) (op : ElemOp) (m : BitVec 3) (d : BitVec 5) (srcs : List VecSrc) (s : State) : State :=
  match s.agent with
  | .nearBank u true => nearElementwise u op m d srcs s
  | _ => elementwise word op m d srcs s

end Sys2Proof.Machine
end

