-- ==== Sys2Proof/Machine/VectorInt.lean ====
section
/-!
DEFINITION. The vector integer instructions: vint, vint.g and vint.i (R29, R30, R176, R180).
-/
namespace Sys2Proof.Machine

/-! ## The functions on w-bit elements (R180) -/

/-- A w-bit value as signed. -/
def asInt (w x : Nat) : Int := if 2 ^ (w - 1) ≤ x then (x : Int) - 2 ^ w else x

/-- The low w bits of an integer. -/
def lowBits (w : Nat) (v : Int) : Nat := (v % 2 ^ w).toNat

/-- Clamp to a range, with the saturate flag. -/
def clampTo (w : Nat) (lo hi v : Int) : Nat × FFlags :=
  if hi < v then (lowBits w hi, { FFlags.none with sat := true })
  else if v < lo then (lowBits w lo, { FFlags.none with sat := true })
  else (lowBits w v, FFlags.none)

/-- A function of two elements that sets no flag. -/
def plain2 (f : Nat → Nat → Nat → Nat) (ew : Nat) (_ : Rounding) (xs : List Nat) : Nat × FFlags :=
  (f (ewBits ew) (xs.getD 0 0) (xs.getD 1 0), FFlags.none)

/-- A saturating function of two elements. -/
def clamp2 (f : Nat → Nat → Nat → Nat × FFlags) (ew : Nat) (_ : Rounding) (xs : List Nat) : Nat × FFlags :=
  f (ewBits ew) (xs.getD 0 0) (xs.getD 1 0)

/-- An operation on integer formats. -/
def intOp (f : Nat → Rounding → List Nat → Nat × FFlags) : ElemOp := ⟨fun ew => decide (ew < 8), true, false, f⟩

/-- An operation that also takes the bits of floating-point formats (R176). -/
def bitOp (f : Nat → Rounding → List Nat → Nat × FFlags) : ElemOp := ⟨fun ew => decide (ew < 14), true, false, f⟩

/-- Signed clamp. -/
def clampS (w : Nat) (v : Int) : Nat × FFlags := clampTo w (-2 ^ (w - 1)) (2 ^ (w - 1) - 1) v

/-- Unsigned clamp. -/
def clampU (w : Nat) (v : Int) : Nat × FFlags := clampTo w 0 (2 ^ w - 1) v

def vAdd : ElemOp := intOp (plain2 (fun w a b => (a + b) % 2 ^ w))
def vSub : ElemOp := intOp (plain2 (fun w a b => lowBits w (a - b)))
def vMul : ElemOp := intOp (plain2 (fun w a b => a * b % 2 ^ w))
def vMulh : ElemOp := intOp (plain2 (fun w a b => lowBits w (asInt w a * asInt w b / 2 ^ w)))
def vMulhu : ElemOp := intOp (plain2 (fun w a b => a * b / 2 ^ w))
def vMin : ElemOp := intOp (plain2 (fun w a b => if asInt w a ≤ asInt w b then a else b))
def vMax : ElemOp := intOp (plain2 (fun w a b => if asInt w a ≤ asInt w b then b else a))
def vMinu : ElemOp := intOp (plain2 (fun _ a b => min a b))
def vMaxu : ElemOp := intOp (plain2 (fun _ a b => max a b))
def vAnd : ElemOp := bitOp (plain2 (fun _ a b => a &&& b))
def vOr : ElemOp := bitOp (plain2 (fun _ a b => a ||| b))
def vXor : ElemOp := bitOp (plain2 (fun _ a b => a ^^^ b))
def vSll : ElemOp := bitOp (plain2 (fun w a b => a * 2 ^ (b % w) % 2 ^ w))
def vSrl : ElemOp := bitOp (plain2 (fun w a b => a / 2 ^ (b % w)))
def vSra : ElemOp := bitOp (plain2 (fun w a b => lowBits w (asInt w a / 2 ^ (b % w))))
def vAdds : ElemOp := intOp (clamp2 (fun w a b => clampS w (asInt w a + asInt w b)))
def vSubs : ElemOp := intOp (clamp2 (fun w a b => clampS w (asInt w a - asInt w b)))
def vAddsu : ElemOp := intOp (clamp2 (fun w a b => clampU w ((a : Int) + b)))
def vSubsu : ElemOp := intOp (clamp2 (fun w a b => clampU w ((a : Int) - b)))

/-- mov copies its B operand, the only one (R30). -/
def vMov : ElemOp := bitOp (fun _ _ xs => (xs.getD 0 0, FFlags.none))

/-- A register source with its hold bit. -/
def held (F : BitVec 5) (hold : BitVec 1) : VecSrc := .reg F.toNat (hold == 1)

/-! ## vint -/

def execVintAdd (y : BitVec 1) (x : BitVec 1) (m : BitVec 3) (b : BitVec 5) (a : BitVec 5) (d : BitVec 5) (s : State) : Out :=
  .next (elemOp (vintAddWord y x m b a d) vAdd m d [held a x, held b y] s)
def execVintSub (y : BitVec 1) (x : BitVec 1) (m : BitVec 3) (b : BitVec 5) (a : BitVec 5) (d : BitVec 5) (s : State) : Out :=
  .next (elemOp (vintSubWord y x m b a d) vSub m d [held a x, held b y] s)
def execVintMul (y : BitVec 1) (x : BitVec 1) (m : BitVec 3) (b : BitVec 5) (a : BitVec 5) (d : BitVec 5) (s : State) : Out :=
  .next (elemOp (vintMulWord y x m b a d) vMul m d [held a x, held b y] s)
def execVintMulh (y : BitVec 1) (x : BitVec 1) (m : BitVec 3) (b : BitVec 5) (a : BitVec 5) (d : BitVec 5) (s : State) : Out :=
  .next (elemOp (vintMulhWord y x m b a d) vMulh m d [held a x, held b y] s)
def execVintMulhu (y : BitVec 1) (x : BitVec 1) (m : BitVec 3) (b : BitVec 5) (a : BitVec 5) (d : BitVec 5) (s : State) : Out :=
  .next (elemOp (vintMulhuWord y x m b a d) vMulhu m d [held a x, held b y] s)
def execVintMin (y : BitVec 1) (x : BitVec 1) (m : BitVec 3) (b : BitVec 5) (a : BitVec 5) (d : BitVec 5) (s : State) : Out :=
  .next (elemOp (vintMinWord y x m b a d) vMin m d [held a x, held b y] s)
def execVintMax (y : BitVec 1) (x : BitVec 1) (m : BitVec 3) (b : BitVec 5) (a : BitVec 5) (d : BitVec 5) (s : State) : Out :=
  .next (elemOp (vintMaxWord y x m b a d) vMax m d [held a x, held b y] s)
def execVintMinu (y : BitVec 1) (x : BitVec 1) (m : BitVec 3) (b : BitVec 5) (a : BitVec 5) (d : BitVec 5) (s : State) : Out :=
  .next (elemOp (vintMinuWord y x m b a d) vMinu m d [held a x, held b y] s)
def execVintMaxu (y : BitVec 1) (x : BitVec 1) (m : BitVec 3) (b : BitVec 5) (a : BitVec 5) (d : BitVec 5) (s : State) : Out :=
  .next (elemOp (vintMaxuWord y x m b a d) vMaxu m d [held a x, held b y] s)
def execVintAnd (y : BitVec 1) (x : BitVec 1) (m : BitVec 3) (b : BitVec 5) (a : BitVec 5) (d : BitVec 5) (s : State) : Out :=
  .next (elemOp (vintAndWord y x m b a d) vAnd m d [held a x, held b y] s)
def execVintOr (y : BitVec 1) (x : BitVec 1) (m : BitVec 3) (b : BitVec 5) (a : BitVec 5) (d : BitVec 5) (s : State) : Out :=
  .next (elemOp (vintOrWord y x m b a d) vOr m d [held a x, held b y] s)
def execVintXor (y : BitVec 1) (x : BitVec 1) (m : BitVec 3) (b : BitVec 5) (a : BitVec 5) (d : BitVec 5) (s : State) : Out :=
  .next (elemOp (vintXorWord y x m b a d) vXor m d [held a x, held b y] s)
def execVintSll (y : BitVec 1) (x : BitVec 1) (m : BitVec 3) (b : BitVec 5) (a : BitVec 5) (d : BitVec 5) (s : State) : Out :=
  .next (elemOp (vintSllWord y x m b a d) vSll m d [held a x, held b y] s)
def execVintSrl (y : BitVec 1) (x : BitVec 1) (m : BitVec 3) (b : BitVec 5) (a : BitVec 5) (d : BitVec 5) (s : State) : Out :=
  .next (elemOp (vintSrlWord y x m b a d) vSrl m d [held a x, held b y] s)
def execVintSra (y : BitVec 1) (x : BitVec 1) (m : BitVec 3) (b : BitVec 5) (a : BitVec 5) (d : BitVec 5) (s : State) : Out :=
  .next (elemOp (vintSraWord y x m b a d) vSra m d [held a x, held b y] s)
def execVintAdds (y : BitVec 1) (x : BitVec 1) (m : BitVec 3) (b : BitVec 5) (a : BitVec 5) (d : BitVec 5) (s : State) : Out :=
  .next (elemOp (vintAddsWord y x m b a d) vAdds m d [held a x, held b y] s)
def execVintSubs (y : BitVec 1) (x : BitVec 1) (m : BitVec 3) (b : BitVec 5) (a : BitVec 5) (d : BitVec 5) (s : State) : Out :=
  .next (elemOp (vintSubsWord y x m b a d) vSubs m d [held a x, held b y] s)
def execVintAddsu (y : BitVec 1) (x : BitVec 1) (m : BitVec 3) (b : BitVec 5) (a : BitVec 5) (d : BitVec 5) (s : State) : Out :=
  .next (elemOp (vintAddsuWord y x m b a d) vAddsu m d [held a x, held b y] s)
def execVintSubsu (y : BitVec 1) (x : BitVec 1) (m : BitVec 3) (b : BitVec 5) (a : BitVec 5) (d : BitVec 5) (s : State) : Out :=
  .next (elemOp (vintSubsuWord y x m b a d) vSubsu m d [held a x, held b y] s)
def execVintMov (y : BitVec 1) (m : BitVec 3) (b : BitVec 5) (d : BitVec 5) (s : State) : Out :=
  .next (elemOp (vintMovWord y m b d) vMov m d [held b y] s)

/-! ## vint.g -/

def execVintGAdd (y : BitVec 1) (x : BitVec 1) (m : BitVec 3) (b : BitVec 3) (a : BitVec 5) (d : BitVec 5) (s : State) : Out :=
  .next (elemOp (vintGAddWord y x m b a d) vAdd m d [held a x, .g b.toNat] s)
def execVintGSub (y : BitVec 1) (x : BitVec 1) (m : BitVec 3) (b : BitVec 3) (a : BitVec 5) (d : BitVec 5) (s : State) : Out :=
  .next (elemOp (vintGSubWord y x m b a d) vSub m d [held a x, .g b.toNat] s)
def execVintGMul (y : BitVec 1) (x : BitVec 1) (m : BitVec 3) (b : BitVec 3) (a : BitVec 5) (d : BitVec 5) (s : State) : Out :=
  .next (elemOp (vintGMulWord y x m b a d) vMul m d [held a x, .g b.toNat] s)
def execVintGMulh (y : BitVec 1) (x : BitVec 1) (m : BitVec 3) (b : BitVec 3) (a : BitVec 5) (d : BitVec 5) (s : State) : Out :=
  .next (elemOp (vintGMulhWord y x m b a d) vMulh m d [held a x, .g b.toNat] s)
def execVintGMulhu (y : BitVec 1) (x : BitVec 1) (m : BitVec 3) (b : BitVec 3) (a : BitVec 5) (d : BitVec 5) (s : State) : Out :=
  .next (elemOp (vintGMulhuWord y x m b a d) vMulhu m d [held a x, .g b.toNat] s)
def execVintGMin (y : BitVec 1) (x : BitVec 1) (m : BitVec 3) (b : BitVec 3) (a : BitVec 5) (d : BitVec 5) (s : State) : Out :=
  .next (elemOp (vintGMinWord y x m b a d) vMin m d [held a x, .g b.toNat] s)
def execVintGMax (y : BitVec 1) (x : BitVec 1) (m : BitVec 3) (b : BitVec 3) (a : BitVec 5) (d : BitVec 5) (s : State) : Out :=
  .next (elemOp (vintGMaxWord y x m b a d) vMax m d [held a x, .g b.toNat] s)
def execVintGMinu (y : BitVec 1) (x : BitVec 1) (m : BitVec 3) (b : BitVec 3) (a : BitVec 5) (d : BitVec 5) (s : State) : Out :=
  .next (elemOp (vintGMinuWord y x m b a d) vMinu m d [held a x, .g b.toNat] s)
def execVintGMaxu (y : BitVec 1) (x : BitVec 1) (m : BitVec 3) (b : BitVec 3) (a : BitVec 5) (d : BitVec 5) (s : State) : Out :=
  .next (elemOp (vintGMaxuWord y x m b a d) vMaxu m d [held a x, .g b.toNat] s)
def execVintGAnd (y : BitVec 1) (x : BitVec 1) (m : BitVec 3) (b : BitVec 3) (a : BitVec 5) (d : BitVec 5) (s : State) : Out :=
  .next (elemOp (vintGAndWord y x m b a d) vAnd m d [held a x, .g b.toNat] s)
def execVintGOr (y : BitVec 1) (x : BitVec 1) (m : BitVec 3) (b : BitVec 3) (a : BitVec 5) (d : BitVec 5) (s : State) : Out :=
  .next (elemOp (vintGOrWord y x m b a d) vOr m d [held a x, .g b.toNat] s)
def execVintGXor (y : BitVec 1) (x : BitVec 1) (m : BitVec 3) (b : BitVec 3) (a : BitVec 5) (d : BitVec 5) (s : State) : Out :=
  .next (elemOp (vintGXorWord y x m b a d) vXor m d [held a x, .g b.toNat] s)
def execVintGSll (y : BitVec 1) (x : BitVec 1) (m : BitVec 3) (b : BitVec 3) (a : BitVec 5) (d : BitVec 5) (s : State) : Out :=
  .next (elemOp (vintGSllWord y x m b a d) vSll m d [held a x, .g b.toNat] s)
def execVintGSrl (y : BitVec 1) (x : BitVec 1) (m : BitVec 3) (b : BitVec 3) (a : BitVec 5) (d : BitVec 5) (s : State) : Out :=
  .next (elemOp (vintGSrlWord y x m b a d) vSrl m d [held a x, .g b.toNat] s)
def execVintGSra (y : BitVec 1) (x : BitVec 1) (m : BitVec 3) (b : BitVec 3) (a : BitVec 5) (d : BitVec 5) (s : State) : Out :=
  .next (elemOp (vintGSraWord y x m b a d) vSra m d [held a x, .g b.toNat] s)
def execVintGAdds (y : BitVec 1) (x : BitVec 1) (m : BitVec 3) (b : BitVec 3) (a : BitVec 5) (d : BitVec 5) (s : State) : Out :=
  .next (elemOp (vintGAddsWord y x m b a d) vAdds m d [held a x, .g b.toNat] s)
def execVintGSubs (y : BitVec 1) (x : BitVec 1) (m : BitVec 3) (b : BitVec 3) (a : BitVec 5) (d : BitVec 5) (s : State) : Out :=
  .next (elemOp (vintGSubsWord y x m b a d) vSubs m d [held a x, .g b.toNat] s)
def execVintGAddsu (y : BitVec 1) (x : BitVec 1) (m : BitVec 3) (b : BitVec 3) (a : BitVec 5) (d : BitVec 5) (s : State) : Out :=
  .next (elemOp (vintGAddsuWord y x m b a d) vAddsu m d [held a x, .g b.toNat] s)
def execVintGSubsu (y : BitVec 1) (x : BitVec 1) (m : BitVec 3) (b : BitVec 3) (a : BitVec 5) (d : BitVec 5) (s : State) : Out :=
  .next (elemOp (vintGSubsuWord y x m b a d) vSubsu m d [held a x, .g b.toNat] s)
def execVintGMov (y : BitVec 1) (m : BitVec 3) (b : BitVec 3) (d : BitVec 5) (s : State) : Out :=
  .next (elemOp (vintGMovWord y m b d) vMov m d [.g b.toNat] s)

/-! ## vint.i -/

def execVintIAdd (y : BitVec 1) (x : BitVec 1) (m : BitVec 3) (i : BitVec 5) (a : BitVec 5) (d : BitVec 5) (s : State) : Out :=
  .next (elemOp (vintIAddWord y x m i a d) vAdd m d [held a x, .imm i] s)
def execVintISub (y : BitVec 1) (x : BitVec 1) (m : BitVec 3) (i : BitVec 5) (a : BitVec 5) (d : BitVec 5) (s : State) : Out :=
  .next (elemOp (vintISubWord y x m i a d) vSub m d [held a x, .imm i] s)
def execVintIMul (y : BitVec 1) (x : BitVec 1) (m : BitVec 3) (i : BitVec 5) (a : BitVec 5) (d : BitVec 5) (s : State) : Out :=
  .next (elemOp (vintIMulWord y x m i a d) vMul m d [held a x, .imm i] s)
def execVintIMulh (y : BitVec 1) (x : BitVec 1) (m : BitVec 3) (i : BitVec 5) (a : BitVec 5) (d : BitVec 5) (s : State) : Out :=
  .next (elemOp (vintIMulhWord y x m i a d) vMulh m d [held a x, .imm i] s)
def execVintIMulhu (y : BitVec 1) (x : BitVec 1) (m : BitVec 3) (i : BitVec 5) (a : BitVec 5) (d : BitVec 5) (s : State) : Out :=
  .next (elemOp (vintIMulhuWord y x m i a d) vMulhu m d [held a x, .imm i] s)
def execVintIMin (y : BitVec 1) (x : BitVec 1) (m : BitVec 3) (i : BitVec 5) (a : BitVec 5) (d : BitVec 5) (s : State) : Out :=
  .next (elemOp (vintIMinWord y x m i a d) vMin m d [held a x, .imm i] s)
def execVintIMax (y : BitVec 1) (x : BitVec 1) (m : BitVec 3) (i : BitVec 5) (a : BitVec 5) (d : BitVec 5) (s : State) : Out :=
  .next (elemOp (vintIMaxWord y x m i a d) vMax m d [held a x, .imm i] s)
def execVintIMinu (y : BitVec 1) (x : BitVec 1) (m : BitVec 3) (i : BitVec 5) (a : BitVec 5) (d : BitVec 5) (s : State) : Out :=
  .next (elemOp (vintIMinuWord y x m i a d) vMinu m d [held a x, .imm i] s)
def execVintIMaxu (y : BitVec 1) (x : BitVec 1) (m : BitVec 3) (i : BitVec 5) (a : BitVec 5) (d : BitVec 5) (s : State) : Out :=
  .next (elemOp (vintIMaxuWord y x m i a d) vMaxu m d [held a x, .imm i] s)
def execVintIAnd (y : BitVec 1) (x : BitVec 1) (m : BitVec 3) (i : BitVec 5) (a : BitVec 5) (d : BitVec 5) (s : State) : Out :=
  .next (elemOp (vintIAndWord y x m i a d) vAnd m d [held a x, .imm i] s)
def execVintIOr (y : BitVec 1) (x : BitVec 1) (m : BitVec 3) (i : BitVec 5) (a : BitVec 5) (d : BitVec 5) (s : State) : Out :=
  .next (elemOp (vintIOrWord y x m i a d) vOr m d [held a x, .imm i] s)
def execVintIXor (y : BitVec 1) (x : BitVec 1) (m : BitVec 3) (i : BitVec 5) (a : BitVec 5) (d : BitVec 5) (s : State) : Out :=
  .next (elemOp (vintIXorWord y x m i a d) vXor m d [held a x, .imm i] s)
def execVintISll (y : BitVec 1) (x : BitVec 1) (m : BitVec 3) (i : BitVec 5) (a : BitVec 5) (d : BitVec 5) (s : State) : Out :=
  .next (elemOp (vintISllWord y x m i a d) vSll m d [held a x, .imm i] s)
def execVintISrl (y : BitVec 1) (x : BitVec 1) (m : BitVec 3) (i : BitVec 5) (a : BitVec 5) (d : BitVec 5) (s : State) : Out :=
  .next (elemOp (vintISrlWord y x m i a d) vSrl m d [held a x, .imm i] s)
def execVintISra (y : BitVec 1) (x : BitVec 1) (m : BitVec 3) (i : BitVec 5) (a : BitVec 5) (d : BitVec 5) (s : State) : Out :=
  .next (elemOp (vintISraWord y x m i a d) vSra m d [held a x, .imm i] s)
def execVintIAdds (y : BitVec 1) (x : BitVec 1) (m : BitVec 3) (i : BitVec 5) (a : BitVec 5) (d : BitVec 5) (s : State) : Out :=
  .next (elemOp (vintIAddsWord y x m i a d) vAdds m d [held a x, .imm i] s)
def execVintISubs (y : BitVec 1) (x : BitVec 1) (m : BitVec 3) (i : BitVec 5) (a : BitVec 5) (d : BitVec 5) (s : State) : Out :=
  .next (elemOp (vintISubsWord y x m i a d) vSubs m d [held a x, .imm i] s)
def execVintIAddsu (y : BitVec 1) (x : BitVec 1) (m : BitVec 3) (i : BitVec 5) (a : BitVec 5) (d : BitVec 5) (s : State) : Out :=
  .next (elemOp (vintIAddsuWord y x m i a d) vAddsu m d [held a x, .imm i] s)
def execVintISubsu (y : BitVec 1) (x : BitVec 1) (m : BitVec 3) (i : BitVec 5) (a : BitVec 5) (d : BitVec 5) (s : State) : Out :=
  .next (elemOp (vintISubsuWord y x m i a d) vSubsu m d [held a x, .imm i] s)
def execVintIMov (y : BitVec 1) (m : BitVec 3) (i : BitVec 5) (d : BitVec 5) (s : State) : Out :=
  .next (elemOp (vintIMovWord y m i d) vMov m d [.imm i] s)

end Sys2Proof.Machine
end

