-- ==== Sys2Proof/Machine/VectorFloat.lean ====
section
/-!
DEFINITION. The vector floating-point instructions: vfp, vfp.g and vfma (R29, R30, R34, R176, R178, R181 to R183).
-/
namespace Sys2Proof.Machine

/-- A vector division leaves no flag for a zero divisor (R178). -/
def noDz (r : Nat × FFlags) : Nat × FFlags := (r.1, { r.2 with dz := false })

/-- A function of one element in the format of EW. -/
def float1 (f : FloatFmt → Rounding → Nat → Nat × FFlags) (ew : Nat) (rd : Rounding) (xs : List Nat) : Nat × FFlags :=
  noDz (f (floatFmt ew) rd (xs.getD 0 0))

/-- A function of two elements in the format of EW. -/
def float2 (f : FloatFmt → Rounding → Nat → Nat → Nat × FFlags) (ew : Nat) (rd : Rounding) (xs : List Nat) :
    Nat × FFlags := noDz (f (floatFmt ew) rd (xs.getD 0 0) (xs.getD 1 0))

/-- A function of three elements in the format of EW. -/
def float3 (f : FloatFmt → Rounding → Nat → Nat → Nat → Nat × FFlags) (ew : Nat) (rd : Rounding) (xs : List Nat) :
    Nat × FFlags := noDz (f (floatFmt ew) rd (xs.getD 0 0) (xs.getD 1 0) (xs.getD 2 0))

/-- An operation on the computing floating-point formats. -/
def floatOp (near rounds : Bool) (f : Nat → Rounding → List Nat → Nat × FFlags) : ElemOp :=
  ⟨fun ew => decide (10 ≤ ew) && decide (ew ≤ 13), near, rounds, f⟩

/-- a with the sign bit given. -/
def withSign (f : FloatFmt) (a : Nat) (neg : Bool) : Nat := a % f.signBit + (if neg then f.signBit else 0)

/-- The sign bit of a. -/
def signOf (f : FloatFmt) (a : Nat) : Bool := a / f.signBit % 2 == 1

def vFadd : ElemOp := floatOp true true (float2 faddBits)
def vFsub : ElemOp := floatOp true true (float2 fsubBits)
def vFmul : ElemOp := floatOp true true (float2 fmulBits)
def vFdiv : ElemOp := floatOp false true (float2 fdivBits)
def vFsqrt : ElemOp := floatOp false true (float1 fsqrtBits)
def vFmin : ElemOp := floatOp true false (float2 (fun f _ a b => minMaxNum f false a b))
def vFmax : ElemOp := floatOp true false (float2 (fun f _ a b => minMaxNum f true a b))
def vFabs : ElemOp := floatOp false false (float1 (fun f _ a => (withSign f a false, FFlags.none)))
def vFneg : ElemOp := floatOp false false (float1 (fun f _ a => (withSign f a (!signOf f a), FFlags.none)))
def vFsgn : ElemOp := floatOp false false (float2 (fun f _ a b => (withSign f a (signOf f b), FFlags.none)))
def vFrcp : ElemOp := floatOp false false (float1 (fun f _ a => frcpBits f a))
def vFrsq : ElemOp := floatOp false false (float1 (fun f _ a => frsqBits f a))
def vFexp2 : ElemOp := floatOp false false (float1 (fun f _ a => fexp2Bits f a))
def vFmadd : ElemOp := floatOp true true (float3 fmaddBits)
def vFmsub : ElemOp := floatOp true true (float3 fmsubBits)
def vFnmadd : ElemOp := floatOp true true (float3 fnmaddBits)

/-- imadd: a × b + c modulo 2^w (R183). -/
def vImadd : ElemOp :=
  intOp (fun ew _ xs => ((xs.getD 0 0 * xs.getD 1 0 + xs.getD 2 0) % 2 ^ ewBits ew, FFlags.none))

/-- A source of vfma: it has no hold bit, and waits (R34). -/
def waits (F : BitVec 5) : VecSrc := .reg F.toNat true

/-- A floating-point instruction: in the reduced service only f32 and bf16 are computed (R423). -/
def floatElem (word : Nat) (op : ElemOp) (m : BitVec 3) (d : BitVec 5) (srcs : List VecSrc) (s : State) : State :=
  elemOp word (if s.reduced then { op with accepts := fun ew => ew == 11 || ew == 12 } else op) m d srcs s

/-! ## vfp -/

def execVfpFadd (y : BitVec 1) (x : BitVec 1) (m : BitVec 3) (b : BitVec 5) (a : BitVec 5) (d : BitVec 5) (s : State) : Out :=
  .next (floatElem (vfpFaddWord y x m b a d) vFadd m d [held a x, held b y] s)
def execVfpFsub (y : BitVec 1) (x : BitVec 1) (m : BitVec 3) (b : BitVec 5) (a : BitVec 5) (d : BitVec 5) (s : State) : Out :=
  .next (floatElem (vfpFsubWord y x m b a d) vFsub m d [held a x, held b y] s)
def execVfpFmul (y : BitVec 1) (x : BitVec 1) (m : BitVec 3) (b : BitVec 5) (a : BitVec 5) (d : BitVec 5) (s : State) : Out :=
  .next (floatElem (vfpFmulWord y x m b a d) vFmul m d [held a x, held b y] s)
def execVfpFdiv (y : BitVec 1) (x : BitVec 1) (m : BitVec 3) (b : BitVec 5) (a : BitVec 5) (d : BitVec 5) (s : State) : Out :=
  .next (floatElem (vfpFdivWord y x m b a d) vFdiv m d [held a x, held b y] s)
def execVfpFsqrt (x : BitVec 1) (m : BitVec 3) (a : BitVec 5) (d : BitVec 5) (s : State) : Out :=
  .next (floatElem (vfpFsqrtWord x m a d) vFsqrt m d [held a x] s)
def execVfpFmin (y : BitVec 1) (x : BitVec 1) (m : BitVec 3) (b : BitVec 5) (a : BitVec 5) (d : BitVec 5) (s : State) : Out :=
  .next (floatElem (vfpFminWord y x m b a d) vFmin m d [held a x, held b y] s)
def execVfpFmax (y : BitVec 1) (x : BitVec 1) (m : BitVec 3) (b : BitVec 5) (a : BitVec 5) (d : BitVec 5) (s : State) : Out :=
  .next (floatElem (vfpFmaxWord y x m b a d) vFmax m d [held a x, held b y] s)
def execVfpFabs (x : BitVec 1) (m : BitVec 3) (a : BitVec 5) (d : BitVec 5) (s : State) : Out :=
  .next (floatElem (vfpFabsWord x m a d) vFabs m d [held a x] s)
def execVfpFneg (x : BitVec 1) (m : BitVec 3) (a : BitVec 5) (d : BitVec 5) (s : State) : Out :=
  .next (floatElem (vfpFnegWord x m a d) vFneg m d [held a x] s)
def execVfpFsgn (y : BitVec 1) (x : BitVec 1) (m : BitVec 3) (b : BitVec 5) (a : BitVec 5) (d : BitVec 5) (s : State) : Out :=
  .next (floatElem (vfpFsgnWord y x m b a d) vFsgn m d [held a x, held b y] s)
def execVfpFrcp (x : BitVec 1) (m : BitVec 3) (a : BitVec 5) (d : BitVec 5) (s : State) : Out :=
  .next (floatElem (vfpFrcpWord x m a d) vFrcp m d [held a x] s)
def execVfpFrsq (x : BitVec 1) (m : BitVec 3) (a : BitVec 5) (d : BitVec 5) (s : State) : Out :=
  .next (floatElem (vfpFrsqWord x m a d) vFrsq m d [held a x] s)
def execVfpFexp2 (x : BitVec 1) (m : BitVec 3) (a : BitVec 5) (d : BitVec 5) (s : State) : Out :=
  .next (floatElem (vfpFexp2Word x m a d) vFexp2 m d [held a x] s)

/-! ## vfp.g -/

def execVfpGFadd (y : BitVec 1) (x : BitVec 1) (m : BitVec 3) (b : BitVec 3) (a : BitVec 5) (d : BitVec 5) (s : State) : Out :=
  .next (floatElem (vfpGFaddWord y x m b a d) vFadd m d [held a x, .g b.toNat] s)
def execVfpGFsub (y : BitVec 1) (x : BitVec 1) (m : BitVec 3) (b : BitVec 3) (a : BitVec 5) (d : BitVec 5) (s : State) : Out :=
  .next (floatElem (vfpGFsubWord y x m b a d) vFsub m d [held a x, .g b.toNat] s)
def execVfpGFmul (y : BitVec 1) (x : BitVec 1) (m : BitVec 3) (b : BitVec 3) (a : BitVec 5) (d : BitVec 5) (s : State) : Out :=
  .next (floatElem (vfpGFmulWord y x m b a d) vFmul m d [held a x, .g b.toNat] s)
def execVfpGFdiv (y : BitVec 1) (x : BitVec 1) (m : BitVec 3) (b : BitVec 3) (a : BitVec 5) (d : BitVec 5) (s : State) : Out :=
  .next (floatElem (vfpGFdivWord y x m b a d) vFdiv m d [held a x, .g b.toNat] s)
def execVfpGFsqrt (x : BitVec 1) (m : BitVec 3) (a : BitVec 5) (d : BitVec 5) (s : State) : Out :=
  .next (floatElem (vfpGFsqrtWord x m a d) vFsqrt m d [held a x] s)
def execVfpGFmin (y : BitVec 1) (x : BitVec 1) (m : BitVec 3) (b : BitVec 3) (a : BitVec 5) (d : BitVec 5) (s : State) : Out :=
  .next (floatElem (vfpGFminWord y x m b a d) vFmin m d [held a x, .g b.toNat] s)
def execVfpGFmax (y : BitVec 1) (x : BitVec 1) (m : BitVec 3) (b : BitVec 3) (a : BitVec 5) (d : BitVec 5) (s : State) : Out :=
  .next (floatElem (vfpGFmaxWord y x m b a d) vFmax m d [held a x, .g b.toNat] s)
def execVfpGFabs (x : BitVec 1) (m : BitVec 3) (a : BitVec 5) (d : BitVec 5) (s : State) : Out :=
  .next (floatElem (vfpGFabsWord x m a d) vFabs m d [held a x] s)
def execVfpGFneg (x : BitVec 1) (m : BitVec 3) (a : BitVec 5) (d : BitVec 5) (s : State) : Out :=
  .next (floatElem (vfpGFnegWord x m a d) vFneg m d [held a x] s)
def execVfpGFsgn (y : BitVec 1) (x : BitVec 1) (m : BitVec 3) (b : BitVec 3) (a : BitVec 5) (d : BitVec 5) (s : State) : Out :=
  .next (floatElem (vfpGFsgnWord y x m b a d) vFsgn m d [held a x, .g b.toNat] s)
def execVfpGFrcp (x : BitVec 1) (m : BitVec 3) (a : BitVec 5) (d : BitVec 5) (s : State) : Out :=
  .next (floatElem (vfpGFrcpWord x m a d) vFrcp m d [held a x] s)
def execVfpGFrsq (x : BitVec 1) (m : BitVec 3) (a : BitVec 5) (d : BitVec 5) (s : State) : Out :=
  .next (floatElem (vfpGFrsqWord x m a d) vFrsq m d [held a x] s)
def execVfpGFexp2 (x : BitVec 1) (m : BitVec 3) (a : BitVec 5) (d : BitVec 5) (s : State) : Out :=
  .next (floatElem (vfpGFexp2Word x m a d) vFexp2 m d [held a x] s)

/-! ## vfma -/

def execVfmaFmadd (m : BitVec 3) (c : BitVec 5) (b : BitVec 5) (a : BitVec 5) (d : BitVec 5) (s : State) : Out :=
  .next (floatElem (vfmaFmaddWord m c b a d) vFmadd m d [waits a, waits b, waits c] s)
def execVfmaFmsub (m : BitVec 3) (c : BitVec 5) (b : BitVec 5) (a : BitVec 5) (d : BitVec 5) (s : State) : Out :=
  .next (floatElem (vfmaFmsubWord m c b a d) vFmsub m d [waits a, waits b, waits c] s)
def execVfmaFnmadd (m : BitVec 3) (c : BitVec 5) (b : BitVec 5) (a : BitVec 5) (d : BitVec 5) (s : State) : Out :=
  .next (floatElem (vfmaFnmaddWord m c b a d) vFnmadd m d [waits a, waits b, waits c] s)
def execVfmaImadd (m : BitVec 3) (c : BitVec 5) (b : BitVec 5) (a : BitVec 5) (d : BitVec 5) (s : State) : Out :=
  .next (elemOp (vfmaImaddWord m c b a d) vImadd m d [waits a, waits b, waits c] s)

end Sys2Proof.Machine
end

