-- ==== Sys2Proof/Machine/VectorMask.lean ====
section
/-!
DEFINITION. The vector instructions that write masks or deliver to the scalar stream: vcmp, vcmp.g, vmask and vred
(R31, R32, R184 to R188).
-/
namespace Sys2Proof.Machine

/-! ## vcmp (R184) -/

/-- A relation of two elements: the formats it accepts, and whether it holds with whether it sets NV. -/
structure Relation where
  accepts : Nat → Bool
  holds   : Nat → Nat → Nat → Bool × Bool

/-- A relation of integers, of their width and bits. -/
def intRel (f : Nat → Nat → Nat → Bool) : Relation :=
  ⟨fun ew => decide (ew < 8), fun ew a b => (f (ewBits ew) a b, false)⟩

/-- A relation of floating-point values (R112). -/
def floatRel (r : FRel) : Relation :=
  ⟨fun ew => decide (10 ≤ ew) && decide (ew ≤ 13), fun ew a b => fcmp (floatFmt ew) r a b⟩

def relEq : Relation := intRel (fun _ a b => a == b)
def relNe : Relation := intRel (fun _ a b => a != b)
def relLt : Relation := intRel (fun w a b => decide (asInt w a < asInt w b))
def relLe : Relation := intRel (fun w a b => decide (asInt w a ≤ asInt w b))
def relLtu : Relation := intRel (fun _ a b => decide (a < b))
def relLeu : Relation := intRel (fun _ a b => decide (a ≤ b))
def relFeq : Relation := floatRel .eq
def relFlt : Relation := floatRel .lt
def relFle : Relation := floatRel .le
def relFun : Relation := floatRel .un

/-- Bit i of mask d takes the relation of a's element and the operand b, for each active i (R184). -/
def compare (word : Nat) (r : Relation) (m d : BitVec 3) (a b : VecSrc) (s : State) : State :=
  let fs := [a, b].filterMap VecSrc.field
  computing word ⟨none, .same, fs⟩ (fun V _ => r.accepts V.ew)
    ⟨fmtGeo, m, sameReads fs, noWrites, fun H R i V =>
      let g := H.vec.geo H.obs.prot
      let (row, u) := H.vec.rowOf g i
      let (x, nv) := r.holds H.vec.ew (a.value H.vec R g row u) (b.value H.vec R g row u)
      (V.setMask d (putBit (V.maskAt d) i x) i 1).raise { FFlags.none with nv := nv }⟩
    noFin s

def execVcmpEq (y : BitVec 1) (x : BitVec 1) (m : BitVec 3) (b : BitVec 5) (a : BitVec 5) (d : BitVec 3) (s : State) : Out :=
  .next (compare (vcmpEqWord y x m b a d) relEq m d (held a x) (held b y) s)
def execVcmpNe (y : BitVec 1) (x : BitVec 1) (m : BitVec 3) (b : BitVec 5) (a : BitVec 5) (d : BitVec 3) (s : State) : Out :=
  .next (compare (vcmpNeWord y x m b a d) relNe m d (held a x) (held b y) s)
def execVcmpLt (y : BitVec 1) (x : BitVec 1) (m : BitVec 3) (b : BitVec 5) (a : BitVec 5) (d : BitVec 3) (s : State) : Out :=
  .next (compare (vcmpLtWord y x m b a d) relLt m d (held a x) (held b y) s)
def execVcmpLe (y : BitVec 1) (x : BitVec 1) (m : BitVec 3) (b : BitVec 5) (a : BitVec 5) (d : BitVec 3) (s : State) : Out :=
  .next (compare (vcmpLeWord y x m b a d) relLe m d (held a x) (held b y) s)
def execVcmpLtu (y : BitVec 1) (x : BitVec 1) (m : BitVec 3) (b : BitVec 5) (a : BitVec 5) (d : BitVec 3) (s : State) : Out :=
  .next (compare (vcmpLtuWord y x m b a d) relLtu m d (held a x) (held b y) s)
def execVcmpLeu (y : BitVec 1) (x : BitVec 1) (m : BitVec 3) (b : BitVec 5) (a : BitVec 5) (d : BitVec 3) (s : State) : Out :=
  .next (compare (vcmpLeuWord y x m b a d) relLeu m d (held a x) (held b y) s)
def execVcmpFeq (y : BitVec 1) (x : BitVec 1) (m : BitVec 3) (b : BitVec 5) (a : BitVec 5) (d : BitVec 3) (s : State) : Out :=
  .next (compare (vcmpFeqWord y x m b a d) relFeq m d (held a x) (held b y) s)
def execVcmpFlt (y : BitVec 1) (x : BitVec 1) (m : BitVec 3) (b : BitVec 5) (a : BitVec 5) (d : BitVec 3) (s : State) : Out :=
  .next (compare (vcmpFltWord y x m b a d) relFlt m d (held a x) (held b y) s)
def execVcmpFle (y : BitVec 1) (x : BitVec 1) (m : BitVec 3) (b : BitVec 5) (a : BitVec 5) (d : BitVec 3) (s : State) : Out :=
  .next (compare (vcmpFleWord y x m b a d) relFle m d (held a x) (held b y) s)
def execVcmpFun (y : BitVec 1) (x : BitVec 1) (m : BitVec 3) (b : BitVec 5) (a : BitVec 5) (d : BitVec 3) (s : State) : Out :=
  .next (compare (vcmpFunWord y x m b a d) relFun m d (held a x) (held b y) s)
def execVcmpGEq (y : BitVec 1) (x : BitVec 1) (m : BitVec 3) (b : BitVec 3) (a : BitVec 5) (d : BitVec 3) (s : State) : Out :=
  .next (compare (vcmpGEqWord y x m b a d) relEq m d (held a x) (.g b.toNat) s)
def execVcmpGNe (y : BitVec 1) (x : BitVec 1) (m : BitVec 3) (b : BitVec 3) (a : BitVec 5) (d : BitVec 3) (s : State) : Out :=
  .next (compare (vcmpGNeWord y x m b a d) relNe m d (held a x) (.g b.toNat) s)
def execVcmpGLt (y : BitVec 1) (x : BitVec 1) (m : BitVec 3) (b : BitVec 3) (a : BitVec 5) (d : BitVec 3) (s : State) : Out :=
  .next (compare (vcmpGLtWord y x m b a d) relLt m d (held a x) (.g b.toNat) s)
def execVcmpGLe (y : BitVec 1) (x : BitVec 1) (m : BitVec 3) (b : BitVec 3) (a : BitVec 5) (d : BitVec 3) (s : State) : Out :=
  .next (compare (vcmpGLeWord y x m b a d) relLe m d (held a x) (.g b.toNat) s)
def execVcmpGLtu (y : BitVec 1) (x : BitVec 1) (m : BitVec 3) (b : BitVec 3) (a : BitVec 5) (d : BitVec 3) (s : State) : Out :=
  .next (compare (vcmpGLtuWord y x m b a d) relLtu m d (held a x) (.g b.toNat) s)
def execVcmpGLeu (y : BitVec 1) (x : BitVec 1) (m : BitVec 3) (b : BitVec 3) (a : BitVec 5) (d : BitVec 3) (s : State) : Out :=
  .next (compare (vcmpGLeuWord y x m b a d) relLeu m d (held a x) (.g b.toNat) s)
def execVcmpGFeq (y : BitVec 1) (x : BitVec 1) (m : BitVec 3) (b : BitVec 3) (a : BitVec 5) (d : BitVec 3) (s : State) : Out :=
  .next (compare (vcmpGFeqWord y x m b a d) relFeq m d (held a x) (.g b.toNat) s)
def execVcmpGFlt (y : BitVec 1) (x : BitVec 1) (m : BitVec 3) (b : BitVec 3) (a : BitVec 5) (d : BitVec 3) (s : State) : Out :=
  .next (compare (vcmpGFltWord y x m b a d) relFlt m d (held a x) (.g b.toNat) s)
def execVcmpGFle (y : BitVec 1) (x : BitVec 1) (m : BitVec 3) (b : BitVec 3) (a : BitVec 5) (d : BitVec 3) (s : State) : Out :=
  .next (compare (vcmpGFleWord y x m b a d) relFle m d (held a x) (.g b.toNat) s)
def execVcmpGFun (y : BitVec 1) (x : BitVec 1) (m : BitVec 3) (b : BitVec 3) (a : BitVec 5) (d : BitVec 3) (s : State) : Out :=
  .next (compare (vcmpGFunWord y x m b a d) relFun m d (held a x) (.g b.toNat) s)

/-! ## vmask (R185) -/

/-- A mask instruction on the live indices: bit i of mask d takes f of bit i of masks a and b. -/
def maskLogic (word : Nat) (a b d : BitVec 3) (f : Bool → Bool → Bool) (s : State) : State :=
  computing word VecFields.none (fun _ _ => true)
    ⟨fmtGeo, 0, fun _ _ _ => [], noWrites, fun H _ i V =>
      V.setMask d (putBit (V.maskAt d) i (f ((H.vec.maskAt a).getLsbD i) ((H.vec.maskAt b).getLsbD i))) i 1⟩
    noFin s

def execMand (y : BitVec 1) (x : BitVec 1) (b : BitVec 3) (a : BitVec 3) (d : BitVec 3) (s : State) : Out :=
  .next (maskLogic (mandWord y x b a d) a b d (fun u v => u && v) s)
def execMor (y : BitVec 1) (x : BitVec 1) (b : BitVec 3) (a : BitVec 3) (d : BitVec 3) (s : State) : Out :=
  .next (maskLogic (morWord y x b a d) a b d (fun u v => u || v) s)
def execMxor (y : BitVec 1) (x : BitVec 1) (b : BitVec 3) (a : BitVec 3) (d : BitVec 3) (s : State) : Out :=
  .next (maskLogic (mxorWord y x b a d) a b d (fun u v => u != v) s)
def execMnot (x : BitVec 1) (a : BitVec 3) (d : BitVec 3) (s : State) : Out :=
  .next (maskLogic (mnotWord x a d) a a d (fun u _ => !u) s)
def execMset (d : BitVec 3) (s : State) : Out :=
  .next (maskLogic (msetWord d) 0 0 d (fun _ _ => true) s)
def execMclr (d : BitVec 3) (s : State) : Out :=
  .next (maskLogic (mclrWord d) 0 0 d (fun _ _ => false) s)

/-! ## Delivery to the scalar stream (R186) -/

/-- A reduction writes its scalar destination: a scanned one becomes full, another keeps its state (R186). -/
def Hart.deliverS (H : Hart) (d : BitVec 5) (v : Word) : Hart :=
  match H.vec.inst with
  | none => H
  | some b =>
    if b.scanS.getLsbD d.toNat then
      { H with vec := { H.vec with inst := some { b with scanS := putBit b.scanS d.toNat false } } }.fillS none d v
    else
      let keep (R : ScalarRegs) : ScalarRegs := { R.putS d v with empty := R.empty }
      { H with regs := keep H.regs, checks := H.checks.map (fun c => { c with regs := keep c.regs }) }

/-- A reduction writes its condition bit (R186). -/
def Hart.deliverK (H : Hart) (k : BitVec 3) (v : Bool) : Hart :=
  match H.vec.inst with
  | none => H
  | some b =>
    if b.scanK.getLsbD k.toNat then
      { H with vec := { H.vec with inst := some { b with scanK := putBit b.scanK k.toNat false } } }.fillK k v
    else
      let keep (R : ScalarRegs) : ScalarRegs := { R.putK k v with empty := R.empty }
      { H with regs := keep H.regs, checks := H.checks.map (fun c => { c with regs := keep c.regs }) }

/-- The live or active indices of the tile, in ascending order. -/
def VecState.activeList (V : VecState) (g : Geometry) (m : BitVec 3) : List Nat :=
  (List.range (V.units g)).filter (fun i => V.active m i)

/-- A mask count: over the live indices whose bit of mask a is set (R185). -/
def maskCount (word : Nat) (a : BitVec 3) (d : BitVec 5) (f : List Nat → Word) (s : State) : State :=
  computing word VecFields.none (fun _ _ => true)
    ⟨fmtGeo, 0, fun _ _ _ => [], noWrites, fun _ _ _ V => V⟩
    (fun h t =>
      let H := t.hart h
      t.setHart h (H.deliverS d (f (H.vec.activeList (H.vec.geo H.obs.prot) a)))) s


def execMpop (x : BitVec 1) (a : BitVec 3) (d : BitVec 5) (s : State) : Out :=
  .next (maskCount (mpopWord x a d) a d (fun l => BitVec.ofNat 64 l.length) s)
def execMfirst (x : BitVec 1) (a : BitVec 3) (d : BitVec 5) (s : State) : Out :=
  .next (maskCount (mfirstWord x a d) a d
    (fun l => (l.head?.map (fun i => BitVec.ofNat 64 i)).getD (BitVec.allOnes 64)) s)

/-! ## vred (R187, R188) -/

/-- The active elements of a source as bits, each with its index. -/
def Hart.activeElements (H : Hart) (src : Nat × Bool) (m : BitVec 3) : List (Nat × Nat) :=
  let g := H.vec.geo H.obs.prot
  let R := H.sourceRegs [src]
  (H.vec.activeList g m).map (fun i =>
    let (r, u) := H.vec.rowOf g i
    (i, readUnit R g H.vec.gf src.1 r u))

/-- A reduction: the formats it accepts, and what it does with the active elements once all have been read. -/
def reduction (word : Nat) (accepts : Nat → Bool) (x : BitVec 1) (m : BitVec 3) (a : BitVec 5)
    (fin : Hart → List (Nat × Nat) → Hart) (s : State) : State :=
  let src := (a.toNat, x == 1)
  computing word ⟨none, .same, [src]⟩ (fun V _ => accepts V.ew)
    ⟨fmtGeo, m, sameReads [src], noWrites, fun _ _ _ V => V⟩
    (fun h t =>
      let H := t.hart h
      t.setHart h (fin H (H.activeElements src m))) s

/-- An integer element extended to 64 bits (R187). -/
def extendElem (ew x : Nat) : Int := if ewSigned ew then asInt (ewBits ew) x else x

/-- An integer reduction: f of the format and the elements (R187). -/
def intReduce (word : Nat) (x : BitVec 1) (m : BitVec 3) (a d : BitVec 5) (f : Nat → List Nat → Int) (s : State) :
    State :=
  reduction word (fun ew => decide (ew < 8)) x m a
    (fun H l => H.deliverS d (BitVec.ofInt 64 (f H.vec.ew (l.map (fun e => e.2))))) s

/-- The largest value of an integer format. -/
def ewMax (ew : Nat) : Int := if ewSigned ew then 2 ^ (ewBits ew - 1) - 1 else 2 ^ ewBits ew - 1

/-- The smallest value of an integer format. -/
def ewMin (ew : Nat) : Int := if ewSigned ew then -2 ^ (ewBits ew - 1) else 0

def execRsum (x : BitVec 1) (m : BitVec 3) (a : BitVec 5) (d : BitVec 5) (s : State) : Out :=
  .next (intReduce (rsumWord x m a d) x m a d (fun ew l => l.foldl (fun n e => n + extendElem ew e) 0) s)
def execRmin (x : BitVec 1) (m : BitVec 3) (a : BitVec 5) (d : BitVec 5) (s : State) : Out :=
  .next (intReduce (rminWord x m a d) x m a d (fun ew l => l.foldl (fun n e => min n (extendElem ew e)) (ewMax ew)) s)
def execRmax (x : BitVec 1) (m : BitVec 3) (a : BitVec 5) (d : BitVec 5) (s : State) : Out :=
  .next (intReduce (rmaxWord x m a d) x m a d (fun ew l => l.foldl (fun n e => max n (extendElem ew e)) (ewMin ew)) s)
def execRand (x : BitVec 1) (m : BitVec 3) (a : BitVec 5) (d : BitVec 5) (s : State) : Out :=
  .next (intReduce (randWord x m a d) x m a d (fun ew l => (l.foldl (fun n e => n &&& e) (2 ^ ewBits ew - 1) : Nat)) s)
def execRor (x : BitVec 1) (m : BitVec 3) (a : BitVec 5) (d : BitVec 5) (s : State) : Out :=
  .next (intReduce (rorWord x m a d) x m a d (fun _ l => (l.foldl (fun n e => n ||| e) 0 : Nat)) s)
def execRxor (x : BitVec 1) (m : BitVec 3) (a : BitVec 5) (d : BitVec 5) (s : State) : Out :=
  .next (intReduce (rxorWord x m a d) x m a d (fun _ l => (l.foldl (fun n e => n ^^^ e) 0 : Nat)) s)

/-- Neighbours of a level, reduced: an absent one gives the other (R188). -/
def pairUp (node : Nat → Nat → Nat × FFlags) : List (Option Nat) → List (Option Nat) × FFlags
  | [] => ([], FFlags.none)
  | [x] => ([x], FFlags.none)
  | x :: y :: t =>
    let (r, f) := pairUp node t
    match x, y with
    | some u, some v =>
      let (w, k) := node u v
      (some w :: r, k.or f)
    | some u, none => (some u :: r, f)
    | none, z => (z :: r, f)

/-- The tree, level by level, until one value is left; n bounds the levels. -/
def treeReduce (node : Nat → Nat → Nat × FFlags) : Nat → List (Option Nat) → Option Nat × FFlags
  | 0, l => (l.head?.join, FFlags.none)
  | n + 1, l =>
    if l.length ≤ 1 then (l.head?.join, FFlags.none)
    else
      let (l1, f) := pairUp node l
      let (r, k) := treeReduce node n l1
      (r, f.or k)

/-- A floating-point reduction: the leaves in f64 at their places, the tree, the result in s[d] (R188). The
flags of the leaves and the nodes are raised together, at completion (assumption 64, DESIGN CHOICE). -/
def floatReduce (word : Nat) (x : BitVec 1) (m : BitVec 3) (a d : BitVec 5) (node : Nat → Nat → Nat × FFlags)
    (empty : Nat) (s : State) : State :=
  reduction word (fun ew => decide (10 ≤ ew) && decide (ew ≤ 13)) x m a
    (fun H l =>
      let conv (e : Nat) : Nat × FFlags := convertNum fmtF64 rne (unpack (floatFmt H.vec.ew) e)
      let leaves := (List.range (H.vec.rows.toNat * H.vec.len.toNat)).map (fun i =>
        (l.find? (fun e => e.1 == i)).map (fun e => (conv e.2).1))
      let f0 := l.foldl (fun f e => f.or (conv e.2).2) FFlags.none
      let (r, f1) := treeReduce node 15 leaves
      { H with vec := H.vec.raise (f0.or f1) }.deliverS d (BitVec.ofNat 64 (r.getD empty))) s


def execRfsum (x : BitVec 1) (m : BitVec 3) (a : BitVec 5) (d : BitVec 5) (s : State) : Out :=
  .next (floatReduce (rfsumWord x m a d) x m a d (faddBits fmtF64 rne) 0 s)
def execRfmin (x : BitVec 1) (m : BitVec 3) (a : BitVec 5) (d : BitVec 5) (s : State) : Out :=
  .next (floatReduce (rfminWord x m a d) x m a d (minMaxNum fmtF64 false) (fmtF64.inf false) s)
def execRfmax (x : BitVec 1) (m : BitVec 3) (a : BitVec 5) (d : BitVec 5) (s : State) : Out :=
  .next (floatReduce (rfmaxWord x m a d) x m a d (minMaxNum fmtF64 true) (fmtF64.inf true) s)

/-- A test of the elements for a nonzero bit (R187). -/
def testReduce (word : Nat) (x : BitVec 1) (m : BitVec 3) (a : BitVec 5) (d : BitVec 3) (f : List Nat → Bool)
    (s : State) : State :=
  reduction word (fun ew => decide (ew < 14)) x m a (fun H l => H.deliverK d (f (l.map (fun e => e.2)))) s


def execRany (x : BitVec 1) (m : BitVec 3) (a : BitVec 5) (d : BitVec 3) (s : State) : Out :=
  .next (testReduce (ranyWord x m a d) x m a d (fun l => l.any (fun e => e != 0)) s)
def execRall (x : BitVec 1) (m : BitVec 3) (a : BitVec 5) (d : BitVec 3) (s : State) : Out :=
  .next (testReduce (rallWord x m a d) x m a d (fun l => l.all (fun e => e != 0)) s)

end Sys2Proof.Machine
end

