-- ==== Sys2Proof/Machine/VectorMove.lean ====
section
/-!
DEFINITION. The vector conversion and the permutes: vcvt and vperm, with the blocked formats (R33, R140 to R147, R189 to
R193).
-/
namespace Sys2Proof.Machine

/-! ## Blocked formats (R140 to R144) -/

/-- The codebook of q4n in units of 1/256 (R140). -/
def codebook : List Int := [-256, -178, -134, -101, -74, -50, -24, 0, 20, 41, 63, 87, 114, 146, 186, 256]

/-- The value of code c. -/
def codeValue (c : Nat) : Num :=
  let v := codebook.getD c 0
  .fin (decide (v < 0)) v.natAbs (-8)

/-- The scale of a block: b := rne32(S × ((k + 1) × 2^−8)) (R141). This rounding raises no flag of its own (assumption 64,
DESIGN CHOICE). -/
def blockScale (S k : Nat) : Nat := (mulNum fmtF32 rne (unpack fmtF32 S) (.fin false (k + 1) (-8))).1

/-- Element j of a q4n cell as an exact value, under the super scale S, whose NaN it keeps (R133, R140, R141). -/
def q4nElement (S cell j : Nat) : Num :=
  let k := cell % 256
  let code := cell / 256 / 16 ^ j % 16
  if (unpack fmtF32 S).isNan then unpack fmtF32 S
  else prodNum (codeValue code) (unpack fmtF32 (blockScale S k))

/-- x × 2 ^ k of a number. -/
def Num.scale (k : Int) : Num → Num
  | .fin n m e => .fin n m (e + k)
  | x => x

/-- Element j of an e4m3b cell as an exact value (R143). -/
def e4m3bElement (cell j : Nat) : Num :=
  let e := cell % 256
  if e = 0xFF then .nan false else (unpack fmtE4m3 (cell / 256 / 256 ^ j % 256)).scale ((e : Int) - 127)

/-- The magnitude of a number: infinite, or m × 2 ^ e. -/
inductive Mag where
  | inf
  | fin (m : Nat) (e : Int)
  deriving DecidableEq, Repr

/-- The larger magnitude. -/
def Mag.max : Mag → Mag → Mag
  | .inf, _ => .inf
  | _, .inf => .inf
  | .fin m e, .fin n f => if scaled m e (min e f) < scaled n f (min e f) then .fin n f else .fin m e

/-- The magnitude of a number that is no NaN. -/
def Num.mag : Num → Option Mag
  | .nan _ => none
  | .inf _ => some .inf
  | .fin _ m e => some (.fin m e)

/-- max |x| over the values that are no NaN; 0 if there is none. -/
def maxMag (xs : List Num) : Mag := (xs.filterMap Num.mag).foldl Mag.max (.fin 0 0)

/-- ceil(a × 2^e / (b × 2^f)) for b > 0. -/
def ceilDiv (a : Nat) (e : Int) (b : Nat) (f : Int) : Nat :=
  let n := a * 2 ^ (e - f).toNat
  let d := b * 2 ^ (f - e).toNat
  (n + d - 1) / d

/-- The code of a q4n cell: want, clamped, and whether the clamp saturates (R142). -/
def scaleCode (mx : Mag) (S : Num) : Nat × Bool :=
  match mx, S with
  | .inf, _ => (255, true)
  | .fin m e, .fin _ n f =>
    let want := ceilDiv m (e + 8) n f - 1
    (min want 255, decide (255 < want))
  | _, _ => (0, false)

/-- |x − L[c] × b| in units of 2 ^ u. -/
def codeDistance (u : Int) (n : Bool) (m : Nat) (e : Int) (b : Num) (c : Nat) : Nat :=
  match prodNum (codeValue c) b with
  | .fin n2 m2 e2 =>
    let x := if n then -scaled m e u else scaled m e u
    let y := if n2 then -scaled m2 e2 u else scaled m2 e2 u
    (x - y).natAbs
  | _ => 0

/-- The first code from c on that is nearest, best so far with its distance (R142). -/
def nearestFrom (dist : Nat → Nat) : Nat → Nat → Nat → Nat → Nat
  | 0, _, best, _ => best
  | n + 1, c, best, d => if dist c < d then nearestFrom dist n (c + 1) c (dist c) else nearestFrom dist n (c + 1) best d

/-- The code of a value under the scale b, with its flags: ties to the lower code. An infinity is equally far from every
value, so it takes code 0, and so does every element, a -0 too, under a b that has rounded to 0: the tie of the pseudocode
before the sentence on -0 (R142; assumption 64, DESIGN CHOICE). The decode that the inexact test compares rounds to nearest even
(assumption 64, DESIGN CHOICE). -/
def encodeCode (b : Num) (x : Num) : Nat × FFlags :=
  match x with
  | .nan _ => (7, FFlags.invalid)
  | .inf _ => (0, { FFlags.none with nx := true })
  | .fin n m e =>
    let u := min e (match b with | .fin _ _ f => f - 8 | _ => e)
    let c := nearestFrom (codeDistance u n m e b) 15 1 0 (codeDistance u n m e b 0)
    let dec := (convertNum fmtF32 rne (prodNum (codeValue c) b)).1
    (c, { FFlags.none with nx := cmpNum (unpack fmtF32 dec) x != 0 })

/-- The bytes of digits in a base, the first least significant. -/
def packDigits (base : Nat) (l : List Nat) : Nat := l.foldr (fun d n => d % base + base * n) 0

/-- Encode 64 values into a q4n cell under the super scale S (R142). -/
def encodeQ4n (S : Nat) (xs : List Num) : Nat × FFlags :=
  let s := unpack fmtF32 S
  let bad := match s with
    | .fin _ m _ => m == 0
    | _ => true
  if bad then (packDigits 16 (xs.map (fun _ => 7)) * 256, FFlags.invalid)
  else
    let (k, sat) := scaleCode (maxMag xs) s
    let b := unpack fmtF32 (blockScale S k)
    let cs := xs.map (encodeCode b)
    (k + 256 * packDigits 16 (cs.map (fun c => c.1)),
      cs.foldl (fun f c => f.or c.2) { FFlags.none with sat := sat })

/-- mx × 2^(127 − e) ≤ 448. -/
def fitsE4m3 (mx : Mag) (e : Nat) : Bool :=
  match mx with
  | .inf => false
  | .fin m f => let u := f + 127 - (e : Int); decide (m * 2 ^ u.toNat ≤ 448 * 2 ^ (-u).toNat)

/-- The scale of an e4m3b cell: the smallest that fits, or 254 (R144). -/
def e4m3bScale (mx : Mag) : Nat := ((List.range 255).find? (fitsE4m3 mx)).getD 254

/-- Encode values into an e4m3b cell, each under its own rounding (R144). -/
def encodeE4m3b (xs : List (Num × Rounding)) : Nat × FFlags :=
  let e := e4m3bScale (maxMag (xs.map (fun x => x.1)))
  let cs := xs.map (fun x =>
    if x.1.isNan then (0x7F, FFlags.invalid) else convertNum fmtE4m3 x.2 (x.1.scale (127 - (e : Int))))
  (e + 256 * packDigits 256 (cs.map (fun c => c.1)), cs.foldl (fun f c => f.or c.2) FFlags.none)

/-! ## vcvt (R145, R189, R190) -/

/-- An integer as a number. -/
def intNum (v : Int) : Num := .fin (decide (v < 0)) v.natAbs 0

/-- Element e of row r of a source in the format ew, as an exact value. -/
def Hart.sourceNum (H : Hart) (R : Vector VReg 32) (ew F r e : Nat) : Num :=
  let V := H.vec
  let g := geometry ew V.bl H.obs.prot
  let x := readUnit R g V.gf F r (e / g.block)
  if ew = 14 then q4nElement (V.sideAt (unitReg g V.gf F r (e / g.block))).toNat x (e % g.block)
  else if ew = 15 then e4m3bElement x (e % g.block)
  else if ew < 8 then intNum (extendElem ew x)
  else unpack (floatFmt ew) x

/-- The integer that a number without a fraction stands for. -/
def Num.toInteger : Num → Int
  | .fin n m _ => if n then -(m : Int) else m
  | _ => 0

/-- An integer into an integer format (R147). -/
def intToInt (ew : Nat) (sat : Bool) (v : Int) : Nat × FFlags :=
  let w := ewBits ew
  let lo := ewMin ew
  let hi := ewMax ew
  if sat then clampTo w lo hi v else (lowBits w v, FFlags.none)

/-- Convert a value from the format src into the unblocked format dst (R145 to R147). -/
def convertElem (src dst : Nat) (rd : Rounding) (x : Num) : Nat × FFlags :=
  if dst < 8 then
    if src < 8 then intToInt dst rd.sat x.toInteger else floatToInt (ewBits dst) (ewSigned dst) rd x
  else if src < 8 then intToFloat (floatFmt dst) rd x.toInteger
  else convertNum (floatFmt dst) rd x

/-- The geometry that counts the units of a vcvt: the destination's if it is blocked, else the source's (R189). -/
def cvtGeo (dst : Nat) (V : VecState) (prot : Bool) : Geometry :=
  if ewBlocked dst then geometry dst V.bl prot else V.geo prot

/-- The elements of unit u: their places in the row. -/
def unitElems (g : Geometry) (u : Nat) : List Nat := (List.range g.block).map (fun j => u * g.block + j)

/-- The super scale of a q4n destination: the source's side word, or g7 (R190). -/
def Hart.destScale (H : Hart) (F r u : Nat) : BitVec 32 :=
  let V := H.vec
  if V.ew = 14 then V.sideAt (unitReg (V.geo H.obs.prot) V.gf F r u) else V.g[7].setWidth 32

/-- The effect of vcvt on unit i (R190). -/
def cvtUnit (dst mode : Nat) (sat z : Bool) (F d : Nat) (H : Hart) (R : Vector VReg 32) (i : Nat) (V : VecState) :
    VecState :=
  let prot := H.obs.prot
  let src := H.vec.ew
  let g := cvtGeo dst H.vec prot
  let gd := geometry dst H.vec.bl prot
  let (r, u) := H.vec.rowOf g i
  let rd (e : Nat) : Rounding :=
    { H.elemRounding (if mode = 5 then H.vec.rm else mode) sat (r * H.vec.len.toNat + e) with z := z }
  if dst = 14 then
    let S := H.destScale F r u
    let (x, f) := encodeQ4n S.toNat ((unitElems g u).map (fun e => H.sourceNum R src F r e))
    ((V.putUnit gd prot d r u x).setSide (unitReg gd V.gf d r u) S).raise f
  else if dst = 15 then
    let (x, f) := encodeE4m3b ((unitElems g u).map (fun e => (H.sourceNum R src F r e, rd e)))
    (V.putUnit gd prot d r u x).raise f
  else
    (unitElems g u).foldl (fun V e =>
      let (x, f) := convertElem src dst (rd e) (H.sourceNum R src F r e)
      (V.putUnit gd prot d r e x).raise f) V

/-- The bytes of the units of a format that hold the elements of unit i. -/
def cvtBytes (dst ew F : Nat) (H : Hart) (i : Nat) : List GroupBytes :=
  let g := cvtGeo dst H.vec H.obs.prot
  let ge := geometry ew H.vec.bl H.obs.prot
  let (r, u) := H.vec.rowOf g i
  (unitElems g u).map (fun e => unitBytes ge H.vec.gf F r (e / ge.block))

/-- The dispatch checks of vcvt (R189). -/
def cvtOk (dst : Nat) (V : VecState) (prot : Bool) : Bool :=
  let gd := geometry dst V.bl prot
  decide (dst < 16) && decide (V.len.toNat ≤ V.gf * gd.per * gd.block) && V.len.toNat % gd.block == 0

/-- Two unblocked formats of one width (R177). -/
def cvtSame (V : VecState) (dst : Nat) : Bool :=
  !ewBlocked V.ew && !ewBlocked dst && ewBits V.ew == ewBits dst

def execVcvt (z fs : BitVec 1) (r : BitVec 3) (h x : BitVec 1) (m : BitVec 3) (b a d : BitVec 5) (s : State) : Out :=
  .next (
    let src := (a.toNat, x == 1)
    let V := match s.agent with
      | .vector u => (s.hart u).vec
      | _ => VecState.initial
    computing (vcvtWord z fs r h x m b a d)
      ⟨some d.toNat, if cvtSame V b.toNat then .same else .disjoint, [src]⟩ (cvtOk b.toNat)
      ⟨cvtGeo b.toNat, m, fun H _ i => cvtBytes b.toNat H.vec.ew a.toNat H i, cvtBytes b.toNat b.toNat d.toNat,
        cvtUnit b.toNat r.toNat (fs == 1) (z == 1) a.toNat d.toNat⟩
      drawn s)

/-! ## vperm (R191 to R193) -/

/-- What a permute does with unit i: nothing, or it writes destination unit u of row r from a unit of a field (field, row,
unit), or from the zero unit. -/
structure PermMove where
  row  : Nat
  unit : Nat
  src  : Option (Nat × Nat × Nat)
  deriving DecidableEq, Repr

/-- The zero unit (R191). -/
def zeroUnit (ew : Nat) : Nat := if ew = 14 then packDigits 16 (List.replicate 64 7) * 256 else 0

/-- A permute: what it does with unit i, given the mask that governs it. -/
abbrev PermPlan := Hart → Vector VReg 32 → Nat → Option PermMove

/-- The side words as the permute in progress found them: its own writes do not change what its later cells bring
(R177, R191). -/
def Hart.sidesFound (H : Hart) : Vector (BitVec 32) 32 := (H.vec.inst.bind (fun b => b.sides)).getD H.vec.side

/-- A q4n permute that begins notes the side words. -/
def noteSides (s : State) : State :=
  match s.agent with
  | .vector h =>
    let H := s.hart h
    match H.vec.inst with
    | some b =>
      if H.vec.ew = 14 ∧ H.vec.estart = 0 then
        s.setHart h { H with vec := { H.vec with inst := some { b with sides := some H.vec.side } } }
      else s
    | none => s
  | _ => s

/-- A cell moves: the side word of the destination register comes with its lowest cell, and a cell from under another
side word sets NV (R191). -/
def moveSide (plan : PermPlan) (m : BitVec 3) (H : Hart) (R : Vector VReg 32) (i : Nat) (p : PermMove) (d : Nat)
    (q : Nat × Nat × Nat) (V : VecState) : VecState :=
  if H.vec.ew ≠ 14 then V
  else
    let g := H.vec.geo H.obs.prot
    let reg := unitReg g V.gf d p.row p.unit
    let sd := H.sidesFound.toList.getD (unitReg g V.gf q.1 q.2.1 q.2.2) 0
    let start := i / H.vec.rowUnits g * H.vec.rowUnits g
    let earlier := (List.range (i - start)).any (fun j =>
      H.vec.active m (start + j) && (plan H R (start + j)).any (fun b =>
        b.src.isSome && unitReg g V.gf d b.row b.unit == reg))
    if earlier then (if V.sideAt reg = sd then V else V.raise FFlags.invalid) else V.setSide reg sd

/-- The effect of a permute on unit i. -/
def permUnit (plan : PermPlan) (m : BitVec 3) (d : Nat) (H : Hart) (R : Vector VReg 32) (i : Nat) (V : VecState) :
    VecState :=
  let g := H.vec.geo H.obs.prot
  match plan H R i with
  | none => V
  | some p =>
    match p.src with
    | none => V.putUnit g H.obs.prot d p.row p.unit (zeroUnit H.vec.ew)
    | some q =>
      let V1 := V.putUnit g H.obs.prot d p.row p.unit (readUnit R g V.gf q.1 q.2.1 q.2.2)
      moveSide plan m H R i p d q V1

/-- The format in which perm reads an index: of the element width, or n16 for a blocked format (R192). -/
def indexFormat (ew : Nat) : Nat := if ewBlocked ew then 5 else ew

/-- A permute. index is the field that unit i reads as its index, if the function has one. -/
def permute (word : Nat) (rule : Overlap) (m : BitVec 3) (d : BitVec 5) (srcs : List (Nat × Bool))
    (ok : VecState → Bool → Bool) (index : Option Nat) (plan : PermPlan) (s : State) : State :=
  computing word ⟨some d.toNat, rule, srcs⟩ ok
    ⟨fmtGeo, m,
      fun H R i =>
        let g := H.vec.geo H.obs.prot
        let gi := geometry (indexFormat H.vec.ew) 0 H.obs.prot
        let (r, u) := H.vec.rowOf g i
        index.toList.map (fun F => unitBytes gi H.vec.gf F r u) ++
          ((plan H R i).bind (fun p => p.src)).toList.map (fun q => unitBytes g H.vec.gf q.1 q.2.1 q.2.2),
      fun H i =>
        let g := H.vec.geo H.obs.prot
        ((plan H (H.sourceRegs srcs) i).toList).map (fun p => unitBytes g H.vec.gf d.toNat p.row p.unit),
      permUnit plan m d.toNat⟩
    noFin (noteSides s)

/-- No dispatch check beyond those of every vector instruction. -/
def anyFormat (_ : VecState) (_ : Bool) : Bool := true

/-- A plan within a row: f of the units per row and the unit gives the source unit of field F, or the zero unit. -/
def rowPlan (F : Nat) (f : Hart → Nat → Nat → Nat → Option (Option Nat)) : PermPlan := fun H _ i =>
  let g := H.vec.geo H.obs.prot
  let (r, u) := H.vec.rowOf g i
  (f H (H.vec.rowUnits g) r u).map (fun q => ⟨r, u, q.map (fun v => (F, r, v))⟩)

/-- The amount or index in a g register. -/
def Hart.gAt (H : Hart) (b : BitVec 3) : Nat := H.vec.g[b.toNat].toNat

/-- A register source with its hold bit. -/
def src (F : BitVec 5) (hold : BitVec 1) : Nat × Bool := (F.toNat, hold == 1)

/-- How many of the units before unit u of row r are active. -/
def Hart.activeBefore (H : Hart) (m : BitVec 3) (r u : Nat) : Nat :=
  let n := H.vec.rowUnits (H.vec.geo H.obs.prot)
  ((List.range u).filter (fun j => H.vec.active m (r * n + j))).length


def execSlideup (y : BitVec 1) (x : BitVec 1) (m : BitVec 3) (b : BitVec 3) (a : BitVec 5) (d : BitVec 5) (s : State) : Out :=
  .next (permute (slideupWord y x m b a d) .disjoint m d [src a x] anyFormat none
    (rowPlan a.toNat (fun H _ _ u => if H.gAt b ≤ u then some (some (u - H.gAt b)) else none)) s)
def execSlidedn (y : BitVec 1) (x : BitVec 1) (m : BitVec 3) (b : BitVec 3) (a : BitVec 5) (d : BitVec 5) (s : State) : Out :=
  .next (permute (slidednWord y x m b a d) .disjoint m d [src a x] anyFormat none
    (rowPlan a.toNat (fun H n _ u => some (if u + H.gAt b < n then some (u + H.gAt b) else none))) s)

/-- The index that perm reads at unit u of row r. -/
def Hart.permIndex (H : Hart) (R : Vector VReg 32) (F r u : Nat) : Nat :=
  readUnit R (geometry (indexFormat H.vec.ew) 0 H.obs.prot) H.vec.gf F r u

def execPerm (y : BitVec 1) (x : BitVec 1) (m : BitVec 3) (b : BitVec 5) (a : BitVec 5) (d : BitVec 5) (s : State) : Out :=
  .next (permute (permWord y x m b a d) .disjoint m d [src a x, src b y] anyFormat (some b.toNat)
    (fun H R i => rowPlan a.toNat (fun H n r u =>
      let k := H.permIndex R b.toNat r u
      some (if k < n then some k else none)) H R i) s)
def execCompress (x : BitVec 1) (m : BitVec 3) (a : BitVec 5) (d : BitVec 5) (s : State) : Out :=
  .next (permute (compressWord x m a d) .disjoint m d [src a x] anyFormat none
    (fun H _ i =>
      let (r, u) := H.vec.rowOf (H.vec.geo H.obs.prot) i
      some ⟨r, H.activeBefore m r u, some (a.toNat, r, u)⟩) s)
def execExpand (x : BitVec 1) (m : BitVec 3) (a : BitVec 5) (d : BitVec 5) (s : State) : Out :=
  .next (permute (expandWord x m a d) .disjoint m d [src a x] anyFormat none
    (rowPlan a.toNat (fun H _ r u => some (some (H.activeBefore m r u)))) s)
def execZip (y : BitVec 1) (x : BitVec 1) (m : BitVec 3) (b : BitVec 5) (a : BitVec 5) (d : BitVec 5) (s : State) : Out :=
  .next (permute (zipWord y x m b a d) .disjoint m d [src a x, src b y] anyFormat none
    (fun H R i =>
      let (_, u) := H.vec.rowOf (H.vec.geo H.obs.prot) i
      rowPlan (if u % 2 = 0 then a.toNat else b.toNat) (fun _ _ _ v => some (some (v / 2))) H R i) s)
def execBcast (y : BitVec 1) (x : BitVec 1) (m : BitVec 3) (b : BitVec 3) (a : BitVec 5) (d : BitVec 5) (s : State) : Out :=
  .next (permute (bcastWord y x m b a d) .disjoint m d [src a x] anyFormat none
    (rowPlan a.toNat (fun H n _ _ => some (if H.gAt b < n then some (H.gAt b) else none))) s)
def execMerge (y : BitVec 1) (x : BitVec 1) (m : BitVec 3) (b : BitVec 5) (a : BitVec 5) (d : BitVec 5) (s : State) : Out :=
  .next (permute (mergeWord y x m b a d) .same 0 d [src a x, src b y] anyFormat none
    (fun H R i =>
      rowPlan (if (H.vec.maskAt m).getLsbD i then a.toNat else b.toNat) (fun _ _ _ u => some (some u)) H R i) s)
def execTrn (x : BitVec 1) (m : BitVec 3) (a : BitVec 5) (d : BitVec 5) (s : State) : Out :=
  .next (permute (trnWord x m a d) .disjoint m d [src a x]
    (fun V prot => V.rowUnits (V.geo prot) % V.rows.toNat == 0) none
    (fun H _ i =>
      let n := H.vec.rows.toNat
      let (r, p) := H.vec.rowOf (H.vec.geo H.obs.prot) i
      some ⟨r, p, some (a.toNat, p % n, p / n * n + r)⟩) s)

end Sys2Proof.Machine
end

