-- ==== Sys2Proof/Machine/Accumulator.lean ====
section
/-!
DEFINITION. The accumulator instructions of a block: acc.rd, acc.wr and acc.clr (R194, R195, R291).
-/
namespace Sys2Proof.Machine

/-- The key of an accumulator element: tile, row, column. -/
def accKey (t row col : Nat) : Nat := t * 16384 + row * 128 + col

/-- An accumulator element as f32 bits; unlisted elements are +0.0 (R91). -/
def CoreState.accAt (C : CoreState) (k : Nat) : Nat := (tget (0 : BitVec 32) C.acc k).toNat

/-- Write an accumulator element; +0.0 is not listed. -/
def CoreState.setAcc (C : CoreState) (k v : Nat) : CoreState :=
  let b := BitVec.ofNat 32 v
  { C with acc := if b = 0 then tdrop C.acc k else tput C.acc k b }

/-- The tile a selector names (R194). -/
def selTile (sel : Word) : Nat := bits sel 0 2

/-- The element that a selector names for element e of tile row r (R194). -/
def selKey (sel : Word) (r e : Nat) : Nat :=
  let i := bits sel 8 7 + r
  if sel.getLsbD 2 then accKey (selTile sel) e i else accKey (selTile sel) i e

/-- The dispatch checks of the selector and the shape (R194). -/
def selOk (sel : Word) (V : VecState) : Bool :=
  bits sel 15 49 == 0 && bits sel 3 5 == 0 && decide (bits sel 8 7 + V.rows.toNat ≤ 128) && decide (V.len.toNat ≤ 128)

/-- The formats of acc.rd and acc.wr (R176). -/
def accFormat (ew : Nat) : Bool := decide (10 ≤ ew) && decide (ew ≤ 12)

/-- The selector of an accumulator instruction. -/
def selectorOf (a : BitVec 3) (s : State) : Word :=
  match s.agent with
  | .vector h => (s.hart h).vec.g[a.toNat]
  | _ => 0

/-- acc.rd reads an element as its format: a bit copy for f32, one rounding otherwise (R195). -/
def accRead (ew : Nat) (rd : Rounding) (x : Nat) : Nat × FFlags :=
  if ew = 12 then (x, FFlags.none) else convertNum (floatFmt ew) rd (unpack fmtF32 x)

/-- acc.rd (R194, R195). A poisoned tile stops it as it dispatches, also when it is resumed with elements done (R179; assumption 79,
DESIGN CHOICE). Its destination is emitted like any other's. -/
def execAccRd (x : BitVec 1) (a : BitVec 3) (d : BitVec 5) (s : State) : Out :=
  .next (onVector (accRdWord x a d) s (fun h =>
    let H0 := s.hart h
    let sel := selectorOf a s
    let f : VecFields := ⟨some d.toNat, .same, []⟩
    dispatch h (accRdWord x a d) f (selOk sel H0.vec && accFormat H0.vec.ew) s (fun s1 =>
      if H0.vec.begun.isNone && (s1.core (coreOf h)).accpsn.getLsbD (selTile sel) then vectorTrap h 0x0E sel s1
      else
        let H := s1.hart h
        let v : VecEffect := ⟨fmtGeo, 0, fun _ _ _ => [], sameBytes [d.toNat], fun H _ i V =>
          let g := H.vec.geo H.obs.prot
          let (r, u) := H.vec.rowOf g i
          let (y, fl) := accRead H.vec.ew (H.elemRounding H.vec.rm H.vec.sat i)
            ((s1.core (coreOf h)).accAt (selKey sel r u))
          (V.putUnit g H.obs.prot d.toNat r u y).raise fl⟩
        let (df, s2) := destFaults h f.dst s1
        sweep h (H.vec.units (fmtGeo H.vec H.obs.prot)) [] (fun i => H.vec.active 0 i)
          (unitStep h f v H H.vec.v false df)
          (fun t => drawn h (emit h f.dst none t)) s2)))

/-- Write element (r, e) of an accumulator line. -/
def accPut (h : Nat) (sel : Word) (r e v : Nat) (s : State) : State :=
  s.setCore (coreOf h) ((s.core (coreOf h)).setAcc (selKey sel r e) v)

/-- acc.wr converts to f32: exact for a number, the canonical NaN for a NaN (R195). -/
def accWritten (ew x : Nat) : Nat × FFlags := convertNum fmtF32 rne (unpack (floatFmt ew) x)

/-- acc.wr (R194, R195). -/
def execAccWr (y x : BitVec 1) (b : BitVec 5) (a : BitVec 3) (s : State) : Out :=
  .next (onVector (accWrWord y x b a) s (fun h =>
    let H0 := s.hart h
    let sel := selectorOf a s
    let srcs := [src b y]
    dispatch h (accWrWord y x b a) ⟨none, .same, srcs⟩ (selOk sel H0.vec && accFormat H0.vec.ew) s (fun s1 =>
      let H := s1.hart h
      let g := H.vec.geo H.obs.prot
      let R := H.sourceRegs srcs
      sweep h (H.vec.units g) srcs (fun i => H.vec.active 0 i)
        (fun i t =>
          let (r, u) := H.vec.rowOf g i
          match (sameReads srcs H R i).findSome? H.bytesFault with
          | some (c, ad) => .trap c ad t
          | none =>
            let (v, fl) := accWritten H.vec.ew (readUnit R g H.vec.gf b.toNat r u)
            let t1 := accPut h sel r u v t
            .ok () (t1.setHart h { t1.hart h with vec := (t1.hart h).vec.raise { fl with of := false, uf := false, nx := false } }))
        (fun t => t) s1)))

/-- acc.clr (R194, R195): every live unit's elements become +0.0. -/
def execAccClr (x : BitVec 1) (a : BitVec 3) (s : State) : Out :=
  .next (onVector (accClrWord x a) s (fun h =>
    let H0 := s.hart h
    let sel := selectorOf a s
    dispatch h (accClrWord x a) VecFields.none (selOk sel H0.vec) s (fun s1 =>
      let H := s1.hart h
      let g := H.vec.geo H.obs.prot
      sweep h (H.vec.units g) [] (fun i => H.vec.active 0 i)
        (fun i t =>
          let (r, u) := H.vec.rowOf g i
          .ok () ((unitElems g u).foldl (fun t e => accPut h sel r e 0 t) t))
        (fun t => t) s1)))

end Sys2Proof.Machine
end

