-- ==== Sys2Proof/Machine/Scalar.lean ====
section
/-!
DEFINITION. The scalar integer, immediate, compare and condition-bit instructions (R109 to R113).
-/
namespace Sys2Proof.Machine

/-! ## Shapes -/

/-- A register-register instruction: s[d] := f s[a] s[b] (R15, R102, R109). -/
def intRR (word : Nat) (y x : BitVec 1) (b a d : BitVec 5) (f : Word → Word → Word) (s : State) : State :=
  match s.agent with
  | .scalar h =>
    let H := s.hart h
    gated h ((H.srcS a x).and ((H.srcS b y).and (H.dstS d))) s
      (s.setHart h (H.putS d (f (H.regs.readS a) (H.regs.readS b))).advance)
  | .nearBank u t => nearCompute u t (fun R => R.writeS d (f (R.readS a) (R.readS b))) s
  | _ => wrongClass word s

/-- A one-source instruction: s[d] := f s[a] (R109, R110). -/
def intR (word : Nat) (x : BitVec 1) (a d : BitVec 5) (f : Word → Word) (s : State) : State :=
  match s.agent with
  | .scalar h =>
    let H := s.hart h
    gated h ((H.srcS a x).and (H.dstS d)) s (s.setHart h (H.putS d (f (H.regs.readS a))).advance)
  | .nearBank u t => nearCompute u t (fun R => R.writeS d (f (R.readS a))) s
  | _ => wrongClass word s

/-- An instruction without a source: s[d] := f pc (R111). -/
def intJ (word : Nat) (d : BitVec 5) (f : Word → Word) (s : State) : State :=
  match s.agent with
  | .scalar h =>
    let H := s.hart h
    gated h (H.dstS d) s (s.setHart h (H.putS d (f H.pc)).advance)
  | .nearBank u t => nearCompute u t (fun R => R.writeS d (f 0)) s
  | _ => wrongClass word s

/-- A compare of two registers: k[k] := r s[a] s[b] (R112). -/
def cmpRR (word : Nat) (y x : BitVec 1) (b a : BitVec 5) (k : BitVec 3) (r : Word → Word → Bool) (s : State) : State :=
  match s.agent with
  | .scalar h =>
    let H := s.hart h
    gated h ((H.srcS a x).and ((H.srcS b y).and (H.dstK k))) s
      (s.setHart h (H.putK k (r (H.regs.readS a) (H.regs.readS b))).advance)
  | .nearBank u t => nearCompute u t (fun R => R.writeK k (r (R.readS a) (R.readS b))) s
  | _ => wrongClass word s

/-- A compare of a register with an immediate (R112). -/
def cmpRI (word : Nat) (i : BitVec 14) (x : BitVec 1) (a : BitVec 5) (k : BitVec 3) (r : Word → Word → Bool)
    (s : State) : State :=
  match s.agent with
  | .scalar h =>
    let H := s.hart h
    gated h ((H.srcS a x).and (H.dstK k)) s (s.setHart h (H.putK k (r (H.regs.readS a) (simm i))).advance)
  | .nearBank u t => nearCompute u t (fun R => R.writeK k (r (R.readS a) (simm i))) s
  | _ => wrongClass word s

/-- A condition-bit operation: k[d] := f k[a] k[b] (R113). -/
def kopKK (word : Nat) (y x : BitVec 1) (b a d : BitVec 3) (f : Bool → Bool → Bool) (s : State) : State :=
  match s.agent with
  | .scalar h =>
    let H := s.hart h
    gated h ((H.srcK a x).and ((H.srcK b y).and (H.dstK d))) s
      (s.setHart h (H.putK d (f (H.regs.readK a) (H.regs.readK b))).advance)
  | .nearBank u t => nearCompute u t (fun R => R.writeK d (f (R.readK a) (R.readK b))) s
  | _ => wrongClass word s

/-! ## The integer functions (R109) -/

/-- A shift amount: bits [5:0]. -/
def shamt (b : Word) : Nat := b.toNat % 64

/-- The high half of a product of two integers. -/
def highHalf (p : Int) : Word := BitVec.ofInt 64 (p / 2 ^ 64)

/-- The signed quotient: all ones for a zero divisor, otherwise truncated towards zero, modulo 2^64 (R109). -/
def divS (a b : Word) : Word := if b = 0 then BitVec.allOnes 64 else BitVec.ofInt 64 (a.toInt.tdiv b.toInt)

/-- The unsigned quotient: all ones for a zero divisor (R109). -/
def divU (a b : Word) : Word := if b = 0 then BitVec.allOnes 64 else BitVec.ofNat 64 (a.toNat / b.toNat)

/-- The signed remainder, with the sign of a; a for a zero divisor (R109). -/
def remS (a b : Word) : Word := if b = 0 then a else BitVec.ofInt 64 (a.toInt.tmod b.toInt)

/-- The unsigned remainder; a for a zero divisor (R109). -/
def remU (a b : Word) : Word := if b = 0 then a else BitVec.ofNat 64 (a.toNat % b.toNat)

/-- Leading zero bits among n bits, from bit n - 1 downwards. -/
def leadingZeros (v : Nat) : Nat → Nat
  | 0 => 0
  | n + 1 => if v / 2 ^ n % 2 = 1 then 0 else 1 + leadingZeros v n

/-- Trailing zero bits among n bits. -/
def trailingZeros : Nat → Nat → Nat
  | _, 0 => 0
  | v, n + 1 => if v % 2 = 1 then 0 else 1 + trailingZeros (v / 2) n

/-- One bits among n bits. -/
def onesIn : Nat → Nat → Nat
  | _, 0 => 0
  | v, n + 1 => v % 2 + onesIn (v / 2) n

def execAdd (y x : BitVec 1) (b a d : BitVec 5) (s : State) : Out :=
  .next (intRR (addWord y x b a d) y x b a d (fun u v => u + v) s)
def execSub (y x : BitVec 1) (b a d : BitVec 5) (s : State) : Out :=
  .next (intRR (subWord y x b a d) y x b a d (fun u v => u - v) s)
def execAnd (y x : BitVec 1) (b a d : BitVec 5) (s : State) : Out :=
  .next (intRR (andWord y x b a d) y x b a d (fun u v => u &&& v) s)
def execOr (y x : BitVec 1) (b a d : BitVec 5) (s : State) : Out :=
  .next (intRR (orWord y x b a d) y x b a d (fun u v => u ||| v) s)
def execXor (y x : BitVec 1) (b a d : BitVec 5) (s : State) : Out :=
  .next (intRR (xorWord y x b a d) y x b a d (fun u v => u ^^^ v) s)
def execSll (y x : BitVec 1) (b a d : BitVec 5) (s : State) : Out :=
  .next (intRR (sllWord y x b a d) y x b a d (fun u v => u <<< shamt v) s)
def execSrl (y x : BitVec 1) (b a d : BitVec 5) (s : State) : Out :=
  .next (intRR (srlWord y x b a d) y x b a d (fun u v => u >>> shamt v) s)
def execSra (y x : BitVec 1) (b a d : BitVec 5) (s : State) : Out :=
  .next (intRR (sraWord y x b a d) y x b a d (fun u v => u.sshiftRight (shamt v)) s)
def execMul (y x : BitVec 1) (b a d : BitVec 5) (s : State) : Out :=
  .next (intRR (mulWord y x b a d) y x b a d (fun u v => u * v) s)
def execMulh (y x : BitVec 1) (b a d : BitVec 5) (s : State) : Out :=
  .next (intRR (mulhWord y x b a d) y x b a d (fun u v => highHalf (u.toInt * v.toInt)) s)
def execMulhu (y x : BitVec 1) (b a d : BitVec 5) (s : State) : Out :=
  .next (intRR (mulhuWord y x b a d) y x b a d (fun u v => highHalf ((u.toNat : Int) * (v.toNat : Int))) s)
def execDiv (y x : BitVec 1) (b a d : BitVec 5) (s : State) : Out :=
  .next (intRR (divWord y x b a d) y x b a d divS s)
def execDivu (y x : BitVec 1) (b a d : BitVec 5) (s : State) : Out :=
  .next (intRR (divuWord y x b a d) y x b a d divU s)
def execRem (y x : BitVec 1) (b a d : BitVec 5) (s : State) : Out :=
  .next (intRR (remWord y x b a d) y x b a d remS s)
def execRemu (y x : BitVec 1) (b a d : BitVec 5) (s : State) : Out :=
  .next (intRR (remuWord y x b a d) y x b a d remU s)
def execMin (y x : BitVec 1) (b a d : BitVec 5) (s : State) : Out :=
  .next (intRR (minWord y x b a d) y x b a d (fun u v => if u.toInt ≤ v.toInt then u else v) s)
def execMax (y x : BitVec 1) (b a d : BitVec 5) (s : State) : Out :=
  .next (intRR (maxWord y x b a d) y x b a d (fun u v => if u.toInt ≤ v.toInt then v else u) s)
def execMinu (y x : BitVec 1) (b a d : BitVec 5) (s : State) : Out :=
  .next (intRR (minuWord y x b a d) y x b a d (fun u v => if u.toNat ≤ v.toNat then u else v) s)
def execMaxu (y x : BitVec 1) (b a d : BitVec 5) (s : State) : Out :=
  .next (intRR (maxuWord y x b a d) y x b a d (fun u v => if u.toNat ≤ v.toNat then v else u) s)
def execClz (x : BitVec 1) (a d : BitVec 5) (s : State) : Out :=
  .next (intR (clzWord x a d) x a d (fun u => BitVec.ofNat 64 (leadingZeros u.toNat 64)) s)
def execCtz (x : BitVec 1) (a d : BitVec 5) (s : State) : Out :=
  .next (intR (ctzWord x a d) x a d (fun u => BitVec.ofNat 64 (trailingZeros u.toNat 64)) s)
def execPop (x : BitVec 1) (a d : BitVec 5) (s : State) : Out :=
  .next (intR (popWord x a d) x a d (fun u => BitVec.ofNat 64 (onesIn u.toNat 64)) s)
def execRng (y x : BitVec 1) (b a d : BitVec 5) (s : State) : Out :=
  .next (onScalar (rngWord y x b a d) s (fun _ => intRR (rngWord y x b a d) y x b a d limlor s))

/-! ## Immediates (R110, R111) -/

def execAddi (i : BitVec 14) (x : BitVec 1) (a d : BitVec 5) (s : State) : Out :=
  .next (intR (addiWord i x a d) x a d (fun u => u + simm i) s)
def execAndi (i : BitVec 14) (x : BitVec 1) (a d : BitVec 5) (s : State) : Out :=
  .next (intR (andiWord i x a d) x a d (fun u => u &&& simm i) s)
def execOri (i : BitVec 14) (x : BitVec 1) (a d : BitVec 5) (s : State) : Out :=
  .next (intR (oriWord i x a d) x a d (fun u => u ||| simm i) s)
def execXori (i : BitVec 14) (x : BitVec 1) (a d : BitVec 5) (s : State) : Out :=
  .next (intR (xoriWord i x a d) x a d (fun u => u ^^^ simm i) s)
def execSlli (n : BitVec 6) (x : BitVec 1) (a d : BitVec 5) (s : State) : Out :=
  .next (intR (slliWord n x a d) x a d (fun u => u <<< n.toNat) s)
def execSrli (n : BitVec 6) (x : BitVec 1) (a d : BitVec 5) (s : State) : Out :=
  .next (intR (srliWord n x a d) x a d (fun u => u >>> n.toNat) s)
def execSrai (n : BitVec 6) (x : BitVec 1) (a d : BitVec 5) (s : State) : Out :=
  .next (intR (sraiWord n x a d) x a d (fun u => u.sshiftRight n.toNat) s)
def execLui (i : BitVec 20) (d : BitVec 5) (s : State) : Out :=
  .next (intJ (luiWord i d) d (fun _ => simm i <<< 14) s)
def execAdr (i : BitVec 20) (d : BitVec 5) (s : State) : Out :=
  .next (onScalar (adrWord i d) s (fun _ => intJ (adrWord i d) d (fun p => p + (simm i <<< 14)) s))

/-! ## Compares (R112) -/

def execCmpEq (y x : BitVec 1) (b a : BitVec 5) (k : BitVec 3) (s : State) : Out :=
  .next (cmpRR (cmpEqWord y x b a k) y x b a k (fun u v => u == v) s)
def execCmpNe (y x : BitVec 1) (b a : BitVec 5) (k : BitVec 3) (s : State) : Out :=
  .next (cmpRR (cmpNeWord y x b a k) y x b a k (fun u v => u != v) s)
def execCmpLt (y x : BitVec 1) (b a : BitVec 5) (k : BitVec 3) (s : State) : Out :=
  .next (cmpRR (cmpLtWord y x b a k) y x b a k (fun u v => decide (u.toInt < v.toInt)) s)
def execCmpLtu (y x : BitVec 1) (b a : BitVec 5) (k : BitVec 3) (s : State) : Out :=
  .next (cmpRR (cmpLtuWord y x b a k) y x b a k (fun u v => decide (u.toNat < v.toNat)) s)
def execCmpiEq (i : BitVec 14) (x : BitVec 1) (a : BitVec 5) (k : BitVec 3) (s : State) : Out :=
  .next (cmpRI (cmpiEqWord i x a k) i x a k (fun u v => u == v) s)
def execCmpiNe (i : BitVec 14) (x : BitVec 1) (a : BitVec 5) (k : BitVec 3) (s : State) : Out :=
  .next (cmpRI (cmpiNeWord i x a k) i x a k (fun u v => u != v) s)
def execCmpiLt (i : BitVec 14) (x : BitVec 1) (a : BitVec 5) (k : BitVec 3) (s : State) : Out :=
  .next (cmpRI (cmpiLtWord i x a k) i x a k (fun u v => decide (u.toInt < v.toInt)) s)
def execCmpiLtu (i : BitVec 14) (x : BitVec 1) (a : BitVec 5) (k : BitVec 3) (s : State) : Out :=
  .next (cmpRI (cmpiLtuWord i x a k) i x a k (fun u v => decide (u.toNat < v.toNat)) s)

/-! ## Condition bits (R113) -/

def execKand (y x : BitVec 1) (b a d : BitVec 3) (s : State) : Out :=
  .next (kopKK (kandWord y x b a d) y x b a d (fun u v => u && v) s)
def execKor (y x : BitVec 1) (b a d : BitVec 3) (s : State) : Out :=
  .next (kopKK (korWord y x b a d) y x b a d (fun u v => u || v) s)
def execKxor (y x : BitVec 1) (b a d : BitVec 3) (s : State) : Out :=
  .next (kopKK (kxorWord y x b a d) y x b a d (fun u v => u != v) s)

/-- k[d] := (s[a] ≠ 0) (R113). -/
def execKset (x : BitVec 1) (a : BitVec 5) (d : BitVec 3) (s : State) : Out :=
  .next (match s.agent with
  | .scalar h =>
    let H := s.hart h
    gated h ((H.srcS a x).and (H.dstK d)) s (s.setHart h (H.putK d (H.regs.readS a != 0)).advance)
  | .nearBank u t => nearCompute u t (fun R => R.writeK d (R.readS a != 0)) s
  | _ => wrongClass (ksetWord x a d) s)

/-- s[d] := k[a], zero-extended (R113). -/
def execKget (x : BitVec 1) (a : BitVec 3) (d : BitVec 5) (s : State) : Out :=
  .next (match s.agent with
  | .scalar h =>
    let H := s.hart h
    gated h ((H.srcK a x).and (H.dstS d)) s
      (s.setHart h (H.putS d (BitVec.ofNat 64 (H.regs.readK a).toNat)).advance)
  | .nearBank u t => nearCompute u t (fun R => R.writeS d (BitVec.ofNat 64 (R.readK a).toNat)) s
  | _ => wrongClass (kgetWord x a d) s)

end Sys2Proof.Machine
end

