-- ==== Sys2Proof/Machine/Branch.lean ====
section
/-!
DEFINITION. Branches, their prediction and confirmation, and the jumps with link (R105 to R108, R117, R118, R262).
-/
namespace Sys2Proof.Machine

/-- Where a near-bank thread goes from word index i by a signed count of words; outside the image it ends the job with
code 0x01 (R262, R263). -/
def nearJump {n : Nat} (u : Nat) (x : Bool) (off : BitVec n) (f : NbThread → ScalarRegs) (s : State) : State :=
  onJob u x s (fun J =>
    let t : Int := ((J.thread x).pc : Int) + off.toInt
    if 0 ≤ t ∧ t < (J.code.length : Int) then
      s.putJob u (J.setThread x { J.thread x with pc := t.toNat, regs := f (J.thread x) })
    else nearEnd u 0x01 s)

/-- The hart goes to a target from its pc, by a branch or jump of trace kind k (R410). -/
def Hart.goTo (H : Hart) (kind : Nat) (target : Word) : Hart :=
  { H.trace kind H.pc target 0 with pc := target, status := .running, regs := H.regs.completed }

/-- The hart takes the branch at pc or passes it. -/
def Hart.branch (H : Hart) (taken : Bool) (target : Word) : Hart := if taken then H.goTo 1 target else H.advance

/-- What a prediction leaves behind, to be undone if it proves wrong (R105, R107). -/
def Hart.predict (H : Hart) (k : BitVec 3) (takenIf likely : Bool) (target : Word) : Hart :=
  let c : Checkpoint :=
    { branchPc := H.pc, otherPc := if likely then H.pc + 4 else target, k := k, takenIf := takenIf,
      predicted := likely, value := none, regs := H.regs, nextId := H.nextId, trNum := H.obs.trNum }
  { H.branch likely target with checks := H.checks ++ [c] }

/-- A conditional branch, taken when k[k] is takenIf: resolved when the bit is full, predicted by P when it is empty, at
most four unconfirmed (R105, R117). -/
def branchOp (o : BitVec 20) (p : BitVec 1) (k : BitVec 3) (takenIf : Bool) (word : Nat) (s : State) : State :=
  match s.agent with
  | .scalar h =>
    let H := s.hart h
    let target := wordTarget H.pc o
    if H.regs.isEmptyK k then
      if H.checks.length < 4 then s.setHart h (H.predict k takenIf (p == 1) target) else s
    else s.setHart h (H.branch (H.regs.readK k == takenIf) target)
  | .nearBank u t =>
    onJob u t s (fun J =>
      if (J.thread t).regs.readK k == takenIf then nearJump u t o (fun T => T.regs) s
      else s.putJob u (J.advance t))
  | _ => wrongClass word s

def execBK (o : BitVec 20) (p : BitVec 1) (k : BitVec 3) (s : State) : Out :=
  .next (branchOp o p k true (bKWord o p k) s)
def execBNk (o : BitVec 20) (p : BitVec 1) (k : BitVec 3) (s : State) : Out :=
  .next (branchOp o p k false (bNkWord o p k) s)

/-- A wrong prediction: everything beyond the branch is undone and the stream goes the other way (R107). -/
def Hart.recover (H : Hart) (c : Checkpoint) : Hart :=
  let H1 := { H.dropTraces c.trNum with
    regs := c.regs
    pc := c.branchPc
    checks := []
    loads := H.loads.filter (fun l => decide (l.id < c.nextId)) }
  (if c.predicted then { H1 with pc := c.otherPc, regs := H1.regs.completed } else H1.goTo 1 c.otherPc).tallied
    (fun t => { t with wrong := t.wrong + 1 })

/-- The oldest unconfirmed branch is confirmed once its condition bit has been written (R105, R107, R108). -/
def execBranchConfirm (h : Nat) (s : State) : Out :=
  .next (
    let H := s.hart h
    match H.checks with
    | [] => s
    | c :: rest =>
      match c.value with
      | none => s
      | some v =>
        if (v == c.takenIf) == c.predicted then s.setHart h { H with checks := rest }
        else s.setHart h (H.recover c))

/-- jal: s[d] := pc + 4 and pc := the target; on a near-bank thread in words (R118, R262). -/
def execJal (i : BitVec 20) (d : BitVec 5) (s : State) : Out :=
  .next (match s.agent with
  | .scalar h =>
    let H := s.hart h
    gated h (H.dstS d) s (s.setHart h ((H.putS d (H.pc + 4)).goTo 1 (wordTarget H.pc i)))
  | .nearBank u t => nearJump u t i (fun T => T.regs.writeS d (BitVec.ofNat 64 (T.pc + 1))) s
  | _ => wrongClass (jalWord i d) s)

/-- jalr: the target is read before s[d] is written; a target off a word traps with cause 0x04 (R118). -/
def execJalr (i : BitVec 14) (x : BitVec 1) (a d : BitVec 5) (s : State) : Out :=
  .next (onScalar (jalrWord i x a d) s (fun h =>
    let H := s.hart h
    let t := H.regs.readS a + simm i
    gated h ((H.srcS a x).and ((H.dstS d).and (Gate.need (t.toNat % 4 == 0) 0x04 t))) s
      (s.setHart h ((H.putS d (H.pc + 4)).goTo 2 t))))

end Sys2Proof.Machine
end

