-- ==== Sys2Proof/Machine/Engines.lean ====
section
/-!
DEFINITION. What the engines of a core have in common: the skeleton of a command, the footprints of the commands a core
has accepted, and the order they keep (R101, R106, R257, R294, R303).
-/
namespace Sys2Proof.Machine

/-- A command of an engine family: class S, once confirmed and once its gate opens (R18, R106). -/
def command (word : Nat) (gate : Hart → Gate) (s : State) (k : Nat → State) : State :=
  onScalar word s (fun h =>
    let H := s.hart h
    gated h (H.confirmed.and (gate H)) s (k h))

/-- A command's destination becomes empty and the stream goes on; the answer comes later (R101). -/
def Hart.pendCmd (H : Hart) (d : BitVec 5) (on : Awaits) : Hart :=
  { (H.markS d).advance with cmds := H.cmds ++ [⟨H.nextId, d, on⟩], nextId := H.nextId + 1 }

/-- The engine has the answer v for s[d], as it stands now, and delivers it in a later step (R101; assumption 12). -/
def answer (h : Nat) (d : BitVec 5) (v : Word) (s : State) : State := s.setHart h ((s.hart h).pendCmd d (.ready v))

/-- A command is answered: its destination fills. -/
def finishCmd (h : Nat) (c : PendingCmd) (v : Word) (s : State) : State :=
  let H := s.hart h
  s.setHart h { H.fillS (some c.id) c.dst v with cmds := H.cmds.filter (fun x => x.id != c.id) }

/-- The n-th command's answer, if it stands ready, is delivered (R101). -/
def answerTurn (h n : Nat) (s : State) : State :=
  match (s.hart h).cmds[n]? with
  | some c =>
    match c.on with
    | .ready v => finishCmd h c v s
    | _ => s
  | none => s

/-- Every pending access of the hart older than a number is performed. -/
def forceOlder (h n : Nat) (s : State) : State := forceLoads h (fun p => decide (p.id < n)) s

/-- A peer owes the answer of an access older than a number. -/
def Hart.owesOlder (H : Hart) (n : Nat) : Bool := H.owes (fun p => decide (p.id < n))

/-! ## Footprints (R257) -/

/-- An interval of a footprint, from lo up to hi - 1, in one class of addresses. -/
structure Extent where
  space : Space
  lo    : Int
  hi    : Int
  write : Bool
  deriving DecidableEq, Repr

/-- Two intervals meet in a way that orders them: in one class, with a byte in common, one of them written. -/
def Extent.orders (x y : Extent) : Bool :=
  x.space == y.space && decide (x.lo < y.hi) && decide (y.lo < x.hi) && (x.write || y.write)

/-- The interval of n bytes at an address. -/
def Extent.at (a n : Nat) (write : Bool) : Extent := ⟨spaceOf a, a, a + n, write⟩

/-- The interval of a layout at a base. -/
def layoutExtent (base : Word) (l : List Word) (size : Nat) (write : Bool) : Extent :=
  let lo : Int := base.toNat + layoutLow l
  ⟨spaceOf lo.toNat, lo, base.toNat + layoutHigh l + size, write⟩

/-- The footprint of an accepted copy. -/
def CopyJob.extents (J : CopyJob) : List Extent :=
  match J.layouts with
  | none => []
  | some p => [layoutExtent J.src p.src (cfgSize J.cfg) false, layoutExtent J.dst p.dst (cfgSize J.cfg) true]

/-- A declared region of a task (R294). -/
def regionExtent (r : Nat) : Option Extent :=
  if r / 2 ^ 63 % 2 = 1 then
    some ⟨spaceOf (r % 2 ^ 56), (r % 2 ^ 56 : Nat), (r % 2 ^ 56 + 2 ^ (r / 2 ^ 56 % 64) : Nat), r / 2 ^ 62 % 2 == 1⟩
  else none

/-- The declared regions of a task. -/
def Task.extents (T : Task) : List Extent := (List.range 4).filterMap (fun i => regionExtent (T.field (256 + 64 * i) 64))

/-- The footprints of the commands that a core accepted before number n and that have not completed (R257). -/
def olderExtents (core n : Nat) (s : State) : List Extent :=
  let copies := (List.range 4).flatMap (fun i =>
    (s.hart (4 * core + i)).chans.toList.flatMap (fun C => C.copies.flatMap (fun J =>
      if J.accept < n then J.extents else [])))
  let tasks := s.sched.toList.flatMap (fun Q => Q.tasks.flatMap (fun T =>
    if T.issued && !T.flt && T.core == core && decide (T.accept < n) then T.extents else []))
  copies ++ tasks

/-- An access waits for an older command whose footprint it meets (R257). -/
def waitsFor (older : List Extent) (x : Extent) : Bool := older.any (fun y => y.orders x)

/-! ## What may befall an engine's accesses (R250, R301, R420) -/

/-- A page that the location was checked on has lost its key, or has another now (R420). -/
def Loc.stale (l : Loc) (s : State) : Bool :=
  (l.slot != 0 && tfind s.trust.keys l.slot != l.kopt) || (l.slot2 != 0 && tfind s.trust.keys l.slot2 != l.kopt2)

/-- An uncorrectable error inside an engine of a core may strike, by free choice; it is logged at a location of the engine
that the spec leaves open (R250, R301, R403; assumption 53). -/
def engineError (core ctx : Nat) (s : State) : Bool × State :=
  let (bad, s1) := drawBool s
  if bad then
    let (a, s2) := drawWord s1
    (true, logError s2 9 ⟨a.setWidth 56, 1, ctx, core, 1, 0⟩)
  else (false, s1)

/-- The next acceptance at a core: its number. -/
def acceptAt (core : Nat) (s : State) : Nat × State :=
  let C := s.core core
  (C.accept, s.setCore core { C with accept := C.accept + 1 })

end Sys2Proof.Machine
end

