-- ==== Sys2Proof/Machine/VectorControl.lean ====
section
/-!
DEFINITION. The control of the vector stream: the shape instructions and other class Q instructions of opcode 0x3C and
0x3D, vblk and the beginning of a block instance, and divergence (R152 to R174, R186, R240).
-/
namespace Sys2Proof.Machine

/-! ## Class Q instructions (R104, R152) -/

/-- A class Q instruction: the scalar stream, once its gate is open and the queue has room, empties its destination and
enqueues the word with what it captures; the queue performs it (R101, R104, R106, R152). perform leaves the entry's
completion to the skeleton unless it answers none, which leaves the state of a wait or a trap. -/
def queuedOp (word : Nat) (gate : Hart → Gate) (d : BitVec 5) (a b : Hart → Word)
    (perform : Nat → QEntry → State → Res Unit) (s : State) : State :=
  match s.agent with
  | .scalar h =>
    let H := s.hart h
    gated h (H.confirmed.and ((gate H).and ((H.dstS d).and (Gate.until (decide (H.activeQueue.length < H.queueRoom)))))) s
      (s.setHart h ((H.markS d).enqueue
        { word := BitVec.ofNat 32 word, a := a H, b := b H, g := Vector.replicate 8 0, scanS := 0, scanK := 0, binds := [] }).advance)
  | .queue h =>
    match (s.hart h).headEntry with
    | none => s
    | some e =>
      match perform h e s with
      | .ok _ s1 => s1.setHart h (s1.hart h).dequeue
      | .trap c t s1 => queueTrap h c t s1
  | _ => wrongClass word s

/-- What a class Q instruction does waits, while the queue performs it, for the bytes that a copy of the hart has not written
and those that iterations of its replay access (R249, R285): the address and the extent of its accesses from the entry. -/
def whenFree (kind : Acc) (addr : QEntry → Word) (n : Nat) (s : State) (k : State) : State :=
  match s.agent with
  | .queue h =>
    match (s.hart h).headEntry with
    | none => s
    | some e => if vectorStalls h (addr e).toNat n kind s then s else k
  | _ => k

/-- Nothing captured. -/
def noCapture (_ : Hart) : Word := 0

/-- A performed instruction delivers its result to s[d]. -/
def deliverTo (h : Nat) (d : BitVec 5) (v : Word) (s : State) : Res Unit := .ok () (s.setHart h ((s.hart h).fillS none d v))

/-- The fault of an ill-formed format (R156). -/
def illFormat (word : Nat) (s : State) : Res Unit := .trap 0x02 (BitVec.ofNat 64 word) s

/-- A queue entry reads n bytes at a: the traps of a load; the older accesses of stream q and those of older entries to the bytes
come first (R152, R166, R236). -/
def queueRead (h q : Nat) (a : Word) (n : Nat) (s : State) : Res Nat :=
  match accessBy (s.who h) a.toNat n .read s with
  | .trap c t s1 => .trap c t s1
  | .ok l s1 => readFrom l a.toNat (readyToRead h q l s1)

/-! ## Chain records (R165, R166, R170) -/

/-- A chain record as its two doublewords. -/
structure Chain where
  first : Nat
  pos   : Nat

/-- Read a chain record (R166): the traps of a load, and a peer answers as it does to a load (assumption 53). -/
def readChain (h : Nat) (c : Word) (s : State) : Res Chain :=
  match queueRead h 0 c 8 s with
  | .trap u t s1 => .trap u t s1
  | .ok v s1 =>
    match queueRead h 0 (c + 8) 8 s1 with
    | .trap u t s2 => .trap u t s2
    | .ok v2 s2 => .ok ⟨v, v2⟩ s2

/-- Write a doubleword of a chain record; at a peer as a store (assumption 53). -/
def writeChain (h : Nat) (a : Word) (v : Nat) (s : State) : Res Unit := writeAt (s.who h) a.toNat 8 (v % 2 ^ 64) s

/-- The grant of setlen: the entry's wish, rounded to whole blocks, becomes len and s[d] (R166). -/
def grantLen (h : Nat) (d : BitVec 5) (want : Nat) (s : State) : State :=
  let H := s.hart h
  s.setHart h ({ H with vec := { H.vec with len := BitVec.ofNat 64 want } }.fillS none d (BitVec.ofNat 64 want))

/-- setlen without a chain (R166). Under a reserved EW that a kernel write left in fmt with ILL 0 it grants as for 64-bit
elements (assumption 66, DESIGN CHOICE). -/
def plainLen (h word : Nat) (d : BitVec 5) (e : QEntry) (s : State) : Res Unit :=
  let H := s.hart h
  let V := H.vec
  if V.ill then illFormat word s
  else
    let want := min e.a.toNat (V.capacity H.obs.prot)
    .ok () (grantLen h d (want - want % blockOf V.ew V.bl) s)

/-- setlen with a chain record at e.b: whether it has its grant, or the queue holds at it and reads again (R166). Bits [63:40] of the second doubleword, which
R165 makes zero, count for nothing in POS and stay in the write (assumption 66, DESIGN CHOICE). -/
def chainedLen (h word : Nat) (d : BitVec 5) (e : QEntry) (s : State) : Res Bool :=
  let H := s.hart h
  let V := H.vec
  if V.ill then .trap 0x02 (BitVec.ofNat 64 word) s
  else if e.b.toNat % 16 ≠ 0 then .trap 0x04 e.b s
  else
    match readChain h e.b s with
    | .trap u t s1 => .trap u t s1
    | .ok c s1 =>
      let ask := min e.a.toNat (V.capacity H.obs.prot)
      let pos := c.pos % 2 ^ 40
      let avail := c.first % 2 ^ 40 - pos
      if avail = 0 && c.first / 2 ^ 63 % 2 == 0 && ask != 0 then .ok false s1
      else
        let w0 := min ask avail
        let want := w0 - w0 % blockOf V.ew V.bl
        match writeChain h (e.b + 8) (c.pos - pos + (pos + want) % 2 ^ 40) s1 with
        | .trap u t s2 => .trap u t s2
        | .ok _ s2 => .ok true (grantLen h d want s2)

/-- setlen (R166). -/
def execSetlen (y x : BitVec 1) (b a d : BitVec 5) (s : State) : Out :=
  .next (
    let word := setlenWord y x b a d
    let op (perform : Nat → QEntry → State → Res Unit) : State :=
      queuedOp word (fun H => (H.srcS a x).and (H.srcS b y)) d (fun H => H.regs.readS a) (fun H => H.regs.readS b) perform s
    match s.agent with
    | .queue h =>
      if b = 0 then op (fun h e t => plainLen h word d e t)
      else
        whenFree .read (fun e => e.b) 16 s (
          match (s.hart h).headEntry.map (fun e => chainedLen h word d e s) with
          | none => s
          | some (.ok false s1) => s1
          | some (.ok true s1) => op (fun _ _ _ => .ok () s1)
          | some (.trap u t s1) => op (fun _ _ _ => .trap u t s1))
    | _ => op (fun h e t => plainLen h word d e t))

/-- setrows (R167). -/
def execSetrows (x : BitVec 1) (a d : BitVec 5) (s : State) : Out :=
  .next (queuedOp (setrowsWord x a d) (fun H => H.srcS a x) d (fun H => H.regs.readS a) noCapture
    (fun h e t =>
      let H := t.hart h
      if H.vec.ill then illFormat (setrowsWord x a d) t
      else
        let rows := BitVec.ofNat 64 (min (max e.a.toNat 1) (8 / H.vec.gf))
        deliverTo h d rows (t.setHart h { H with vec := { H.vec with rows := rows } })) s)

/-- The tile granted again for the format, rows first, then len in whole blocks (R168). -/
def VecState.regrant (V : VecState) (prot : Bool) : VecState :=
  let l := min V.len.toNat (V.capacity prot)
  { V with
    rows := BitVec.ofNat 64 (min V.rows.toNat (8 / V.gf))
    len := BitVec.ofNat 64 (l - l % blockOf V.ew V.bl) }

/-- Set the format from a request; an ill-formed one sets ILL (R168). -/
def VecState.format (V : VecState) (req : Word) (prot : Bool) : VecState :=
  if fmtWellFormed req then { V with fmt := req }.regrant prot
  else { V with fmt := BitVec.ofNat 64 (bits req 0 13 + 2 ^ 63) }

/-- The effect of setfmt and setfmti (R168). -/
def formatTo (h : Nat) (d : BitVec 5) (req : Word) (s : State) : Res Unit :=
  let H := s.hart h
  let V := H.vec.format req H.obs.prot
  deliverTo h d V.fmt (s.setHart h { H with vec := V })

/-- setfmt (R168). -/
def execSetfmt (x : BitVec 1) (a d : BitVec 5) (s : State) : Out :=
  .next (queuedOp (setfmtWord x a d) (fun H => H.srcS a x) d (fun H => H.regs.readS a) noCapture
    (fun h e t => formatTo h d e.a t) s)

/-- setfmti on a near-bank arithmetic thread (R264): the format from IMM[4:0]. -/
def nearFormat (u : Nat) (i : BitVec 13) (d : BitVec 5) (s : State) : State :=
  onJob u true s (fun J =>
    let ew := i.toNat
    if d = 0 ∧ (ew < 8 ∨ ew = 11 ∨ ew = 12) then
      s.putJob u ({ J with fmt := BitVec.ofNat 5 ew }.advance true)
    else nearEnd u 0x02 s)

/-- setfmti (R168, R264). -/
def execSetfmti (i : BitVec 13) (d : BitVec 5) (s : State) : Out :=
  .next (match s.agent with
  | .nearBank u true => nearFormat u i d s
  | _ => queuedOp (setfmtiWord i d) (fun _ => .go) d noCapture noCapture (fun h _ t => formatTo h d (i.setWidth 64) t) s)

/-- vdrain: every vector access of the older entries has been performed (R169). -/
def execVdrain (s : State) : Out :=
  .next (queuedOp vdrainWord (fun _ => .go) 0 noCapture noCapture
    (fun h _ t => .ok () (forceVaccs h (fun _ => true) t)) s)

/-- vstat: the flags as they stand (R169). -/
def execVstat (d : BitVec 5) (s : State) : Out :=
  .next (queuedOp (vstatWord d) (fun _ => .go) d noCapture noCapture
    (fun h _ t => deliverTo h d ((t.hart h).vec.vst.setWidth 64) t) s)

/-- The effect of hwpub, after the stores of older entries: HW rises to s[b][39:0], DONE is ORed (R170). At a peer it answers as to a store (R364; assumption
53, DESIGN CHOICE). -/
def publish (h : Nat) (c v : Word) (s : State) : Res Unit :=
  if c.toNat % 16 ≠ 0 then .trap 0x04 c s
  else
    match accessBy (s.who h) c.toNat 8 .write s with
    | .trap u t s1 => .trap u t s1
    | .ok l s1 =>
      let (err, s2) := peerError l s1
      if err then .trap 0x07 c s2
      else
        let s3 := forceVaccs h (fun A => A.kind != .load || A.todo.any (fun e => l.meets e.loc)) s2
        let old := BitVec.ofNat 64 (readLoc l s3)
        let hw := max (bits old 0 40) (bits v 0 40)
        let new := bits old 40 23 * 2 ^ 40 + hw + (if old.getLsbD 63 || v.getLsbD 63 then 2 ^ 63 else 0)
        .ok () (writeOut (s3.who h) l new s3)

/-- hwpub (R170). -/
def execHwpub (y x : BitVec 1) (b a : BitVec 5) (s : State) : Out :=
  .next (whenFree .write (fun e => e.a) 8 s
    (queuedOp (hwpubWord y x b a) (fun H => (H.srcS a x).and (H.srcS b y)) 0 (fun H => H.regs.readS a)
      (fun H => H.regs.readS b) (fun h e t => publish h e.a e.b t) s))

/-! ## vblk (R164, R186, R240) -/

/-- What the scan of a word adds: a scalar register, a condition bit, the end of the block (R186). -/
structure Scan where
  ss   : BitVec 32
  kk   : BitVec 8
  done : Bool
  deriving DecidableEq, Repr

/-- The word is a vend, or by OP and FN a reduction or count, whose destination is marked whatever its other fields hold
(R31, R32, R186; assumption 66, DESIGN CHOICE). -/
def scanWord (w : Nat) (sc : Scan) : Scan :=
  let op := w % 128
  let fn := w / 2 ^ 27
  let d := w / 128 % 32
  if w = vendWord then { sc with done := true }
  else if op = 0x48 ∧ (fn = 6 ∨ fn = 7) ∨ op = 0x49 ∧ fn ≤ 8 then
    { sc with ss := if d = 0 then sc.ss else sc.ss ||| (1#32 <<< d) }
  else if op = 0x49 ∧ (fn = 9 ∨ fn = 10) then
    { sc with kk := if d % 8 = 0 then sc.kk else sc.kk ||| (1#8 <<< (d % 8)) }
  else sc

/-- Scan n words from an address; a word that cannot be fetched ends the scan. Its fetches leave what fetches leave: accessed bits,
cached translations, sectors, an entry for a malformed leaf (R186, R215; assumption 79, DESIGN CHOICE). -/
def scanFrom (h : Nat) : Nat → Word → Scan → State → Scan × State
  | 0, _, sc, s => (sc, s)
  | n + 1, a, sc, s =>
    match fetchWord h a s with
    | .trap _ _ s1 => (sc, s1)
    | .ok w s1 =>
      let sc1 := scanWord w sc
      if sc1.done then (sc1, s1) else scanFrom h n (a + 4) sc1 s1

/-- The bindings, base and condition bit, once the queued vbind and vunbind have been performed. -/
def Hart.bindingsAhead (H : Hart) : List (Nat × Nat) :=
  let now := (H.binds.filter (fun b => !H.ended b)).map (fun b => (b.base, b.cond.toNat))
  H.activeQueue.foldl (fun l e =>
    let d := bits e.word 7 5
    if bits e.word 0 7 != 0x4F then l
    else if bits e.word 24 8 == 0 then l ++ [(d, bits e.word 17 3)]
    else if bits e.word 24 8 == 1 then l.filter (fun x => x.1 != d)
    else l) now

/-- The condition bits of some bindings. -/
def condBits (l : List (Nat × Nat)) : BitVec 8 := l.foldl (fun m x => if x.2 = 0 then m else m ||| (1#8 <<< x.2)) 0

/-- None of s8 to s15 is empty (R164). -/
def Hart.argsReady (H : Hart) : Bool := (List.range 8).all (fun n => !H.regs.isEmptyS (BitVec.ofNat 5 (8 + n)))

/-- The snapshot of s8 to s15. -/
def Hart.argSnapshot (H : Hart) : Vector Word 8 := Vector.ofFn (fun n : Fin 8 => H.regs.readS (BitVec.ofNat 5 (8 + n.val)))

/-- The bits of a set of registers in the layout of the empty bits. -/
def markBits (ss : BitVec 32) (kk : BitVec 8) : BitVec 40 := ss.setWidth 40 ||| (kk.setWidth 40 <<< 32)

/-- A scan that found sc ends in s: the vblk waits for the destinations that it names; then one entry enters the queue and they are
empty. A scan that has to wait is made again (R104, R186, R240). -/
def enterBlock (h : Nat) (i : BitVec 20) (sc : Scan) (s0 s : State) : State :=
  let H := s.hart h
  let target := wordTarget H.pc i
  let bs : List (Nat × Nat) := H.bindingsAhead
  let kk := sc.kk ||| condBits bs
  let marks := markBits sc.ss kk
  if H.regs.empty &&& marks != 0 then s0
  else
    s.setHart h (({ H.trace 5 H.pc target 0 with
        regs := { H.regs with empty := H.regs.empty ||| marks } }.enqueue
      { word := BitVec.ofNat 32 (vblkWord i), a := target, b := 0, g := H.argSnapshot, scanS := sc.ss, scanK := kk,
        binds := bs.map Prod.fst }).advance)

/-- vblk: it waits for s8 to s15 and for room, scans its block, and enters the queue (R104, R106, R164, R186, R240). -/
def execVblk (i : BitVec 20) (s : State) : Out :=
  .next (onScalar (vblkWord i) s (fun h =>
    let H := s.hart h
    gated h (H.confirmed.and (Gate.until (H.argsReady && decide (H.activeQueue.length < H.queueRoom)))) s
      (let (sc, s1) := scanFrom h 256 (wordTarget H.pc i) ⟨0, 0, false⟩ s
       enterBlock h i sc s s1)))

/-! ## Block instances (R153, R174) -/

/-- A block instance begins: the queue performs the vblk at its head, which writes the g registers (R152, R153, R396). -/
def execBlockInstanceBegin (h : Nat) (s : State) : Out :=
  .next (
    let H := s.hart h
    match H.headEntry with
    | none => s
    | some e =>
      if H.vec.inst.isSome || bits e.word 0 7 != 0x3E || H.mcheck.isSome then s
      else
        let H1 := H.setQueue (H.activeQueue.drop 1)
        s.setHart h { H1 with regs := H1.regs.note [40], vec := { H1.vec with
          vpc := e.a
          g := e.g
          estart := 0
          made := ⟨0, 0⟩
          inst := some ⟨BitVec.allOnes 16384, [], 0, e.scanS, e.scanK, e.binds, none⟩ } })

/-- The scanned destinations that no reduction has written become full with their old values; then the bit of each binding
that the vblk marked says whether it has ended (R186, R240). -/
def Hart.endBlock (H : Hart) (b : BlockInstance) : Hart :=
  let H1 := { H with vec := { H.vec with inst := none, estart := 0 } }
  let H2 := (List.range 32).foldl (fun H r => if b.scanS.getLsbD r then H.releaseS (BitVec.ofNat 5 r) else H) H1
  let owed := H.binds.filter (fun (x : Binding) => b.binds.contains x.base)
  let H3 := (List.range 8).foldl (fun H k =>
    if b.scanK.getLsbD k && !owed.any (fun x => x.cond.toNat == k) then H.releaseK (BitVec.ofNat 3 k) else H) H2
  (owed.foldl (fun H x => H.fillK x.cond (H.ended x)) H3).performed

/-- A control instruction of a block depends on no format: only an absent vector state stops it (R156, R351). -/
def vectorControl (word : Nat) (s : State) (k : Nat → BlockInstance → State) : State :=
  onVector word s (fun h =>
    let H := s.hart h
    if H.vec.vdirty.getLsbD 63 then vectorTrap h 0x0B 0 s
    else
      match H.vec.inst with
      | none => s
      | some b => k h b)

/-- Set the running instance, vpc and estart. -/
def setInstance (h : Nat) (b : BlockInstance) (vpc : Word) (s : State) : State :=
  let H := s.hart h
  s.setHart h { H with vec := { H.vec with inst := some b, vpc := vpc, estart := 0 } }

/-! ## Divergence (R171 to R174) -/

/-- The key of spill slot n of the hart (R76, R172). -/
def Hart.spillKey (H : Hart) (h n : Nat) : Nat :=
  scratchKey (coreOf h) (H.place.spillOff + (h % 4) * H.place.spillN * 2112 + n * 2112)

/-- Write an offcut entry to a spill slot (R172). -/
def spill (h n : Nat) (e : Offcut) (s : State) : State :=
  s.setMem (memWrite s.mm none ((s.hart h).spillKey h n) 2112
    (e.bm.toNat + e.c.toNat * 2 ^ 16384 + e.st.toNat * 2 ^ 16448))

/-- Read an offcut entry back from a spill slot. -/
def unspill (h n : Nat) (s : State) : Offcut :=
  let v := memRead s.mm none ((s.hart h).spillKey h n) 2112
  ⟨BitVec.ofNat 16384 v, BitVec.ofNat 64 (v / 2 ^ 16384), v / 2 ^ 16448 % 2 == 1⟩

/-- The spill slots that a frozen instance of the hart has in use (R172, R338). -/
def Hart.frozenSpills (H : Hart) : Nat := (H.vec.frozen.map (fun b => b.spilled)).getD 0

/-- Push an entry: the oldest of eight moves to the next spill slot; none when there is no free slot (R172). -/
def pushOffcut (h : Nat) (b : BlockInstance) (e : Offcut) (s : State) : Option (BlockInstance × State) :=
  if b.offcut.length < 8 then some ({ b with offcut := e :: b.offcut }, s)
  else if (s.hart h).frozenSpills + b.spilled < (s.hart h).place.spillN then
    match b.offcut.getLast? with
    | none => none
    | some o =>
      some ({ b with offcut := e :: b.offcut.dropLast, spilled := b.spilled + 1 },
        spill h ((s.hart h).frozenSpills + b.spilled) o s)
  else none

/-- Pop the youngest entry: the most recently spilled one returns as the oldest (R172). -/
def popOffcut (h : Nat) (b : BlockInstance) (s : State) : BlockInstance :=
  let rest := b.offcut.drop 1
  if b.spilled = 0 then { b with offcut := rest }
  else { b with offcut := rest ++ [unspill h ((s.hart h).frozenSpills + b.spilled - 1) s], spilled := b.spilled - 1 }

/-- The mask of the first n bits. -/
def firstBits (n : Nat) : Mask := BitVec.ofNat 16384 (2 ^ n - 1)

/-- vbr and vbr.not (R173). -/
def vectorBranch (word : Nat) (o : BitVec 20) (k : BitVec 3) (neg : Bool) (s : State) : State :=
  vectorControl word s (fun h b =>
    let H := s.hart h
    let V := H.vec
    let live := b.path &&& firstBits (V.liveUnits H.obs.prot)
    let m := V.maskAt k
    let take := live &&& (if neg then ~~~m else m)
    let rest := live &&& ~~~take
    let target := wordTarget V.vpc o
    if take = 0 then setInstance h b (V.vpc + 4) s
    else if rest = 0 then setInstance h b target s
    else
      match pushOffcut h b ⟨b.path, V.vpc + 4, false⟩ s with
      | none => vectorTrap h 0x0A (BitVec.ofNat 64 word) s
      | some (b1, s1) => setInstance h { b1 with path := take } target s1)

def execVbr (o : BitVec 20) (p : BitVec 1) (k : BitVec 3) (s : State) : Out :=
  .next (vectorBranch (vbrWord o p k) o k false s)
def execVbrNot (o : BitVec 20) (p : BitVec 1) (k : BitVec 3) (s : State) : Out :=
  .next (vectorBranch (vbrNotWord o p k) o k true s)

/-- vjoin's step: next is vpc after a pop (R174). -/
def joinStep (h : Nat) (b : BlockInstance) (next : Word) (s : State) : State :=
  match b.offcut with
  | [] => setInstance h b next s
  | top :: rest =>
    if top.st then setInstance h { popOffcut h b s with path := top.bm } next s
    else setInstance h { b with offcut := { top with st := true } :: rest, path := top.bm &&& ~~~b.path } top.c s

/-- vjoin (R174). -/
def execVjoin (s : State) : Out :=
  .next (vectorControl vjoinWord s (fun h b => joinStep h b ((s.hart h).vec.vpc + 4) s))

/-- vend: the last one ends the instance (R152, R174). -/
def execVend (s : State) : Out :=
  .next (vectorControl vendWord s (fun h b =>
    if b.offcut.isEmpty then s.setHart h ((s.hart h).endBlock b) else joinStep h b (s.hart h).vec.vpc s))

/-- vnop (R174). -/
def execVnop (s : State) : Out :=
  .next (vectorControl vnopWord s (fun h b => setInstance h b ((s.hart h).vec.vpc + 4) s))

end Sys2Proof.Machine
end

