-- ==== Sys2Proof/Machine/Copies.lean ====
section
/-!
DEFINITION. The copy engine: cp.lay, cp.arr, cp.go, cp.wm, cp.wait, cp.stop and cp.stat, and the acceptance, the
elements and the completion of a copy (R242 to R258, R386).
-/
namespace Sys2Proof.Machine

/-! ## Journals, as copies meet them (R386) -/

/-- The context owns an enabled journal. -/
def State.ownsJournal (s : State) (ctx : Nat) : Bool := s.journal.jrn.toList.any (fun J => J.enabled && J.ctx == ctx)

/-! ## cp.lay (R244) -/

/-- The first n doublewords of a register. -/
def regWords (v : VReg) (n : Nat) : List Word := (List.range n).map (fun i => BitVec.ofNat 64 (bits v (64 * i) 64))

/-- The pair of layouts a cp.lay reads, if it is one (R244). -/
def Hart.layoutPair (H : Hart) (a b : BitVec 5) : Option LayoutPair :=
  let n := H.vec.len.toNat
  let src := regWords (H.vec.v[a.toNat]) n
  let dst := regWords (H.vec.v[b.toNat]) n
  let bound (r : BitVec 5) : Bool := H.binds.any (fun x => decide (x.base ≤ r.toNat) && decide (r.toNat < x.base + x.count))
  if n = 0 ∨ 8 < n ∨ (src ++ dst).any (fun w => dimExtent w == 0) ∨ layoutCount src ≠ layoutCount dst ∨
      2 ^ 40 < layoutCount src * 8 ∨ bound a ∨ bound b then none
  else some ⟨src, dst⟩

/-- The new pair of a channel: the copies whose ticket comes before it keep the old one (R246). -/
def Channel.capture (C : Channel) (p : LayoutPair) (older : CopyJob → Bool) : Channel :=
  { C with
    layouts := some p
    copies := C.copies.map (fun J =>
      if older J && J.layouts.isNone && J.taken.isNone then { J with taken := some C.layouts } else J) }

/-- Performing cp.lay. -/
def captureLayout (h c : Nat) (a b : BitVec 5) (s : State) : Res Unit :=
  let H := s.hart h
  if H.vec.vdirty.getLsbD 63 then .trap 0x0B 0 s
  else
    match H.layoutPair a b with
    | none => .trap 0x14 (BitVec.ofNat 64 c) s
    | some p => .ok () (s.setHart h (H.setChan c ((H.chan c).capture p (fun J => H.reached J.ticket))))

/-- cp.lay (R244): it governs the copies that follow it from the moment it enters the queue (R246). -/
def execCpLay (y x : BitVec 1) (b a c : BitVec 5) (s : State) : Out :=
  .next (
    let t := queuedOp (cpLayWord y x b a c) (fun _ => .go) 0 noCapture noCapture
      (fun h _ t => captureLayout h c.toNat a b t) s
    match s.agent with
    | .scalar h =>
      let H := t.hart h
      if H.vec.enq = (s.hart h).vec.enq then t
      else t.setHart h (H.setChan c.toNat { H.chan c.toNat with laySeen := true })
    | _ => t)

/-! ## Commands -/

/-- A configuration obeys its map (R245). -/
def cfgOk (v : Word) : Bool := bits v 11 53 == 0 && bits v 3 1 == 0 && decide (bits v 0 3 < 6)

/-- cp.arr (R245). -/
def execCpArr (y x : BitVec 1) (b a c : BitVec 5) (s : State) : Out :=
  .next (command (cpArrWord y x b a c) (fun H =>
      (H.srcS a x).and ((H.srcS b y).and ((Gate.need ((H.regs.readS a).toNat % 8 == 0) 0x04 (H.regs.readS a)).and
        (Gate.need (cfgOk (H.regs.readS b)) 0x14 (c.setWidth 64))))) s
    (fun h =>
      let H := s.hart h
      s.setHart h (H.setChan c.toNat { H.chan c.toNat with
        arrive := H.regs.readS a, cfg := H.regs.readS b }).advance))

/-- A copy as it is issued (R246). -/
def Hart.newCopy (H : Hart) (C : Channel) (src dst : Word) : CopyJob :=
  { src := src, dst := dst, arrive := C.arrive, cfg := C.cfg, ticket := H.position, older := H.nextId, level := H.plev,
    replay := H.loop.st == 3, taken := none, layouts := none, accept := 0, loaded := false, kept := false, checked := 0, moves := [],
    written := [], poisoned := false }

/-- cp.go (R246). -/
def execCpGo (y x : BitVec 1) (b a c : BitVec 5) (s : State) : Out :=
  .next (command (cpGoWord y x b a c) (fun H =>
      (H.srcS a x).and ((H.srcS b y).and ((Gate.until (decide ((H.chan c.toNat).copies.length < 8))).and
        (Gate.need (H.chan c.toNat).laySeen 0x14 (c.setWidth 64))))) s
    (fun h =>
      let H := s.hart h
      let C := H.chan c.toNat
      let J := H.newCopy C (H.regs.readS a) (H.regs.readS b)
      s.setHart h (H.setChan c.toNat { C with copies := C.copies ++ [J] }).advance))

/-- cp.wm (R253). -/
def execCpWm (a c : BitVec 5) (s : State) : Out :=
  .next (command (cpWmWord a c) (fun H => H.dstS a) s
    (fun h => answer h a (BitVec.ofNat 64 ((s.hart h).chan c.toNat).wm) s))

/-- cp.wait (R254). -/
def execCpWait (c : BitVec 5) (s : State) : Out :=
  .next (command (cpWaitWord c) (fun _ => .go) s
    (fun h =>
      let H := s.hart h
      s.setHart h (if (H.chan c.toNat).copies.isEmpty then H.advance else { H with status := .waiting .copy })))

/-- cp.stop (R255). -/
def execCpStop (c : BitVec 5) (s : State) : Out :=
  .next (command (cpStopWord c) (fun _ => .go) s
    (fun h =>
      let s1 := stopChannel h c.toNat s
      s1.setHart h (s1.hart h).advance))

/-- The head copy has been accepted and runs. -/
def Channel.running (C : Channel) : Bool := C.copies.head?.any (fun J => J.layouts.isSome) && !C.flt

/-- The channel status (R256). -/
def Channel.status (C : Channel) : Word :=
  BitVec.ofNat 64 (C.wm % 2 ^ 40 + C.copies.length * 2 ^ 56 + (if C.running then 2 ^ 60 else 0) +
    (if C.layouts.isSome then 2 ^ 61 else 0) + (if C.flt then 2 ^ 62 else 0) + (if C.err then 2 ^ 63 else 0))

/-- cp.stat (R256). -/
def execCpStat (a c : BitVec 5) (s : State) : Out :=
  .next (command (cpStatWord a c) (fun H => H.dstS a) s
    (fun h => answer h a ((s.hart h).chan c.toNat).status s))

/-! ## The engine (R246 to R251, R257, R258) -/

/-- The channel stops and owes the hart a trap (R251). -/
def stopOnFault (h c cause : Nat) (tval : Word) (s : State) : State :=
  let H := s.hart h
  s.setHart h (H.setChan c { H.chan c with flt := true, fault := some (cause, tval) })

/-- A copy fault (R251); the host may serve it first (R422). -/
def copyFault (h c cause : Nat) (tval : Word) (s : State) : State :=
  match servedFault (copyAgent h c) (s.hart h).place.lctx.toNat cause tval s with
  | (none, s1) => s1
  | (some k, s1) => stopOnFault h c k tval s1

/-- Replace the copy at the head. -/
def Hart.setHead (H : Hart) (c : Nat) (J : CopyJob) : Hart :=
  let C := H.chan c
  H.setChan c { C with copies := J :: C.copies.drop 1 }

/-- The slot entry of a slotted copy: the core whose scratchpad it writes (R90, R258). -/
def slotCore (h : Nat) (J : CopyJob) (s : State) : Option Nat :=
  ((s.launchOf h).bind (fun L => L.slots.find? (fun r => r.src == coreOf h && r.slot == bits J.cfg 4 4))).map
    (fun r => r.dst)

/-- Who writes the destination: a slotted copy writes the scratchpad of its destination core, and nothing else (R258). -/
def copyTarget (h : Nat) (J : CopyJob) (s : State) : Who :=
  match cfgSlotted J.cfg, slotCore h J s with
  | true, some d => { copyWho h J s with core := d }
  | _, _ => copyWho h J s

/-- One of the addresses lies on a page with H = 1, whatever the page permits (R386). -/
def onHostPage (w : Who) : List Nat → State → Bool × State
  | [], s => (false, s)
  | a :: t, s =>
    if spaceOf a = .translated then
      match findPage w a .write s with
      | .trap _ _ s1 => onHostPage w t s1
      | .ok (x, _) s1 => if x.attr 60 then (true, s1) else onHostPage w t s1
    else onHostPage w t s

/-- The checks at acceptance (R251): the pair, the slot entry, the journal. -/
def acceptFault (h : Nat) (J : CopyJob) (pair : Option LayoutPair) (s : State) : Option (Nat × Word) × State :=
  match pair with
  | none => (some (0x14, J.src), s)
  | some p =>
    if cfgSlotted J.cfg && (slotCore h J s).isNone then (some (0x07, J.dst), s)
    else if s.journal.ref && s.ownsJournal (s.hart h).place.lctx.toNat then
      match onHostPage (copyWho h J s) ((List.range (layoutCount p.dst)).map (layoutAddr J.dst p.dst)) s with
      | (true, s1) => (some (0x15, J.dst), s1)
      | (false, s1) => (none, s1)
    else (none, s)

/-- The part that an accepted copy, which writes the windows of a core, gives the bindings of its channel (R238, R258). -/
def Hart.addPart (H : Hart) (c : Nat) (J : CopyJob) (p : LayoutPair) (core : Nat) : Hart :=
  { H with binds := H.binds.map (fun b =>
      if b.onChannel && b.num == c then { b with parts := b.parts ++ [⟨J.dst, p.dst, cfgSize J.cfg, core⟩] } else b) }

/-- A jr.gate older than a number has not answered (R384). -/
def Hart.gateWaits (H : Hart) (n : Nat) : Bool :=
  H.cmds.any (fun c => decide (c.id < n) && match c.on with
    | .gate _ _ => true
    | _ => false)

/-- A copy of the image comes before J, another of its copies, in ticket order, and its acceptance has not begun (R349). -/
def Hart.beforeLoaded (H : Hart) (J : CopyJob) : Bool :=
  J.loaded && H.chans.toList.any (fun C => (C.copies.drop (if C.flt then 1 else 0)).any (fun K =>
    K.loaded && K.layouts.isNone && decide (K.ticket.main < J.ticket.main)))

/-- The copy at the head of a channel may be accepted: everything older has been performed, no older gate waits, no
replay it was issued in still runs, no loaded context waits for its tret, and no copy of an image comes before it (R246, R285, R349,
R384). -/
def Hart.mayAccept (H : Hart) (C : Channel) (J : CopyJob) : Bool :=
  J.layouts.isNone && !C.flt && !H.trap.loaded && !H.beforeLoaded J && H.reached J.ticket && !H.owesOlder J.older &&
    !H.gateWaits J.older && !(J.replay && H.loop.st == 3)

/-- The engine accepts the copy at the head of channel c (R246, R249, R252). -/
def acceptCopy (h c : Nat) (s : State) : State :=
  let H := s.hart h
  let C := H.chan c
  match C.copies with
  | [] => s
  | J :: _ =>
    if !H.mayAccept C J then s
    else
      let s1 := forceEntries h J.ticket (forceOlder h J.older s)
      let pair := J.taken.getD C.layouts
      match acceptFault h J pair s1, pair with
      | (some (cause, t), s2), _ => copyFault h c cause t s2
      | (none, s2), none => s2
      | (none, s1), some p =>
        let (n, s2) := acceptAt (coreOf h) s1
        let H2 := s2.hart h
        let H3 := H2.setHead c { J with
          layouts := some p, accept := n, checked := if J.kept then C.wm / cfgSize J.cfg else 0 }
        let H4 := if J.kept then H3 else H3.setChan c { H3.chan c with wm := 0 }
        s2.setHart h (H4.addPart c J p (copyTarget h J s2).core)

/-- COPY_ACCEPT (R246). -/
def execCopyAccept (h c : Nat) (s : State) : Out := .next (acceptCopy h c s)

/-- Check one address of an element: its alignment, then the access (R247). -/
def copyAccess (w : Who) (a size : Nat) (kind : Acc) (s : State) : Res Loc :=
  if a % size ≠ 0 then .trap 0x04 (BitVec.ofNat 64 a) s else accessBy w a size kind s

/-- Check element j: where it is read and where it is written (R247). -/
def checkElement (h : Nat) (J : CopyJob) (p : LayoutPair) (j : Nat) (s : State) : Res CopyMove :=
  let size := cfgSize J.cfg
  let a := layoutAddr J.src p.src j
  let b := layoutAddr J.dst p.dst j
  match copyAccess (copyWho h J s) a size .read s with
  | .trap c t s1 => .trap c t s1
  | .ok la s1 =>
    if cfgSlotted J.cfg && b % size == 0 && spaceOf b != .scratch then .trap 0x07 (BitVec.ofNat 64 b) s1
    else
      match copyAccess (copyTarget h J s1) b size .write s1 with
      | .trap c t s2 => .trap c t s2
      | .ok lb s2 => .ok ⟨j, la, lb⟩ s2

/-- Check n elements from element j on, in ascending order: what passed, and the fault that stopped the checks. -/
def checkElements (h : Nat) (J : CopyJob) (p : LayoutPair) : Nat → Nat → List CopyMove → State →
    List CopyMove × Option (Nat × Word) × State
  | 0, _, ms, s => (ms, none, s)
  | n + 1, j, ms, s =>
    match checkElement h J p j s with
    | .trap c t s1 => (ms, some (c, t), s1)
    | .ok m s1 => checkElements h J p n (j + 1) (ms ++ [m]) s1

/-- Source and destination span overlapping intervals: the elements go one after another (R247). -/
def CopyJob.serial (J : CopyJob) : Bool :=
  match J.extents with
  | [x, y] => x.orders y
  | _ => false

/-- The watermark as elements: how many are written from the first on (R249). -/
def contiguous (written : List Nat) : Nat → Nat → Nat
  | 0, j => j
  | n + 1, j => if written.contains j then contiguous written n (j + 1) else j

/-- Write an element that has passed its checks: poisoned when its source is, when the peer answers so or when the engine
errs, and left alone where a higher element has already written the same place (R247, R250, R364). -/
def moveElement (h : Nat) (J : CopyJob) (p : LayoutPair) (m : CopyMove) (s0 : State) : State × Bool :=
  let t0 := departConflicts none m.dst.key m.dst.size true (departConflicts none m.src.key m.src.size false s0)
  let (lost, s1) := peerPoison m.src t0
  let (hurt, s) := engineError (coreOf h) (s0.hart h).place.lctx.toNat s1
  let bad := lost || hurt || poisonedLoc m.src s
  let later := J.written.any (fun j => decide (m.j < j) && layoutAddr J.dst p.dst j == layoutAddr J.dst p.dst m.j)
  if later then (s, bad)
  else
    let s2 := fillLoc m.src s
    let s3 := writeOut (copyWho h J s) m.dst (readLoc m.src s) s2
    let s4 := s3.setHart h ((s3.hart h).tallied (fun t => { t with copied := t.copied + m.dst.size }))
    (if bad then poisonLoc m.dst s4 else s4, bad)

/-- Check an element anew whose page has lost its key since it was checked (R420), then ask the peers that it reaches: an
error is a fault of the element (R364). -/
def readyMove (h : Nat) (J : CopyJob) (p : LayoutPair) (m : CopyMove) (s : State) : Res CopyMove :=
  match if m.src.stale s || m.dst.stale s then checkElement h J p m.j s else .ok m s with
  | .trap c t s1 => .trap c t s1
  | .ok m1 s1 =>
    let (e1, s2) := peerError m1.src s1
    let (e2, s3) := peerError m1.dst s2
    if e1 then .trap 0x07 (BitVec.ofNat 64 (layoutAddr J.src p.src m.j)) s3
    else if e2 then .trap 0x07 (BitVec.ofNat 64 (layoutAddr J.dst p.dst m.j)) s3
    else .ok m1 s3

/-- Element j of the running copy: the checks up to it in ascending order, then its move (R247, R249, R257). -/
def copyStep (h c j : Nat) (s : State) : State :=
  let H := s.hart h
  let C := H.chan c
  match C.copies with
  | [] => s
  | J :: _ =>
    match J.layouts with
    | none => s
    | some p =>
      let size := cfgSize J.cfg
      let older := olderExtents (coreOf h) J.accept s
      let held := waitsFor older (.at (layoutAddr J.src p.src j) size false) ||
        waitsFor older (.at (layoutAddr J.dst p.dst j) size true)
      if C.flt || decide (layoutCount p.dst ≤ j) || decide (j * size < C.wm) || J.written.contains j || held ||
          (J.serial && j * size != C.wm) then s
      else
        let (ms, f, s1) := checkElements h J p (j + 1 - J.checked) J.checked [] s
        let J1 := { J with checked := J.checked + ms.length, moves := J.moves ++ ms }
        match f with
        | some (cause, t) => copyFault h c cause t (s1.setHart h ((s1.hart h).setHead c J1))
        | none =>
          match J1.moves.find? (fun m => m.j == j) with
          | none => s
          | some m0 =>
            match readyMove h J1 p m0 (s1.setHart h ((s1.hart h).setHead c J1)) with
            | .trap cause t t1 => copyFault h c cause t t1
            | .ok m t1 =>
            let (s2, bad) := moveElement h J1 p m t1
            let w := ninsert J1.written j
            let n := contiguous w w.length (C.wm / size)
            let J2 := { J1 with
              moves := J1.moves.filter (fun m => m.j != j)
              written := w.filter (fun i => decide (n ≤ i))
              poisoned := J1.poisoned || bad }
            let H2 := (s2.hart h).setHead c J2
            s2.setHart h (H2.setChan c { H2.chan c with wm := n * size })

/-- COPY_ELEMENT (R247). -/
def execCopyElement (h c j : Nat) (s : State) : Out :=
  .next (serveHost (copyAgent h c) s s (stopOnFault h c) (copyStep h c j s))

/-- The copy at the head is complete: its arrival word is incremented, or faults (R248, R249, R251). The add needs write
permission alone, and adds to the bytes that stand, poisoned or not (assumption 73, DESIGN CHOICE). -/
def completeCopy (h c : Nat) (s : State) : State :=
  let H := s.hart h
  let C := H.chan c
  match C.copies with
  | [] => s
  | J :: rest =>
    match J.layouts with
    | none => s
    | some p =>
      if C.flt || C.wm ≠ layoutCount p.dst * cfgSize J.cfg then s
      else
        let done (t : State) : State :=
          let H1 := t.hart h
          t.setHart h (H1.setChan c { H1.chan c with copies := rest, err := J.poisoned })
        if J.arrive = 0 then done s
        else
          match accessBy (copyWho h J s) J.arrive.toNat 8 .write s with
          | .trap cause t s1 => copyFault h c cause t s1
          | .ok l s1 => done (writeLoc (copyWho h J s) l (arrivalValue (readLoc l s1) J.poisoned) s1)

/-- COPY_COMPLETE (R248). -/
def execCopyComplete (h c : Nat) (s : State) : Out :=
  .next (serveHost (copyAgent h c) s s (stopOnFault h c) (completeCopy h c s))

end Sys2Proof.Machine
end

