-- ==== Sys2Proof/Machine/NearBank.lean ====
section
/-!
DEFINITION. The near-bank units: jobs and their instructions, their queues, safe points, watchdogs and channel resets
(R260 to R278).
-/
namespace Sys2Proof.Machine

/-! ## Accesses of a job (R260, R268, R269) -/

/-- Who a job's accesses are: its context and captured level (R220, R268). -/
def NbJob.who (J : NbJob) : Who := ⟨coreOf J.hart, J.ctx, J.level, none, .engine⟩

/-- Whether a page lets a near-bank unit act on it (R268). -/
def pageLocal (pte : BitVec 64) : Bool :=
  ebits pte 59 1 == 0 && ebits pte 60 1 == 0 && ebits pte 62 1 == 1 && ebits pte 63 1 == 0

/-- The checks of a granule access of unit u's job, in the order of R268's table. -/
def nearAccess (u : Nat) (J : NbJob) (va : Word) (kind : Acc) (s : State) : Res Xlat :=
  if va.toNat % 64 ≠ 0 then .trap 0x04 va s
  else if spaceOf va.toNat ≠ .translated then .trap 0x07 va s
  else
    match translate J.who va.toNat 64 kind s with
    | .trap c t s1 => .trap c t s1
    | .ok x s1 =>
      if !(isStackPa x.pa && stackOf x.pa == u / 64 && pageLocal x.pte) then .trap 0x07 va s1
      else if ebits x.pte 61 1 = 1 then .trap 0x08 va s1
      else .ok x s1

/-- A failed check ends the job with its code; the host may serve a translation fault first (R268, R422). -/
def nearFail (u cause : Nat) (va : Word) (ctx : Nat) (s : State) : State :=
  match servedFault (nearAgent u) ctx cause va s with
  | (none, s1) => s1
  | (some c, s1) => nearEnd u c s1

/-- A line leaves every L1 and the home L2 (R208, R268). -/
def dropLine (ln : Nat) (s : State) : State :=
  match tfind s.mm.l2 ln with
  | some l => evictLine ln l s
  | none => s

/-- Write a granule: the line leaves the caches first (R208, R268). -/
def nearWrite (pa v : Nat) (s : State) : State :=
  let s1 := dropLine (pa / 64) (departConflicts none pa 64 true s)
  s1.setMem (memWrite s1.mm none pa 64 v)

/-! ## The instructions of the threads -/

/-- A class N instruction of one of the two threads (R263). -/
def nearOp (word : Nat) (thread : Bool) (s : State) (f : Nat → NbJob → State) : State :=
  match s.agent with
  | .nearBank u x => if x = thread then onJob u x s (f u) else wrongClass word s
  | _ => wrongClass word s

/-- nq.push (R265, R266). -/
def execNqPush (x : BitVec 1) (a : BitVec 5) (q : BitVec 1) (s : State) : Out :=
  .next (nearOp (nqPushWord x a q) false s (fun u J =>
    let va := J.a.regs.readS a
    if (if q = 0 then J.loads.length else J.stores.length) ≥ 16 then s
    else
      match nearAccess u J va (if q = 0 then .read else .write) s with
      | .trap c t s1 => nearFail u c t J.ctx s1
      | .ok t s1 =>
        s1.putJob u (if q = 0 then
          NbJob.advance { J with loads := J.loads ++ [⟨va.toNat, t.pa, none, false, J.pushed⟩] } false
        else
          NbJob.advance { J with stores := J.stores ++ [⟨va.toNat, t.pa, J.pushed⟩], pushed := J.pushed + 1 } false)))

/-- Set a unit register. -/
def NbJob.setReg (J : NbJob) (d : BitVec 4) (v : BitVec 512) : NbJob := { J with w := J.w.set d.toNat v }

/-- nq.pop (R267). -/
def execNqPop (q : BitVec 1) (d : BitVec 4) (s : State) : Out :=
  .next (nearOp (nqPopWord q d) true s (fun u J =>
    if q = 0 then
      match J.loads with
      | [] => s
      | e :: rest =>
        match e.data with
        | none => s
        | some v =>
          if e.poison then nearEnd u 0x0E s
          else s.putJob u ({ J with loads := rest }.setReg d v |>.advance true)
    else
      match J.stores with
      | [] => s
      | e :: rest =>
        nearWrite e.pa (J.reg d.toNat).toNat (s.putJob u ({ J with stores := rest }.advance true))))

/-- The job parks: its unit registers are lost (R272). -/
def NbJob.park (J : NbJob) : NbJob := { J with parked := true, w := Vector.replicate 16 0 }

/-- nb.safe (R272, R278). -/
def execNbSafe (s : State) : Out :=
  .next (nearOp nbSafeWord true s (fun u J =>
    let J1 := J.advance true
    s.putJob u (if J.stop then { J1 with endCode := some 0x81 }
      else if (s.unit u).holds.contains J.ctx then J1.park else J1)))

/-- The physical address of the layer-n copy of an address (R260, R270). -/
def layerCopy (pa n : Nat) : Nat := pa - pa / 2 ^ 23 % 16 * 2 ^ 23 + n * 2 ^ 23

/-- Granule i of every layer. -/
def writeLayers (pa i v : Nat) (s : State) : State :=
  (List.range 16).foldl (fun t l => nearWrite (layerCopy pa l + 64 * i) v t) s

/-- nb.mc (R270): the copies lie on the page of s[a], so its check is that of all. The checks of R268 come before the size of the
page (assumption 79, DESIGN CHOICE). -/
def execNbMc (x : BitVec 1) (b : BitVec 4) (a d : BitVec 5) (s : State) : Out :=
  .next (nearOp (nbMcWord x b a d) true s (fun u J =>
    let n := (J.x.regs.readS d).toNat
    let va := J.x.regs.readS a
    if n = 0 ∨ 64 < n ∨ va.toNat % 64 ≠ 0 ∨ 4096 < va.toNat % 4096 + 64 * n then nearEnd u 0x07 s
    else
      match nearAccess u J va .write s with
      | .trap c t s1 => nearFail u c t J.ctx s1
      | .ok t s1 =>
        if ebits t.pte 56 3 < 4 then nearEnd u 0x07 s1
        else
          (List.range n).foldl (fun r i => writeLayers t.pa i (J.reg b.toNat).toNat r)
            (s1.putJob u (J.advance true))))

/-! ## The start and the end of a job (R262, R272, R275, R276) -/

/-- The ordering condition of a job: the older accesses were performed when nb.go issued; the queue has reached its
ticket, or its hart has another launch (R275). The ticket of a parked hart counts the entries that its image holds back. -/
def NbJob.ordered (J : NbJob) (s : State) : Bool :=
  if s.parkedIn J.hart J.launch then J.ticket == ⟨0, 0⟩
  else s.orderOf J.hart != J.launch || (s.hart J.hart).reached J.ticket

/-- The vector accesses of the entries before its ticket are performed (R275). -/
def NbJob.forceEntries (J : NbJob) (s : State) : State :=
  if s.orderOf J.hart = J.launch && !s.parkedIn J.hart J.launch then Sys2Proof.Machine.forceEntries J.hart J.ticket s else s

/-- Read n words of a code image, each with the checks of a load (R275). -/
def readCode (w : Who) (a : Nat) : Nat → State → Res (List (BitVec 32))
  | 0, s => .ok [] s
  | n + 1, s =>
    match readAt w a 4 s with
    | .trap c t s1 => .trap c t s1
    | .ok v s1 =>
      match readCode w (a + 4) n s1 with
      | .trap c t s2 => .trap c t s2
      | .ok ws s2 => .ok (BitVec.ofNat 32 v :: ws) s2

/-- A field of a descriptor (R274). -/
def descField (d : BitVec 512) (lo n : Nat) : Nat := bits d lo n

/-- The registers of a thread as its job starts (R261). -/
def threadRegs (d : BitVec 512) : ScalarRegs :=
  let arg (i : Nat) : Word := BitVec.ofNat 64 (descField d (256 + 64 * i) 64)
  (((ScalarRegs.initial.writeS 1 (arg 0)).writeS 2 (arg 1)).writeS 3 (arg 2)).writeS 4 (arg 3)

/-- The job at rest that comes first in acceptance order, of a context that is not held (R272). -/
def NbUnit.nextJob (U : NbUnit) : Option NbJob :=
  U.jobs.find? (fun J => (!J.started || J.parked) && J.endCode.isNone && !U.holds.contains J.ctx)

/-- End a job that has not run, or runs again. -/
def endJob (u : Nat) (J : NbJob) (code : Nat) (s : State) : State := s.putJob u { J with endCode := some code }

/-- The unfilled loads of a parked job are issued again (R272). -/
def reissue (u : Nat) (J : NbJob) : List NbLoad → State → Res (List NbLoad)
  | [], s => .ok [] s
  | e :: rest, s =>
    if e.data.isSome then
      match reissue u J rest s with
      | .ok r s1 => .ok (e :: r) s1
      | .trap c t s1 => .trap c t s1
    else
      match nearAccess u J (BitVec.ofNat 64 e.va) .read s with
      | .trap c t s1 => .trap c t s1
      | .ok x s1 =>
        match reissue u J rest s1 with
        | .ok r s2 => .ok ({ e with pa := x.pa } :: r) s2
        | .trap c t s2 => .trap c t s2

/-- A fault before a job runs ends it, unless the host serves it (R275, R422). -/
def startFail (u cause : Nat) (va : Word) (J : NbJob) (s : State) : State :=
  match servedFault (nearAgent u) J.ctx cause va s with
  | (none, s1) => s1
  | (some c, s1) => endJob u J c s1

/-- A parked job goes on; a queued one reads its code and starts (R262, R272). -/
def startJob (u : Nat) (s : State) : State :=
  let U := s.unit u
  if U.inReset || U.running.isSome then s
  else
    match U.nextJob with
    | none => s
    | some J => serveHost (nearAgent u) s s (fun c _ t => endJob u J c t) <|
      if J.parked then
        match reissue u J J.loads s with
        | .trap c t s1 => startFail u c t J s1
        | .ok ls s1 => s1.putJob u { J with parked := false, loads := ls }
      else if !J.ordered s then s
      else
        match readCode J.who (descField J.desc 0 56) (descField J.desc 56 8 + 1) (J.forceEntries s) with
        | .trap c t s1 => startFail u c t J s1
        | .ok ws s1 =>
          s1.putJob u { J with
            started := true
            code := ws
            a := ⟨threadRegs J.desc, descField J.desc 96 8, false⟩
            x := ⟨threadRegs J.desc, descField J.desc 104 8, false⟩ }

/-- Once ordering holds, the unit reads the code image and starts the job's threads (R262). -/
def execNbJobStart (u : Nat) (s : State) : Out := .next (startJob u s)

/-- A pushed load is performed in push order, once the older stores of its granule are (R265, R266, R269). -/
def execNqLoadFill (u n : Nat) (s : State) : Out :=
  .next (
    match (s.unit u).running with
    | none => s
    | some J =>
      match J.loads[n]? with
      | none => s
      | some e =>
        if e.data.isSome || (J.loads.take n).any (fun p => p.data.isNone) ||
            J.stores.any (fun t => decide (t.num < e.after) && t.pa == e.pa) then s
        else
          let s1 := readLines e.pa 64 0 (departConflicts none e.pa 64 false s)
          let e1 :=
            { e with data := some (BitVec.ofNat 512 (memRead s1.mm none e.pa 64)), poison := poisoned s1.mm true e.pa 64 }
          s1.putJob u { J with loads := J.loads.set n e1 })

/-- The end code of a job that is over (R276). -/
def NbJob.over (J : NbJob) : Option Nat :=
  match J.endCode with
  | some c => some c
  | none =>
    if J.started && !J.parked && J.x.halted && !J.stores.isEmpty then some 0x82
    else if J.started && !J.parked && J.x.halted && J.a.halted then some 0x00
    else none

/-- The status word of a job (R277). -/
def NbJob.status (J : NbJob) (st code : Nat) : Word :=
  BitVec.ofNat 64 (st * 2 ^ 62 + (if J.parked then 2 ^ 61 else 0) + code * 2 ^ 48 + J.flags.toNat * 2 ^ 40 +
    J.a.pc % 256 * 2 ^ 24 + J.x.pc % 256 * 2 ^ 16)

/-- A sequence number is one of the 16 jobs accepted last (R277; assumption 21, DEDUCED). -/
def NbUnit.recent (U : NbUnit) (q : BitVec 16) : Bool := decide ((U.seq - q).toNat < 16)

/-- A job ends: its arrival word, its status, its slot (R276, R277). The unit's own arrival does not wait for a reset, which
other agents' accesses wait for (R273). -/
def finishJob (u : Nat) (s : State) : State :=
  match (s.unit u).jobs.find? (fun J => J.over.isSome) with
  | none => s
  | some J =>
    let code := J.over.getD 0
    let U := s.unit u
    let past := (J.seq, J.ctx, { J with parked := false }.status (if code = 0 then 2 else 3) code) :: U.past
    let s1 := s.setUnit u { U with jobs := U.jobs.filter (fun K => K.seq != J.seq), past := past.filter (fun p => U.recent p.1) }
    let s2 := arrive J.who (BitVec.ofNat 64 (descField J.desc 192 56)) (code != 0) u s1
    finishEndings (forgetAssists (· == nearAgent u) { s2 with blocked := s.blocked })

/-- A job ends (R276). -/
def execNbJobEnd (u : Nat) (s : State) : Out := .next (finishJob u s)

/-! ## Watchdogs and channel resets (R271, R273) -/

/-- The thread cannot retire an instruction: it has halted, or waits at a queue. -/
def NbJob.stalled (J : NbJob) (x : Bool) : Bool :=
  (J.thread x).halted ||
    match J.code[(J.thread x).pc]? with
    | none => false
    | some w =>
      bits w 0 7 == 0x54 &&
        ((!x && bits w 24 8 == 0 && decide ((if bits w 7 1 = 0 then J.loads.length else J.stores.length) ≥ 16)) ||
          (x && bits w 24 8 == 1 &&
            (if bits w 12 1 = 0 then !J.loads.head?.any (fun e => e.data.isSome) else J.stores.isEmpty)))

/-- The thread's next instruction waits for a bank of a channel in reset (R273). -/
def nearHeld (u : Nat) (J : NbJob) (x : Bool) (s : State) : Bool :=
  s.resetting &&
    match J.code[(J.thread x).pc]? with
    | none => false
    | some w =>
      let va := (J.thread x).regs.readS (BitVec.ofNat 5 (bits w 12 5))
      let meets (kind : Acc) (f : Nat → Bool) : Bool :=
        match nearAccess u J va kind s with
        | .ok p t => t.blocked || f p.pa
        | .trap _ _ t => t.blocked
      bits w 0 7 == 0x54 &&
        ((!x && bits w 24 8 == 0 && meets (if bits w 7 1 = 0 then .read else .write) (fun _ => false)) ||
          (x && bits w 24 8 == 1 && bits w 12 1 == 1 && J.stores.head?.any (fun e => s.bankHeld e.pa)) ||
          (x && bits w 24 8 == 3 && meets .write s.bankHeld))

/-- Neither thread of a job that is not over retires an instruction for the limit (R273, R276). -/
def execNbProgressWatchdog (u : Nat) (s : State) : Out :=
  .next (
    match (s.unit u).running with
    | none => s
    | some J =>
      if J.over.isNone && (([false, true].all (fun x => J.stalled x || nearHeld u J x s)) || s.trust.assists.any (fun a => a.agent == nearAgent u)) then nearEnd u 0x80 s
      else s)

/-- A replay of the hart still needs a unit of a channel (R286). -/
def Hart.needsChannel (H : Hart) (h ch : Nat) (s : State) : Bool :=
  H.loop.st == 3 &&
    (List.range (H.loop.lpn.toNat - H.loop.lpwm.toNat)).any (fun j =>
      H.loop.template.any (fun a =>
        match quietKey (H.loopWho h) (a.addr (H.loop.lpwm.toNat + j)) a.size a.kind s with
        | some l => l.phys && isStackPa l.key && unitAt l.key / 8 == ch
        | none => false))

/-- The replays that use a channel depart with DEP 5 (R273, R286). -/
def departChannel (ch : Nat) (s : State) : State :=
  s.harts.foldl (fun t e =>
    if e.2.needsChannel e.1 ch s then t.setHart e.1 (e.2.depart e.2.loop.lpwm.toNat 5) else t) s

/-- Reset the channel of unit u: its jobs end with code 0x83, but for one that is over, and its units take none (R273, R276,
R402). -/
def resetChannel (u : Nat) (s : State) : State :=
  let ch := u / 8
  let s1 := departChannel ch s
  let s2 := (List.range 8).foldl (fun t i =>
    let U := t.unit (8 * ch + i)
    t.setUnit (8 * ch + i) { U with
      inReset := true
      jobs := U.jobs.map (fun J => { J with loads := [], stores := [], endCode := some (J.over.getD 0x83) }) }) s1
  let (a, s3) := drawWord s2
  logError s3 6 ⟨a.setWidth 56, 7, 0, u, 1, 0⟩

/-- A pending pre-emption request or nb.stop sees no safe point within the limit (R273). -/
def execNbSafePointWatchdog (u : Nat) (s : State) : Out :=
  .next (
    match (s.unit u).running with
    | none => s
    | some J => if J.over.isNone && (J.stop || (s.unit u).holds.contains J.ctx) then resetChannel u s else s)

/-- The reset is over, and the units are available with empty slots (R273). -/
def execChannelResetComplete (u : Nat) (s : State) : Out :=
  .next (
    let us := (List.range 8).map (fun i => u / 8 * 8 + i)
    if us.all (fun v => (s.unit v).jobs.isEmpty) then
      us.foldl (fun t v => if (t.unit v).inReset then t.setUnit v { t.unit v with inReset := false } else t) s
    else s)

/-- A refresh of stack x falls due: it changes only timing (R271). -/
def execDramRefreshDue (_x : Nat) (s : State) : Out := .next s

/-! ## The instructions of the hart (R274 to R278) -/

/-- The descriptor's fields obey their maps (R274, R275). -/
def descOk (d : BitVec 512) : Bool :=
  let f := descField d
  f 248 8 == 0 && f 184 8 == 0 && f 67 29 == 0 && decide (f 64 3 ≤ 5) && f 0 56 % 64 == 0 && f 192 56 % 8 == 0 &&
    decide (f 96 8 ≤ f 56 8) && decide (f 104 8 ≤ f 56 8)

/-- The unit takes a job, or answers all ones; the job's number counts it (R275). -/
def acceptJob (h u : Nat) (d : BitVec 512) (s : State) : Word × State :=
  let U := s.unit u
  if 4 ≤ U.jobs.length ∨ U.inReset ∨ s.reduced then (BitVec.allOnes 64, s)
  else
    let H := s.hart h
    let q := U.seq + 1
    let J : NbJob := {
      desc := d, seq := q, ctx := H.place.lctx.toNat, level := H.plev, hart := h,
      launch := s.orderOf h, ticket := H.position, started := false, parked := false, code := [],
      a := ⟨ScalarRegs.initial, 0, false⟩, x := ⟨ScalarRegs.initial, 0, false⟩, w := Vector.replicate 16 0, fmt := 0,
      flags := 0, loads := [], stores := [], pushed := 0, stop := false, endCode := none }
    (BitVec.ofNat 64 (u * 2 ^ 16 + q.toNat), s.setUnit u { U with jobs := U.jobs ++ [J], seq := q })

/-- The unit of HOME, once its page is checked (R275). -/
def homeUnit (h : Nat) (d : BitVec 512) (s : State) : Res Nat :=
  let va := descField d 128 56
  let t := BitVec.ofNat 64 va
  if spaceOf va ≠ .translated then .trap 0x07 t s
  else
    match translate (s.who h) va 1 .read s with
    | .trap c t1 s1 => .trap c t1 s1
    | .ok x s1 =>
      if !(isStackPa x.pa && pageLocal x.pte) then .trap 0x07 t s1
      else if ebits x.pte 61 1 = 1 then .trap 0x08 t s1
      else .ok (unitAt x.pa) s1

/-- The effect of nb.go, after its waits; its read waits for a copy as a load does (R249, R275). -/
def startNear (h : Nat) (p : Word) (d : BitVec 5) (s : State) : State :=
  if p.toNat % 64 ≠ 0 then scalarTrap h 0x04 p false s
  else if ownStalls h p.toNat 64 .read s then s
  else
    match readAt (s.who h) p.toNat 64 s with
    | .trap c t s1 => scalarTrap h c t false s1
    | .ok v s1 =>
      let desc := BitVec.ofNat 512 v
      if !descOk desc then scalarTrap h 0x07 p false s1
      else
        match homeUnit h desc s1 with
        | .trap c t s2 => scalarTrap h c t false s2
        | .ok u s2 =>
          let (r, s3) := acceptJob h u desc s2
          answer h d r s3

/-- nb.go (R275): a replay of the hart is done first (R285). -/
def execNbGo (x : BitVec 1) (a d : BitVec 5) (s : State) : Out :=
  .next (command (nbGoWord x a d) (fun H =>
      (H.srcS a x).and ((H.dstS d).and ((Gate.until (H.loop.st != 3)).and
        (Gate.until (!H.owes (fun _ => true)))))) s
    (fun h =>
      let s1 := forceLoads h (fun _ => true) s
      startNear h ((s1.hart h).regs.readS a) d s1))

/-- The held job of a handle in a context. -/
def State.heldJob (s : State) (ctx : Nat) (hd : Word) : Option NbJob :=
  if 2 ^ 25 ≤ hd.toNat then none
  else (s.unit (hd.toNat / 2 ^ 16)).jobs.find? (fun J => J.seq.toNat == hd.toNat % 2 ^ 16 && J.ctx == ctx)

/-- The status of a handle in a context: that of one of the unit's 16 most recent jobs (R277). -/
def State.jobStatus (s : State) (ctx : Nat) (hd : Word) : Word :=
  if 2 ^ 25 ≤ hd.toNat ∨ !(s.unit (hd.toNat / 2 ^ 16)).recent (hd.setWidth 16) then BitVec.allOnes 64
  else
    match s.heldJob ctx hd with
    | some J => J.status (if J.started then 1 else 0) 0
    | none =>
      match (s.unit (hd.toNat / 2 ^ 16)).past.find? (fun p => p.1.toNat == hd.toNat % 2 ^ 16) with
      | some p => if p.2.1 = ctx then p.2.2 else BitVec.allOnes 64
      | none => BitVec.allOnes 64

/-- nb.stat (R277). -/
def execNbStat (x : BitVec 1) (a d : BitVec 5) (s : State) : Out :=
  .next (command (nbStatWord x a d) (fun H => (H.srcS a x).and (H.dstS d)) s
    (fun h =>
      let H := s.hart h
      answer h d (s.jobStatus H.place.lctx.toNat (H.regs.readS a)) s))

/-- nb.stop (R278). -/
def execNbStop (x : BitVec 1) (a : BitVec 5) (s : State) : Out :=
  .next (command (nbStopWord x a) (fun H => H.srcS a x) s
    (fun h =>
      let H := s.hart h
      let hd := H.regs.readS a
      let s1 := s.setHart h H.advance
      match s.heldJob H.place.lctx.toNat hd with
      | none => s1
      | some J => if J.over.isSome then s1 else s1.putJob (hd.toNat / 2 ^ 16) J.halt))

end Sys2Proof.Machine
end

