-- ==== Sys2Proof/Machine/Duplicator.lean ====
section
/-!
DEFINITION. The Duplicator: marked loops, the demonstration and its trace, the verdict, the replay, departures and
completion (R279 to R288).
-/
namespace Sys2Proof.Machine

/-! ## The trace of an iteration (R281, R282) -/

/-- What the recorded instructions of an iteration have formed: the tree of each register they wrote (none when it is
formed in a way that R282 does not list), the accesses in order, how many of them are loads, and whether every store's
value is formed as R282 wants. -/
structure IterTrace where
  env   : Assoc (Option Expr)
  acc   : List LoopAccess
  loads : Nat
  ok    : Bool

/-- A register as an operand: what the iteration formed in it, or a leaf (R281). -/
def IterTrace.leaf (T : IterTrace) (isInd : Nat → Bool) (r : Nat) (v : Word) : Option Expr :=
  if r = 0 then some (.val 0)
  else
    match tfind T.env r with
    | some e => e
    | none => some (if isInd r then .ind r else .val v)

/-- A register takes a tree. -/
def IterTrace.put (T : IterTrace) (d : Nat) (e : Option Expr) : IterTrace :=
  if d = 0 then T else { T with env := tput T.env d e }

/-- A two-operand tree. -/
def joinTrees (fn : Nat) (a b : Option Expr) : Option Expr :=
  match a, b with
  | some x, some y => some (.op fn x y)
  | _, _ => none

/-- The tree operation of an int FN that R282 lists. -/
def intTreeOp (fn : Nat) : Option Nat :=
  if fn < 5 then some fn else if 15 ≤ fn ∧ fn ≤ 18 then some (fn - 10) else none

/-- The tree operation of an immediate opcode: addi, andi, ori, xori, slli, srli, srai. -/
def immTreeOp (op : Nat) : Nat :=
  match op with
  | 2 => 0
  | 3 => 2
  | 4 => 3
  | 5 => 4
  | _ => op + 3

/-- A 14-bit immediate in bits 31 to 18, sign-extended; a shift amount of 6 bits. -/
def immValue (op w : Nat) : Word :=
  if op < 6 then BitVec.signExtend 64 (BitVec.ofNat 14 (w / 2 ^ 18)) else BitVec.ofNat 64 (w / 2 ^ 18 % 64)

/-- The size and the signedness of a load opcode (R119). -/
def loadForm (op : Nat) : Nat × Bool :=
  match op with
  | 0x28 => (1, true)
  | 0x29 => (1, false)
  | 0x2A => (2, true)
  | 0x2B => (2, false)
  | 0x2C => (4, true)
  | 0x2D => (4, false)
  | _ => (8, false)

/-- A scalar load's opcode. -/
def isLoadOp (op : Nat) : Bool := decide (0x28 ≤ op) && decide (op ≤ 0x2E)

/-- A scalar store's opcode. -/
def isStoreOp (op : Nat) : Bool := decide (0x30 ≤ op) && decide (op ≤ 0x33)

/-- One more recorded instruction. -/
def IterTrace.add (isInd : Nat → Bool) (T : IterTrace) (r : DemoRec) : IterTrace :=
  let w := r.word.toNat
  let op := w % 128
  let d := w / 128 % 32
  let fn := w / 2 ^ 24
  let a := T.leaf isInd (w / 2 ^ 12 % 32) r.a
  let b := T.leaf isInd (w / 2 ^ 17 % 32) r.b
  if isLoadOp op then
    let A : LoopAccess := ⟨false, r.ea, 0, (loadForm op).1, (loadForm op).2, .val 0⟩
    { T with acc := T.acc ++ [A], loads := T.loads + 1 }.put d (some (.load T.loads))
  else if isStoreOp op then
    match T.leaf isInd d r.c with
    | none => { T with ok := false }
    | some e => { T with acc := T.acc ++ [⟨true, r.ea, 0, 2 ^ (op - 0x30), false, e⟩] }
  else if op = 0x01 then
    T.put d ((intTreeOp fn).bind (fun f => joinTrees f a b))
  else if 2 ≤ op ∧ op ≤ 8 then T.put d (joinTrees (immTreeOp op) a (some (.val (immValue op w))))
  else if op = 0x10 then
    T.put d (if 7 ≤ fn ∧ fn ≤ 9 then joinTrees (fn + 5) a b else none)
  else if op = 0x11 then
    T.put d (match a, b, T.leaf isInd (w / 2 ^ 22 % 32) r.c with
      | some x, some y, some z => if 2 ≤ w / 2 ^ 30 then some (.fma (w / 2 ^ 30 == 3) x y z) else none
      | _, _, _ => none)
  else if op = 0x0B ∨ op = 0x0C ∨ (op = 0x0D ∧ fn ≠ 4) then T
  else T.put d none

/-- The trace of an iteration. -/
def traceOf (isInd : Nat → Bool) (rs : List DemoRec) : IterTrace :=
  rs.foldl (IterTrace.add isInd) ⟨[], [], 0, true⟩

/-- Two accesses are the same ordinal of two iterations: kind, size and tree (R283). -/
def LoopAccess.like (a b : LoopAccess) : Bool :=
  a.store == b.store && a.size == b.size && a.signed == b.signed && a.tree == b.tree

/-- The numbers of a list rise by one step each. -/
def affine : List Word → Bool
  | a :: b :: t => (List.range t.length).all (fun i => t.getD i 0 == b + BitVec.ofNat 64 (i + 1) * (b - a))
  | _ => true

/-- The induction register's values at the start of each iteration and after the last. -/
def MarkedLoop.course (L : MarkedLoop) (r : Nat) : List Word :=
  if hr : r < 32 then L.init[r] :: L.ends.map (fun v => v[r]) else []

/-- The iterations so far fit one template (R282, R283). -/
def MarkedLoop.agrees (L : MarkedLoop) : Bool :=
  match L.iters with
  | [] => true
  | first :: rest =>
    rest.all (fun i => i.length == first.length && (first.zip i).all (fun p => p.1.like p.2)) &&
      (List.range first.length).all (fun j =>
        affine (L.iters.map (fun i => (i[j]?.map (fun a => a.base)).getD 0))) &&
      (List.range 32).all (fun r => !L.isInd r || affine (L.course r))

/-- The template: the accesses of iteration 0 with their steps (R283). -/
def MarkedLoop.fitted (L : MarkedLoop) : List LoopAccess :=
  match L.iters with
  | first :: second :: _ => (first.zip second).map (fun p => { p.1 with step := p.2.base - p.1.base })
  | _ => []

/-- The induction steps. -/
def MarkedLoop.inductionSteps (L : MarkedLoop) : Vector Word 32 :=
  Vector.ofFn (fun r => match L.course r.val with
    | a :: b :: _ => b - a
    | _ => 0)

/-- The bytes of two accesses meet. -/
def bytesMeet (a m b n : Nat) : Bool := decide (a < b + n) && decide (b < a + m)

/-- The iterations from the d-th on are independent: no byte that one writes is read or written by another (R283). -/
def independent (t : List LoopAccess) (d n : Nat) : Bool :=
  (List.range (n - d)).all (fun i => (List.range (n - d)).all (fun j => i == j ||
    t.all (fun a => !a.store || t.all (fun b => !bytesMeet (a.addr (d + i)) a.size (b.addr (d + j)) b.size))))

/-- A near-bank unit is available: its channel is not in reset, and its stack has not failed (R273, R283, R286, R423, R424). -/
def unitReady (u : Nat) (s : State) : Bool :=
  !(s.unit u).inReset && !s.reduced && !s.trust.failed.getLsbD (u / 64)

/-- Every unit that owns an address of iteration i is available; an address that does not translate is left to the
replay (R283, R286). -/
def unitsReady (h i : Nat) (t : List LoopAccess) (s : State) : Bool :=
  t.all (fun a =>
    match quietKey (s.who h) (a.addr i) a.size a.kind s with
    | some l => !(l.phys && isStackPa l.key) || unitReady (unitAt l.key) s
    | none => true)

/-! ## What the hart executes in a demonstration (R281, R282) -/

/-- The demonstration ends with DEP 6: the loop is not capturable (R281, R282). -/
def Hart.notCapturable (H : Hart) : Hart := H.breachDemo 6

/-- The instructions that an iteration may hold: the computing families and crd, scalar loads and stores. Anything else
has an effect that a replay would not repeat (R282; assumption 25, DEDUCED for the system families). -/
def inBody (op : Nat) : Bool := (decide (1 ≤ op) && decide (op ≤ 0x11)) || isLoadOp op || isStoreOp op || op == 0x38

/-- A page that a replay may act on (R282). -/
def replayable (l : Loc) : Bool := l.phys && isStackPa l.key && l.near && l.slot == 0 && !l.retire && !l.host && !l.uncached

/-- The record of an instruction that the hart executes at pc. -/
def Hart.demoRec (H : Hart) (w : Nat) : DemoRec :=
  let reg (lo : Nat) : Word := H.regs.readS (BitVec.ofNat 5 (w / 2 ^ lo))
  let op := w % 128
  let size := if isLoadOp op then (loadForm op).1 else 2 ^ (op - 0x30)
  let ea := reg 12 + BitVec.ofNat 64 size * BitVec.signExtend 64 (BitVec.ofNat 10 (w / 2 ^ 22))
  ⟨BitVec.ofNat 32 w, if isLoadOp op || isStoreOp op then ea else 0, reg 12, reg 17,
    if op = 0x11 then reg 22 else reg 7⟩

/-- The address of a recorded load or store is one that a replay may act on. -/
def demoPage (h : Nat) (r : DemoRec) (s : State) : Bool :=
  let op := r.word.toNat % 128
  if isLoadOp op || isStoreOp op then
    let size := if isLoadOp op then (loadForm op).1 else 2 ^ (op - 0x30)
    match quietKey (s.who h) r.ea.toNat size (if isStoreOp op then .write else .read) s with
    | some l => replayable l
    | none => false
  else true

/-- Record an executed instruction of an iteration, or end the demonstration at its first breach (R282). -/
def Hart.record (H : Hart) (old : Hart) (h w : Nat) (s : State) : Hart :=
  let r := old.demoRec w
  let cur := H.loop.cur ++ [r]
  let T := traceOf H.loop.isInd cur
  if inBody (w % 128) && old.frm != 4 && demoPage h r s && T.ok && decide (T.acc.length ≤ 16) then
    { H with loop := { H.loop with cur := cur } }
  else H.notCapturable

/-- What the hart has just executed at pc, in a demonstration: s is the state before, t the state after (R281). -/
def noteDemo (h w : Nat) (s t : State) : State :=
  let old := s.hart h
  let H := t.hart h
  if old.loop.st ≠ 1 ∨ H.loop.st ≠ 1 ∨ H.pc = old.pc ∨ (w % 128 = 0x55 ∧ w / 2 ^ 24 < 3) then t
  else if old.loop.between && old.pc != old.loop.lpre then
    if w % 128 = 0x20 then t else t.setHart h H.notCapturable
  else t.setHart h ({ H with loop := { H.loop with between := false } }.record old h w s)

/-! ## The instructions (R280, R281, R288) -/

/-- A dup command that may run although a departure could still cancel it: it changes nothing but the loop and its
destination. -/
def loopCommand (word : Nat) (gate : Hart → Gate) (s : State) (k : Nat → State) : State :=
  onScalar word s (fun h =>
    let H := s.hart h
    gated h ((Gate.until H.checks.isEmpty).and (gate H)) s (k h))

/-- The request is not capturable (R280). -/
def badRequest (n c : Word) : Bool :=
  let d := bits c 0 4
  d == 1 || decide (8 < d) || bits c 4 28 != 0 || decide (4 < ((List.range 32).filter (fun r => c.getLsbD (32 + r))).length) ||
    c.getLsbD 32 || decide (n.toNat ≤ (if d = 0 then 3 else d)) || decide (2 ^ 40 ≤ n.toNat)

/-- The loop as lp.mark opens it (R280, R423). -/
def Hart.openLoop (H : Hart) (n c : Word) (reduced : Bool) : MarkedLoop :=
  let d := if bits c 0 4 = 0 then 3 else bits c 0 4
  let low := if badRequest n c then 2 + 6 * 2 ^ 8 else if reduced then 2 + 5 * 2 ^ 8 else 1
  { MarkedLoop.initial with
    lpi := 0
    lpn := n
    lpre := H.pc + 4
    lpwm := H.loop.lpwm
    lpst := BitVec.ofNat 64 (bits c 32 32 * 2 ^ 32 + d * 2 ^ 12 + low)
    init := H.regs.s }

/-- The named registers are full. -/
def Hart.fullMask (H : Hart) (m : Nat) : Bool :=
  (List.range 32).all (fun r => m / 2 ^ r % 2 == 0 || !H.regs.isEmptyS (BitVec.ofNat 5 r))

/-- lp.mark (R280): it waits in ST 3 (R279). -/
def execLpMark (y x : BitVec 1) (b a : BitVec 5) (s : State) : Out :=
  .next (command (lpMarkWord y x b a) (fun H =>
      (H.srcS a x).and ((H.srcS b y).and ((Gate.until (H.loop.st != 3)).and
        (Gate.until (H.fullMask (bits (H.regs.readS b) 32 32)))))) s
    (fun h =>
      let H := s.hart h
      s.setHart h { H.dropVerdict with loop := H.openLoop (H.regs.readS a) (H.regs.readS b) s.reduced }.advance))

/-- One more iteration in lpi. -/
def MarkedLoop.count (L : MarkedLoop) : MarkedLoop := { L with lpi := L.lpi + 1 }

/-- An lp.iter in ST 1 at the end of an iteration: it joins the others, and the d-th awaits the verdict (R281). -/
def Hart.endIteration (H : Hart) (k : BitVec 3) : Hart :=
  let L := { H.loop.count with
    iters := H.loop.iters ++ [(traceOf H.loop.isInd H.loop.cur).acc]
    ends := H.loop.ends ++ [H.regs.s]
    cur := []
    between := true }
  if !L.agrees then { H with loop := L.breach 6 }.putK k false
  else if L.iters.length = L.len then { H with loop := { L with verdict := some k } }.markK k
  else { H with loop := L }.putK k false

/-- The effect of lp.iter (R281). -/
def Hart.iterate (H : Hart) (k : BitVec 3) : Hart :=
  if H.loop.st = 1 then
    if H.loop.between && H.pc != H.loop.lpre then { H.notCapturable with loop := (H.loop.breach 6).count }.putK k false
    else H.endIteration k
  else if H.loop.st = 2 then { H with loop := H.loop.count }.putK k false
  else H.putK k false

/-- lp.iter: it waits for the induction registers, but not in ST 3 (R281). -/
def execLpIter (k : BitVec 3) (s : State) : Out :=
  .next (loopCommand (lpIterWord k) (fun H =>
      (H.dstK k).and (Gate.until (H.loop.st == 3 || H.fullMask (bits H.loop.lpst 32 32)))) s
    (fun h => s.setHart h ((s.hart h).iterate k).advance))

/-- The effect of lp.end (R288). -/
def Hart.closeLoop (H : Hart) (d : BitVec 5) : Hart :=
  if H.loop.st = 3 then { H with loop := { H.loop with endDst := some d } }.markS d
  else
    { H.dropVerdict with loop := { H.loop.setSt 0 with verdict := none } }.putS d 0

/-- lp.end (R288). -/
def execLpEnd (d : BitVec 5) (s : State) : Out :=
  .next (loopCommand (lpEndWord d) (fun H => (H.dstS d).and (Gate.until (H.loop.st != 3 || H.loop.endDst.isNone))) s
    (fun h => s.setHart h ((s.hart h).closeLoop d).advance))

/-- lp.stat (R288). -/
def execLpStat (d : BitVec 5) (s : State) : Out :=
  .next (loopCommand (lpStatWord d) (fun H => H.dstS d) s (fun h => answer h d (s.hart h).loop.lpst s))

/-! ## The verdict (R283) -/

/-- The tracers' verdict: 0 for a confirmed template, or the DEP of the fall-back. Of conditions that fail together the first
decides, then the second, then the third (R283; assumption 79, DESIGN CHOICE). -/
def judge (h : Nat) (s : State) : Nat :=
  let L := (s.hart h).loop
  if !L.agrees ∨ (s.hart h).frm = 4 then 6
  else if !independent L.fitted L.len L.lpn.toNat then 7
  else if !unitsReady h L.len L.fitted s then 5
  else 0

/-- The confirmation of a template (R283, R410). -/
def Hart.confirm (H : Hart) (k : BitVec 3) : Hart :=
  let L := { H.loop with steps := H.loop.inductionSteps }
  let n := L.lpn.toNat
  let H1 := (List.range 32).foldl (fun G r =>
    if L.isInd r then G.fillS none (BitVec.ofNat 5 r) (L.indAt n r) else G) H
  let H2 := H1.fillK k true
  let R := match H2.checks with
    | [] => H2.regs
    | c :: _ => c.regs
  { H2 with
    loop := { (L.setSt 3).setDep 0 with
      lpi := L.lpn, lpwm := BitVec.ofNat 64 L.len, verdict := none, template := L.fitted, frm := H.frm,
      level := H.plev, conf := R, confId := H.nextId, confTr := H.obs.trNum, fflags := 0, endDst := none, cur := [], iters := [],
      ends := [] } }.traceFirm 6 L.lpre 0 0

/-- The tracers' verdict returns, after the accesses of the iterations have been performed; a confirmation finds every other register
full (R281, R283). -/
def execTemplateVerdict (h : Nat) (s0 : State) : Out :=
  .next (
    let s := forceAll h s0
    let H := s.hart h
    match H.loop.verdict with
    | none => s0
    | some k =>
      if H.loop.st ≠ 1 then s0
      else if judge h s = 0 then (if H.onlyVerdict k then s.setHart h (H.confirm k) else s0)
      else s.setHart h ({ H with loop := H.loop.breach (judge h s) }.fillK k false))

/-! ## The replay (R284 to R286) -/

/-- The checks of one access of a replayed iteration: where it lies, or the DEP of the departure as the cause of a trap, with
the state that the check leaves (R268, R286, R355). -/
def checkReplay (w : Who) (a : LoopAccess) (i : Nat) (s : State) : Res Nat :=
  let va := a.addr i
  if spaceOf va ≠ .translated then .trap 3 0 s
  else
    match translate w va a.size a.kind s with
    | .trap _ _ s1 => .trap 2 0 s1
    | .ok x s1 =>
      if !(isStackPa x.pa && pageLocal x.pte) || ebits x.pte 61 1 == 1 then .trap 3 0 s1
      else if !unitReady (unitAt x.pa) s1 then .trap 5 0 s1
      else if !a.store && poisoned s1.mm true x.pa a.size then .trap 2 0 s1
      else .ok x.pa s1

/-- The checks of an iteration, before anything of it is performed. -/
def checkIteration (w : Who) (i : Nat) : List LoopAccess → State → Res (List (LoopAccess × Nat))
  | [], s => .ok [] s
  | a :: t, s =>
    match checkReplay w a i s with
    | .trap d v s1 => .trap d v s1
    | .ok k s1 =>
      match checkIteration w i t s1 with
      | .trap d v s2 => .trap d v s2
      | .ok r s2 => .ok ((a, k) :: r) s2

/-- A granule or a part of one is written in the banks: its line leaves the caches first (R268). -/
def bankWrite (h pa n v : Nat) (s : State) : State :=
  let s1 := dropLine (pa / 64) (departConflicts (some h) pa n true s)
  s1.setMem (memWrite s1.mm none pa n v)

/-- Perform the accesses of iteration i in order; loads so far, flags so far (R284). -/
def performAccesses (h i : Nat) (rd : Rounding) : List (LoopAccess × Nat) → List Word → FFlags → State → FFlags × State
  | [], _, f, s => (f, s)
  | (a, k) :: t, loads, f, s =>
    if a.store then
      let (v, g) := evalTree rd loads ((s.hart h).loop.indAt i) a.tree
      performAccesses h i rd t loads (f.or g) (bankWrite h k a.size (v.toNat % 256 ^ a.size) s)
    else
      let s1 := readLines k a.size 0 (departConflicts (some h) k a.size false s)
      performAccesses h i rd t (loads ++ [extendLoad a.size a.signed (memRead s1.mm none k a.size)]) f s1

/-- The cause for which the replay departs before its next iteration, if there is one; otherwise the checked accesses
(R286). -/
def nextIteration (h : Nat) (s : State) : Res (List (LoopAccess × Nat)) :=
  let H := s.hart h
  if H.trap.prq then .trap 4 0 s else checkIteration (H.loopWho h) H.loop.lpwm.toNat H.loop.template s

/-- The owning units perform the next iteration, or the replay departs there (R284, R286). -/
def replayIteration (h : Nat) (s : State) : State :=
  let H := s.hart h
  if H.loop.st ≠ 3 ∨ H.loop.lpn.toNat ≤ H.loop.lpwm.toNat then s
  else
    match nextIteration h s with
    | .trap d _ s1 => s1.setHart h ((s1.hart h).depart H.loop.lpwm.toNat d)
    | .ok t s1 =>
      let (f, s2) := performAccesses h H.loop.lpwm.toNat ⟨H.loop.frm.toNat, 0, false, false⟩ t [] FFlags.none s1
      let G := s2.hart h
      s2.setHart h { G with loop := { G.loop with lpwm := G.loop.lpwm + 1, fflags := G.loop.fflags ||| f.fst } }

/-- The owning units perform a replayed iteration and lpwm advances (R284). -/
def execReplayIteration (h : Nat) (s : State) : Out := .next (replayIteration h s)

/-- A departure whose cause holds at the next iteration (R286). Departures of cause 1 happen in the conflicting access
itself. -/
def execReplayDeparture (h d : Nat) (s : State) : Out :=
  .next (
    let H := s.hart h
    if H.loop.st ≠ 3 ∨ H.loop.lpn.toNat ≤ H.loop.lpwm.toNat then s
    else
      match nextIteration h s with
      | .trap e _ s1 => if e = d then s1.setHart h ((s1.hart h).depart H.loop.lpwm.toNat d) else s
      | .ok _ _ => s)

/-- Every replayed store is performed, and lp.end's destination becomes 1 (R284, R288). -/
def execReplayComplete (h : Nat) (s : State) : Out :=
  .next (
    let H := s.hart h
    match H.loop.endDst with
    | none => s
    | some d =>
      if H.loop.st ≠ 3 ∨ H.loop.lpwm.toNat < H.loop.lpn.toNat then s
      else
        let H1 := { H with loop := { H.loop.setSt 0 with endDst := none, fflags := 0 } }.fillS none d 1
        s.setHart h { H1 with
          regs := { H1.regs with fst := H1.regs.fst ||| H.loop.fflags }
          checks := H1.checks.map (Checkpoint.orFlags H.loop.fflags) })

end Sys2Proof.Machine
end

