-- ==== Sys2Proof/Machine/FloatScalar.lean ====
section
/-!
DEFINITION. The scalar floating-point instructions and compares (R100, R112, R114 to R116).
-/
namespace Sys2Proof.Machine

/-! ## Shapes -/

/-- The rounding of a scalar floating-point instruction: frm.RM, and the random bits of RSR (R36, R115, R136). -/
def Hart.rounding (H : Hart) : Rounding := ⟨H.frm.toNat, (limlor H.srkey H.regs.srctr).toNat % 2 ^ 32, false, false⟩

/-- Under RSR the instruction advances srctr, so it waits until the vector queue is done (R104, R115). -/
def Hart.rsrGate (H : Hart) : Gate := if H.frm = 4 then Gate.until H.vectorIdle else .go

/-- Deliver a floating-point or converted result: s[d], the sticky flags, and srctr under RSR; its entry of the replay queue holds
all of them (R115, R396). -/
def Hart.putF (H : Hart) (d : BitVec 5) (v : Word) (f : FFlags) : Hart :=
  let R := (H.regs.writeS d v).raise f
  { H with regs :=
    (if H.frm = 4 then { R with srctr := R.srctr + 1 } else R).note ([d.toNat, 49] ++ (if H.frm = 4 then [51] else [])) }

/-- Deliver a compare: k[k], and NV when it signals (R112, R396). -/
def Hart.putCmp (H : Hart) (k : BitVec 3) (b nv : Bool) : Hart :=
  { H with regs := ((H.regs.writeK k b).raise { FFlags.none with nv := nv }).note [32 + k.toNat, 49] }

/-- A two-source floating-point instruction. -/
def fpRR (word : Nat) (y x : BitVec 1) (b a d : BitVec 5) (f : Rounding → Word → Word → Word × FFlags) (s : State) :
    State :=
  onScalar word s (fun h =>
    let H := s.hart h
    let r := f H.rounding (H.regs.readS a) (H.regs.readS b)
    gated h ((H.srcS a x).and ((H.srcS b y).and ((H.dstS d).and H.rsrGate))) s
      (s.setHart h (H.putF d r.1 r.2).advance))

/-- A one-source floating-point instruction. -/
def fpR (word : Nat) (x : BitVec 1) (a d : BitVec 5) (f : Rounding → Word → Word × FFlags) (s : State) : State :=
  onScalar word s (fun h =>
    let H := s.hart h
    let r := f H.rounding (H.regs.readS a)
    gated h ((H.srcS a x).and ((H.dstS d).and H.rsrGate)) s (s.setHart h (H.putF d r.1 r.2).advance))

/-- A fused multiply-add: its sources always wait (R16, R116). -/
def fpRRR (word : Nat) (c b a d : BitVec 5) (f : Rounding → Word → Word → Word → Word × FFlags) (s : State) : State :=
  onScalar word s (fun h =>
    let H := s.hart h
    let r := f H.rounding (H.regs.readS a) (H.regs.readS b) (H.regs.readS c)
    gated h ((H.srcS a 1).and ((H.srcS b 1).and ((H.srcS c 1).and ((H.dstS d).and H.rsrGate)))) s
      (s.setHart h (H.putF d r.1 r.2).advance))

/-- A floating-point compare: k[k], and NV when it signals (R112). -/
def fpCmp (word : Nat) (y x : BitVec 1) (b a : BitVec 5) (k : BitVec 3) (f : Word → Word → Bool × Bool) (s : State) :
    State :=
  onScalar word s (fun h =>
    let H := s.hart h
    let r := f (H.regs.readS a) (H.regs.readS b)
    gated h ((H.srcS a x).and ((H.srcS b y).and (H.dstK k))) s (s.setHart h (H.putCmp k r.1 r.2).advance))

/-- A result in f64. -/
def outD (r : Nat × FFlags) : Word × FFlags := (BitVec.ofNat 64 r.1, r.2)

/-- A result in f32, with bits [63:32] zero (R98). -/
def outS (r : Nat × FFlags) : Word × FFlags := (f32Word r.1, r.2)

/-! ## fp (R114, R115) -/

def execFaddD (y x : BitVec 1) (b a d : BitVec 5) (s : State) : Out :=
  .next (fpRR (faddDWord y x b a d) y x b a d (fun r u v => outD (faddBits fmtF64 r u.toNat v.toNat)) s)
def execFsubD (y x : BitVec 1) (b a d : BitVec 5) (s : State) : Out :=
  .next (fpRR (fsubDWord y x b a d) y x b a d (fun r u v => outD (fsubBits fmtF64 r u.toNat v.toNat)) s)
def execFmulD (y x : BitVec 1) (b a d : BitVec 5) (s : State) : Out :=
  .next (fpRR (fmulDWord y x b a d) y x b a d (fun r u v => outD (fmulBits fmtF64 r u.toNat v.toNat)) s)
def execFdivD (y x : BitVec 1) (b a d : BitVec 5) (s : State) : Out :=
  .next (fpRR (fdivDWord y x b a d) y x b a d (fun r u v => outD (fdivBits fmtF64 r u.toNat v.toNat)) s)
def execFsqrtD (x : BitVec 1) (a d : BitVec 5) (s : State) : Out :=
  .next (fpR (fsqrtDWord x a d) x a d (fun r u => outD (fsqrtBits fmtF64 r u.toNat)) s)
def execFminD (y x : BitVec 1) (b a d : BitVec 5) (s : State) : Out :=
  .next (fpRR (fminDWord y x b a d) y x b a d (fun _ u v => outD (minMaxNum fmtF64 false u.toNat v.toNat)) s)
def execFmaxD (y x : BitVec 1) (b a d : BitVec 5) (s : State) : Out :=
  .next (fpRR (fmaxDWord y x b a d) y x b a d (fun _ u v => outD (minMaxNum fmtF64 true u.toNat v.toNat)) s)
def execFaddS (y x : BitVec 1) (b a d : BitVec 5) (s : State) : Out :=
  .next (fpRR (faddSWord y x b a d) y x b a d (fun r u v => outS (faddBits fmtF32 r (f32Of u) (f32Of v))) s)
def execFsubS (y x : BitVec 1) (b a d : BitVec 5) (s : State) : Out :=
  .next (fpRR (fsubSWord y x b a d) y x b a d (fun r u v => outS (fsubBits fmtF32 r (f32Of u) (f32Of v))) s)
def execFmulS (y x : BitVec 1) (b a d : BitVec 5) (s : State) : Out :=
  .next (fpRR (fmulSWord y x b a d) y x b a d (fun r u v => outS (fmulBits fmtF32 r (f32Of u) (f32Of v))) s)
def execFdivS (y x : BitVec 1) (b a d : BitVec 5) (s : State) : Out :=
  .next (fpRR (fdivSWord y x b a d) y x b a d (fun r u v => outS (fdivBits fmtF32 r (f32Of u) (f32Of v))) s)
def execFsqrtS (x : BitVec 1) (a d : BitVec 5) (s : State) : Out :=
  .next (fpR (fsqrtSWord x a d) x a d (fun r u => outS (fsqrtBits fmtF32 r (f32Of u))) s)
def execFminS (y x : BitVec 1) (b a d : BitVec 5) (s : State) : Out :=
  .next (fpRR (fminSWord y x b a d) y x b a d (fun _ u v => outS (minMaxNum fmtF32 false (f32Of u) (f32Of v))) s)
def execFmaxS (y x : BitVec 1) (b a d : BitVec 5) (s : State) : Out :=
  .next (fpRR (fmaxSWord y x b a d) y x b a d (fun _ u v => outS (minMaxNum fmtF32 true (f32Of u) (f32Of v))) s)
def execCvtDL (x : BitVec 1) (a d : BitVec 5) (s : State) : Out :=
  .next (fpR (cvtDLWord x a d) x a d (fun r u => outD (intToFloat fmtF64 r u.toInt)) s)
def execCvtLD (x : BitVec 1) (a d : BitVec 5) (s : State) : Out :=
  .next (fpR (cvtLDWord x a d) x a d (fun r u => outD (floatToInt 64 true r (unpack fmtF64 u.toNat))) s)
def execCvtSL (x : BitVec 1) (a d : BitVec 5) (s : State) : Out :=
  .next (fpR (cvtSLWord x a d) x a d (fun r u => outS (intToFloat fmtF32 r u.toInt)) s)
def execCvtLS (x : BitVec 1) (a d : BitVec 5) (s : State) : Out :=
  .next (fpR (cvtLSWord x a d) x a d (fun r u => outD (floatToInt 64 true r (unpack fmtF32 (f32Of u)))) s)
def execCvtDS (x : BitVec 1) (a d : BitVec 5) (s : State) : Out :=
  .next (fpR (cvtDSWord x a d) x a d (fun r u => outD (convertNum fmtF64 r (unpack fmtF32 (f32Of u)))) s)
def execCvtSD (x : BitVec 1) (a d : BitVec 5) (s : State) : Out :=
  .next (fpR (cvtSDWord x a d) x a d (fun r u => outS (convertNum fmtF32 r (unpack fmtF64 u.toNat))) s)

/-! ## Scalar fma (R116) -/

def execFmaddD (c b a d : BitVec 5) (s : State) : Out :=
  .next (fpRRR (fmaddDWord c b a d) c b a d (fun r u v w => outD (fmaddBits fmtF64 r u.toNat v.toNat w.toNat)) s)
def execFmsubD (c b a d : BitVec 5) (s : State) : Out :=
  .next (fpRRR (fmsubDWord c b a d) c b a d (fun r u v w => outD (fmsubBits fmtF64 r u.toNat v.toNat w.toNat)) s)
def execFmaddS (c b a d : BitVec 5) (s : State) : Out :=
  .next (fpRRR (fmaddSWord c b a d) c b a d (fun r u v w => outS (fmaddBits fmtF32 r (f32Of u) (f32Of v) (f32Of w))) s)
def execFmsubS (c b a d : BitVec 5) (s : State) : Out :=
  .next (fpRRR (fmsubSWord c b a d) c b a d (fun r u v w => outS (fmsubBits fmtF32 r (f32Of u) (f32Of v) (f32Of w))) s)

/-! ## Floating-point compares (R112) -/

def execFeqD (y x : BitVec 1) (b a : BitVec 5) (k : BitVec 3) (s : State) : Out :=
  .next (fpCmp (feqDWord y x b a k) y x b a k (fun u v => fcmp fmtF64 .eq u.toNat v.toNat) s)
def execFltD (y x : BitVec 1) (b a : BitVec 5) (k : BitVec 3) (s : State) : Out :=
  .next (fpCmp (fltDWord y x b a k) y x b a k (fun u v => fcmp fmtF64 .lt u.toNat v.toNat) s)
def execFleD (y x : BitVec 1) (b a : BitVec 5) (k : BitVec 3) (s : State) : Out :=
  .next (fpCmp (fleDWord y x b a k) y x b a k (fun u v => fcmp fmtF64 .le u.toNat v.toNat) s)
def execFunD (y x : BitVec 1) (b a : BitVec 5) (k : BitVec 3) (s : State) : Out :=
  .next (fpCmp (funDWord y x b a k) y x b a k (fun u v => fcmp fmtF64 .un u.toNat v.toNat) s)
def execFeqS (y x : BitVec 1) (b a : BitVec 5) (k : BitVec 3) (s : State) : Out :=
  .next (fpCmp (feqSWord y x b a k) y x b a k (fun u v => fcmp fmtF32 .eq (f32Of u) (f32Of v)) s)
def execFltS (y x : BitVec 1) (b a : BitVec 5) (k : BitVec 3) (s : State) : Out :=
  .next (fpCmp (fltSWord y x b a k) y x b a k (fun u v => fcmp fmtF32 .lt (f32Of u) (f32Of v)) s)
def execFleS (y x : BitVec 1) (b a : BitVec 5) (k : BitVec 3) (s : State) : Out :=
  .next (fpCmp (fleSWord y x b a k) y x b a k (fun u v => fcmp fmtF32 .le (f32Of u) (f32Of v)) s)
def execFunS (y x : BitVec 1) (b a : BitVec 5) (k : BitVec 3) (s : State) : Out :=
  .next (fpCmp (funSWord y x b a k) y x b a k (fun u v => fcmp fmtF32 .un (f32Of u) (f32Of v)) s)

end Sys2Proof.Machine
end

