-- ==== Sys2Proof/Machine/Launch.lean ====
section
/-!
DEFINITION. The launch unit: its queues, the checks of a record, placement, the start of the harts, go and gq (R75 to
R93, R422).
-/
namespace Sys2Proof.Machine

/-! ## Queues (R78 to R81) -/

/-- A queue. -/
def State.queueAt (s : State) (n : Nat) : LaunchQueue := if hn : n < 64 then s.launch.queues[n] else LaunchQueue.initial

/-- Replace a queue. -/
def State.setQueue (s : State) (n : Nat) (Q : LaunchQueue) : State :=
  if hn : n < 64 then { s with launch := { s.launch with queues := s.launch.queues.set n Q } } else s

/-- lqcfg.EN. -/
def LaunchQueue.en (Q : LaunchQueue) : Bool := Q.cfg.getLsbD 15

/-- lqcfg.HOST. -/
def LaunchQueue.host (Q : LaunchQueue) : Bool := Q.cfg.getLsbD 16

/-- lqcfg.CTX. -/
def LaunchQueue.ctx (Q : LaunchQueue) : Nat := bits Q.cfg 20 12

/-- LQSTAT.SEQ (R80). -/
def LaunchQueue.seq (Q : LaunchQueue) : BitVec 16 := BitVec.ofNat 16 Q.total

/-- lqcfg.PMAX. -/
def LaunchQueue.pmax (Q : LaunchQueue) : Nat := bits Q.cfg 17 3

/-- LQSTAT (R80). -/
def LaunchQueue.stat (Q : LaunchQueue) : Word :=
  BitVec.ofNat 64 (Q.seq.toNat * 2 ^ 24 + Q.refcode.toNat * 2 ^ 20 + (if Q.ovf then 2 ^ 19 else 0) +
    (if Q.en then 2 ^ 18 else 0) + (if Q.host then 2 ^ 17 else 0) + Q.entries.length)

/-- Accept a record (R80, R81, R82). -/
def LaunchQueue.accept (Q : LaunchQueue) (e : QueuedRecord) : LaunchQueue :=
  { Q with entries := Q.entries ++ [{ e with num := Q.total }], total := Q.total + 1 }

/-- A host doorbell (R81). -/
def execLaunchDoorbell (l : Nat) (v : Word) (s : State) : Out :=
  .next (
    let Q := s.queueAt l
    if Q.host && Q.en && decide (Q.entries.length < 32) then
      s.setQueue l (Q.accept
        { addr := v, captured := none, read := none, ctx := 0, level := 1, bad := false, checked := false, asked := false,
          clusters := none, pipe := none, within := none, num := 0 })
    else s.setQueue l { Q with ovf := true })

/-- A write of DBSTAT (R81). -/
def execDbstatWrite (l : Nat) (v : Word) (s : State) : Out :=
  .next (if v.getLsbD 19 then s.setQueue l { s.queueAt l with ovf := false } else s)

/-! ## The record and what it names (R75 to R77) -/

/-- An address that the launch unit can reach: translated memory or the chip scratchpad window (R75). -/
def unitReaches (a : Nat) : Bool := spaceOf a == .translated || spaceOf a == .chip

/-- Who the launch unit acts as: no core, a context, the level of the record (R75, R81). -/
def unitWho (ctx : Nat) (level : BitVec 2) : Who := ⟨0, ctx, level, none, .engine⟩

/-- Read n bytes from an address, one at a time; none when a read faults or meets poison. The launch unit has no window but
the chip scratchpad (R75). -/
def readBytes (w : Who) (a : Nat) : Nat → State → Option (List Byte) × State
  | 0, s => (some [], s)
  | n + 1, s =>
    if !unitReaches a then (none, s)
    else
      match readAt w a 1 s with
      | .trap _ _ s1 => (none, s1)
      | .ok v s1 =>
        match readBytes w (a + 1) n s1 with
        | (none, s2) => (none, s2)
        | (some t, s2) => (some (BitVec.ofNat 8 v :: t), s2)

/-- A list of bytes as a number, the first least significant (R3). -/
def bytesToNat : List Byte → Nat
  | [] => 0
  | b :: t => b.toNat + 256 * bytesToNat t

/-- The reserved fields of a record are zero (R75). -/
def recordZero (r : BitVec 512) : Bool :=
  [(504, 8), (432, 16), (412, 4), (379, 5), (252, 4), (115, 1), (106, 2), (56, 8)].all (fun p => bits r p.1 p.2 == 0)

/-- The fields of a record obey R75 and R76. -/
def recordOk (r : BitVec 512) : Bool :=
  let f := bits r
  recordZero r && decide (f 376 3 ≤ 5) && f 448 56 % 64 == 0 && f 320 56 % 8 == 0 && f 192 56 % 8 == 0 &&
    f 128 56 % 128 == 0 && f 0 56 % 64 == 0 && f 64 32 % 4 == 0 && decide (f 64 32 < 2 ^ 21) &&
    decide (f 384 20 + (f 104 2 + 1) * f 404 8 * 2112 ≤ 2 ^ 20) && spaceOf (f 0 56) == .translated &&
    [f 128 56, f 192 56, f 448 56, f 320 56].all (fun a => a == 0 || unitReaches a)

/-- The arrival word of a refused record may be written (R78). -/
def arrivalOk (r : BitVec 512) : Bool :=
  bits r 320 56 != 0 && bits r 320 56 % 8 == 0 && unitReaches (bits r 320 56)

/-- The image descriptor (R77): three images of a source, a size and an offset, and the patch list. -/
structure ImageDesc where
  images : List (Nat × Nat × Nat)
  patch  : Nat
  items  : Nat
  spare  : Nat

/-- Read a descriptor out of its 64 bytes. -/
def ImageDesc.ofBytes (d : List Byte) : ImageDesc :=
  let field (o n : Nat) : Nat := bytesToNat ((d.drop o).take n)
  ⟨(List.range 3).map (fun i => (field (16 * i) 8, field (16 * i + 8) 4, field (16 * i + 12) 4)), field 48 8, field 56 4,
    field 60 4⟩

/-- The size of the window that image i goes to. -/
def imageWindow (i : Nat) : Nat := if i = 0 then 2 ^ 18 else if i = 1 then 2 ^ 20 else 2 ^ 22

/-- A descriptor obeys R75 and R77: its addresses too where a size or a count is 0. -/
def ImageDesc.ok (D : ImageDesc) : Bool :=
  D.spare == 0 && D.patch % 8 == 0 && unitReaches D.patch &&
    (List.range 3).all (fun i =>
      match D.images[i]? with
      | some (a, n, o) => unitReaches a && (n == 0 || decide (o + n ≤ imageWindow i))
      | none => true)

/-- The items of the patch list as read. -/
def patchItems (d : List Byte) (n : Nat) : List Nat := (List.range n).map (fun i => bytesToNat ((d.drop (8 * i)).take 8))

/-- What the launch unit has read for a record: the descriptor, the patch list, the groups, the slots; whether a read
failed, and whether an address or size breaks R75 or R77. -/
structure Named where
  desc    : Option ImageDesc
  patches : List Nat
  groups  : List (BitVec 1024)
  slots   : List (BitVec 64)
  fault   : Bool
  bad     : Bool

/-- The entry word of the code image can be fetched (R78, R429). The record gives the image no extent, so the word at the entry
point is all that is tested (assumption 65, DESIGN CHOICE). -/
def codeReadable (w : Who) (r : BitVec 512) (s : State) : Bool × State :=
  match accessBy w (bits r 0 56 + bits r 64 32) 4 .fetch s with
  | .trap _ _ s1 => (false, s1)
  | .ok l s1 => (!poisonedLoc l s1, s1)

/-- Read the groups and slots of a record. -/
def readTables (w : Who) (r : BitVec 512) (s : State) : Option (List (BitVec 1024) × List (BitVec 64)) × State :=
  let ng := if bits r 128 56 = 0 then 0 else bits r 184 8 + 1
  let ns := if bits r 192 56 = 0 then 0 else bits r 248 4 + 1
  match readBytes w (bits r 128 56) (128 * ng) s with
  | (none, s1) => (none, s1)
  | (some g, s1) =>
    match readBytes w (bits r 192 56) (8 * ns) s1 with
    | (none, s2) => (none, s2)
    | (some t, s2) =>
      (some ((List.range ng).map (fun i => BitVec.ofNat 1024 (bytesToNat ((g.drop (128 * i)).take 128))),
        (List.range ns).map (fun i => BitVec.ofNat 64 (bytesToNat ((t.drop (8 * i)).take 8)))), s2)

/-- Whether n bytes can be read from each of some places. -/
def allReadable (w : Who) : List (Nat × Nat) → State → Bool × State
  | [], s => (true, s)
  | (a, n) :: t, s =>
    match readBytes w a n s with
    | (none, s1) => (false, s1)
    | (some _, s1) => allReadable w t s1

/-- Whether each of some halfwords can be written. What the replacement of R77 must be permitted is not said: it needs write
permission, and neither read permission nor a halfword without poison (assumption 79, DESIGN CHOICE). -/
def allWritable (w : Who) : List Nat → State → Bool × State
  | [], s => (true, s)
  | a :: t, s =>
    match accessBy w a 2 .write s with
    | .trap _ _ s1 => (false, s1)
    | .ok _ s1 => allWritable w t s1

/-- The images of a record: the descriptor, its patch list, and whether everything can be read and patched. -/
def readImages (w : Who) (r : BitVec 512) (s : State) : Named × State :=
  let none' : Named := ⟨none, [], [], [], false, false⟩
  if bits r 448 56 = 0 then (none', s)
  else
    match readBytes w (bits r 448 56) 64 s with
    | (none, s1) => ({ none' with fault := true }, s1)
    | (some d, s1) =>
      let D := ImageDesc.ofBytes d
      if !D.ok then ({ none' with bad := true }, s1)
      else
        match readBytes w D.patch (8 * D.items) s1 with
        | (none, s2) => ({ none' with desc := some D, fault := true }, s2)
        | (some p, s2) =>
          let items := patchItems p D.items
          if items.any (fun a => !unitReaches a) then ({ none' with bad := true }, s2)
          else
            let (ok, s3) := allReadable w (D.images.map (fun i => (i.1, i.2.1))) s2
            let (ok2, s4) := allWritable w items s3
            (⟨some D, items, [], [], !(ok && ok2), false⟩, s4)

/-- Everything a record names. -/
def readNamed (w : Who) (r : BitVec 512) (s : State) : Named × State :=
  let (N, s1) := readImages w r s
  let (code, s2) := codeReadable w r s1
  match readTables w r s2 with
  | (none, s3) => ({ N with fault := true }, s3)
  | (some (g, t), s3) => ({ N with groups := g, slots := t, fault := N.fault || !code }, s3)

/-! ## The grid, the groups and the slots (R53, R54, R86 to R90) -/

/-- A virtual core y * 16 + x lies in the grid. -/
def inGrid (r : BitVec 512) (v : Nat) : Bool := decide (v % 16 ≤ bits r 96 4) && decide (v / 16 ≤ bits r 100 4)

/-- The virtual cores of the grid, ascending. -/
def gridCores (r : BitVec 512) : List Nat := (List.range 256).filter (inGrid r)

/-- A group entry names only virtual harts of the grid, and no hart belongs to more than 4 groups (R88). -/
def groupsOk (r : BitVec 512) (gs : List (BitVec 1024)) : Bool :=
  (List.range 1024).all (fun b =>
    let n := (gs.filter (fun g => g.getLsbD b)).length
    n == 0 || (inGrid r (b / 4) && decide (b % 4 ≤ bits r 104 2) && decide (n ≤ 4)))

/-- The slot entries obey R54 and name cores of the grid. A nonzero ROUTE breaks R54: the file has zero there, and what the loader
writes there goes into the launch unit's own copy (R54; whether memory may hold one is assumption 79, DESIGN CHOICE). -/
def slotsOk (r : BitVec 512) (ts : List (BitVec 64)) : Bool :=
  ts.all (fun t => bits t 4 12 == 0 && bits t 32 32 == 0 && inGrid r (bits t 16 8) && inGrid r (bits t 24 8)) &&
    decide (((ts.map (fun t => bits t 0 4)).eraseDups).length ≤ 8)

/-- The virtual clusters of the grid, ascending, with their virtual cores (R86). -/
def gridClusters (r : BitVec 512) : List (Nat × List Nat) :=
  (List.range 32).filterMap (fun c =>
    let vs := (gridCores r).filter (fun v => v / 8 == c)
    if vs.isEmpty then none else some (c, vs))

/-- The virtual clusters joined to a set by slot entries. -/
def joinedOnce (ts : List (BitVec 64)) (cs : List Nat) : List Nat :=
  ts.foldl (fun m t =>
    let a := bits t 16 8 / 8
    let b := bits t 24 8 / 8
    if m.contains a || m.contains b then ninsert (ninsert m a) b else m) cs

/-- All of them. -/
def joinedTo (ts : List (BitVec 64)) (c : Nat) : List Nat :=
  (List.range 32).foldl (fun m _ => joinedOnce ts m) [c]

/-- The link that a mesh flit leaves a position by: 0 to 3 for east, west, south, north. -/
structure MeshLink where
  x   : Nat
  y   : Nat
  dir : Nat
  deriving DecidableEq, Repr

/-- The column of a core in its quarter's mesh (R89). -/
def meshX (c : Nat) : Nat := c / 8 % 2 * 4 + c % 4

/-- The row of a core in its quarter's mesh (R89). -/
def meshY (c : Nat) : Nat := c % 64 / 8 / 2 * 2 + c % 8 / 4

/-- The links from one position along X, then Y (R89). -/
def meshRoute (x y x' y' : Nat) : List MeshLink :=
  (if x ≤ x' then (List.range (x' - x)).map (fun i => ⟨x + i, y, 0⟩) else (List.range (x - x')).map (fun i => ⟨x - i, y, 1⟩)) ++
    (if y ≤ y' then (List.range (y' - y)).map (fun i => ⟨x', y + i, 2⟩)
     else (List.range (y - y')).map (fun i => ⟨x', y - i, 3⟩))

/-- The links that a route uses, with their quarter and phase (R89, R90). -/
def SlotRoute.uses (R : SlotRoute) : List (Nat × MeshLink × Nat) :=
  let ls := meshRoute (meshX R.src) (meshY R.src) (meshX R.dst) (meshY R.dst)
  (List.range ls.length).map (fun j => (quarterOf R.src, ls.getD j ⟨0, 0, 0⟩, (R.slot + j) % 16))

/-- Two routes use one link in one phase. -/
def SlotRoute.clashes (R T : SlotRoute) : Bool := R.uses.any (fun u => T.uses.contains u)

/-- The routes of a slot table for placed cores. -/
def slotRoutes (ts : List (BitVec 64)) (cores : List (Nat × Nat)) : List SlotRoute :=
  ts.map (fun t =>
    ⟨(tfind cores (bits t 16 8)).getD 0, (tfind cores (bits t 24 8)).getD 0, bits t 0 4⟩)

/-- Two entries of one table claim one link in one phase (R90). -/
def routesClash : List SlotRoute → Bool
  | [] => false
  | R :: t => t.any (fun T => R.clashes T) || routesClash t

/-! ## Placement (R84, R86, R350) -/

/-- The fuses of a JX4240: 4 cores disabled in each quarter, at most one in each cluster (R1). -/
def LaunchUnit.fused40 (U : LaunchUnit) : Bool :=
  U.disabled.all (fun c => decide (c < 256)) && U.disabled.eraseDups.length == U.disabled.length &&
    (List.range 4).all (fun q => (U.disabled.filter (fun c => quarterOf c == q)).length == 4) &&
    (List.range 32).all (fun k => decide ((U.disabled.filter (fun c => clusterOf c == k)).length ≤ 1))

/-- A core that the fuses of a JX4240 disable (R1). -/
def LaunchUnit.fused (U : LaunchUnit) (c : Nat) : Bool := U.fused40 && U.disabled.contains c

/-- A core enabled by fuse and not retired, in a cluster whose memory works (R1, R202, R394). -/
def State.fit (s : State) (c : Nat) : Bool :=
  !s.launch.fused c && !(s.core c).retired && !s.launch.failed.contains (clusterOf c)

/-- A resident launch holds the core with a hart that is not parked, also when its harts there have retired: it keeps its
cores until the launch retires (R86, R91; assumption 71, DESIGN CHOICE). -/
def State.busy (s : State) (c : Nat) : Bool :=
  s.launch.resident.any (fun e => e.2.harts.any (fun h => coreOf h == c && !e.2.parked.contains h))

/-- Harts of some launch are parked on the core. -/
def State.hasParked (s : State) (c : Nat) : Bool :=
  s.launch.resident.any (fun e => e.2.parked.any (fun h => coreOf h == c))

/-- The engines of the core hold no command of a launch whose harts are parked there, and what the harts of its slots have
signalled has been applied (R311, R350). A task that has faulted holds no engine (R301). -/
def State.enginesFree (s : State) (c : Nat) : Bool :=
  !s.hasTask (fun T => T.issued && !T.flt && T.core == c) &&
    (List.range 4).all (fun i => (s.hart (4 * c + i)).updates.isEmpty)

/-- The priority a core is held for: the highest of the heads that waited when it fell idle and still wait (R84). -/
def State.heldFor (s : State) (c : Nat) : Nat :=
  ((s.waitingHeads.filter (fun w => (tget [] s.launch.held c).contains (w.1, w.2.1))).map (fun w => w.2.2)).foldl max 0

/-- A core that a launch of priority p may take now (R84, R86, R350). One held for a head of higher priority is not usable for
it, in the ranking of the clusters too (assumption 71, DESIGN CHOICE). -/
def State.usable (s : State) (p c : Nat) : Bool :=
  s.fit c && !s.busy c && (!s.hasParked c || ((s.core c).cpark && s.enginesFree c)) && decide (s.heldFor c ≤ p)

/-- The cores of a cluster. -/
def clusterCores (cl : Nat) : List Nat := (List.range 8).map (fun i => 8 * cl + i)

/-- A range of cores holds core c; none holds every core (R368). -/
def inRange (rng : Option (Nat × Nat)) (c : Nat) : Bool := rng.all (fun x => decide (x.1 ≤ c) && decide (c ≤ x.2))

/-- The cores a cluster offers in a range: on an idle device, or now for a priority. -/
def State.offer (s : State) (rng : Option (Nat × Nat)) (idle : Bool) (p cl : Nat) : List Nat :=
  if idle then (clusterCores cl).filter (fun c => inRange rng c && s.fit c)
  else if (clusterCores cl).any (fun c => s.busy c) || (s.reduced && decide (8 ≤ cl)) then []
  else (clusterCores cl).filter (fun c => inRange rng c && s.usable p c)

/-- The eligible cluster with the fewest usable cores, the lowest of them on a tie (R86). -/
def bestCluster (offers : List (Nat × List Nat)) (need : Nat) : Option (Nat × List Nat) :=
  (offers.filter (fun o => decide (need ≤ o.2.length))).foldl (fun b o =>
    match b with
    | none => some o
    | some x => if o.2.length < x.2.length then some o else some x) none

/-- Place the virtual clusters in ascending order: virtual cluster, cluster and cores so far (R86). Each takes its cluster
without looking ahead to the ones joined to it (assumption 65, DESIGN CHOICE). -/
def placeFrom (s : State) (rng : Option (Nat × Nat)) (idle : Bool) (p : Nat) (ts : List (BitVec 64)) :
    List (Nat × List Nat) → List (Nat × Nat × List (Nat × Nat)) → Option (List (Nat × Nat × List (Nat × Nat)))
  | [], done => some done
  | (vc, vs) :: rest, done =>
    let mates := joinedTo ts vc
    let quarter := (done.find? (fun d => mates.contains d.1)).map (fun d => d.2.1 / 8)
    let offers := ((List.range 32).filter (fun cl =>
        !done.any (fun d => d.2.1 == cl) && (quarter.all (fun q => cl / 8 == q)))).map (fun cl => (cl, s.offer rng idle p cl))
    match bestCluster offers vs.length with
    | none => none
    | some (cl, cs) => placeFrom s rng idle p ts rest (done ++ [(vc, cl, vs.zip cs)])

/-- The virtual cores of the grid with their physical cores, if the grid can be placed. -/
def placeGrid (s : State) (rng : Option (Nat × Nat)) (idle : Bool) (p : Nat) (ts : List (BitVec 64)) (r : BitVec 512) :
    Option (List (Nat × Nat)) :=
  (placeFrom s rng idle p ts (gridClusters r) []).map (fun d => d.flatMap (fun e => e.2.2))

/-- The host's placement: one cluster for each virtual cluster, the ones that the rules of R84 and R86 give a launch of
priority p now. None when it breaks them (R422; assumption 71). -/
def placeAsTold (s : State) (rng : Option (Nat × Nat)) (p : Nat) (ts : List (BitVec 64)) (r : BitVec 512) (cls : List Nat) :
    Option (List (Nat × Nat)) :=
  match placeFrom s rng false p ts (gridClusters r) [] with
  | none => none
  | some d => if d.map (fun e => e.2.1) = cls then some (d.flatMap (fun e => e.2.2)) else none

/-! ## The checks at the head (R78) -/

/-- A record is refused; code 8 leaves a doorbelled record unread, whatever the head's checks have read (R78). -/
def refuse (n code : Nat) (e : QueuedRecord) (r : Option (BitVec 512)) (ctx : Nat) (s : State) : State :=
  let Q := s.queueAt n
  let s1 := s.setQueue n { Q with entries := Q.entries.drop 1, refcode := BitVec.ofNat 4 code }
  match r with
  | some rec =>
    if arrivalOk rec && (code != 8 || e.captured.isSome) then
      arrive (unitWho ctx e.level) (BitVec.ofNat 64 (bits rec 320 56)) true n s1
    else s1
  | none => s1

/-- The record of an entry as the unit reads it at the head: the record and the context it was read in; or a code. -/
def headRecord (Q : LaunchQueue) (e : QueuedRecord) (s : State) : Except Nat (BitVec 512) × Nat × State :=
  match e.captured with
  | some r => (if e.bad then .error 7 else .ok r, e.ctx, s)
  | none =>
    let ctx := if e.pipe.isSome then e.ctx else Q.ctx
    if e.addr.toNat % 64 ≠ 0 ∨ !unitReaches e.addr.toNat then (.error 1, ctx, s)
    else
      match readBytes (unitWho ctx e.level) e.addr.toNat 64 s with
      | (none, s1) => (.error 7, ctx, s1)
      | (some d, s1) => (.ok (BitVec.ofNat 512 (bytesToNat d)), ctx, s1)

/-- The launch image of a stage names another stage than the binding record: the device's reading of the image's .stage
section is not described, so this is a free choice (R368). -/
def stageMismatch (e : QueuedRecord) (s : State) : Bool × State := if e.pipe.isSome then drawBool s else (false, s)

/-- The first check that what a record names fails; 0 when it passes (R78). -/
def namedCode (r : BitVec 512) (N : Named) : Nat :=
  if N.bad then 1 else if N.fault then 7 else if !groupsOk r N.groups then 5 else if !slotsOk r N.slots then 6 else 0

/-- The context in which the unit reads what a record names: the queue's owner for a doorbelled record, the record's own for
one that go captured (R75, R81), at the level of the entry (assumption 65, DESIGN CHOICE for go). -/
def QueuedRecord.namedWho (e : QueuedRecord) (ctx : Nat) (r : BitVec 512) : Who :=
  unitWho (if e.captured.isSome then bits r 116 12 else ctx) e.level

/-- The first check that a record fails, after the record itself has been read in a context; 0 when it passes (R78). Code 6 for
two entries on one link is judged here on the placement that an idle device would give, and on the true one when the record
is placed (assumption 71, DESIGN CHOICE). -/
def recordCode (Q : LaunchQueue) (ctx : Nat) (e : QueuedRecord) (r : BitVec 512) (s0 : State) : Nat × State :=
  let (mismatch, s) := stageMismatch e s0
  if !recordOk r || mismatch then (1, s)
  else
    let (N, s1) := readNamed (e.namedWho ctx r) r s
    let (ent, s2) := ctxEntry none Q.ctx s1
    if N.bad then (1, s2)
    else if bits r 116 12 ≠ Q.ctx ∨ !ctxOpen ent then (3, s2)
    else if Q.pmax < bits r 112 3 then (4, s2)
    else
      match namedCode r N with
      | 0 =>
        match placeGrid s2 e.within true 7 N.slots r with
        | none => (2, s2)
        | some cs => (if routesClash (slotRoutes N.slots cs) then 6 else 0, s2)
      | c => (c, s2)

/-- The host is asked to place a record (R421, R422). -/
def askHost (n : Nat) (e : QueuedRecord) (s : State) : State :=
  if s.handsOver 1 then wantHost 2 (BitVec.ofNat 192 (e.addr.toNat + n * 2 ^ 64)) s else s

/-- The record at the head of a queue is checked, and refused or passed on (R78). -/
def checkHead (n : Nat) (s : State) : State :=
  let Q := s.queueAt n
  match Q.entries with
  | [] => s
  | e :: rest =>
    if !Q.en then refuse n 8 e e.captured e.ctx s
    else if e.checked then s
    else
      match headRecord Q e s with
      | (.error c, ctx, s1) => refuse n c e none ctx s1
      | (.ok r, ctx, s1) =>
        match recordCode Q ctx e r s1 with
        | (0, s2) =>
          let e1 := { e with read := some r, ctx := ctx, checked := true, asked := s2.handsOver 1 }
          askHost n e1 (s2.setQueue n { s2.queueAt n with entries := e1 :: rest })
        | (c, s2) => refuse n c e (some r) ctx s2

/-- The launch unit takes launches in the reduced and in the full service, but not while quarter 0 drains as the full
service begins (R423). -/
def State.launching (s : State) : Bool := s.trust.bstSt == 2 || (s.trust.bstSt == 3 && !s.trust.draining)

/-- The check of a queue's head (R78). -/
def execLaunchHeadCheck (l : Nat) (s : State) : Out := .next (if s.launching then checkHead l s else s)

/-- Every entry of a queue is refused with code 8 (R79). -/
def refuseAll (n : Nat) (s : State) : State :=
  (s.queueAt n).entries.foldl (fun t e => refuse n 8 e e.captured e.ctx t) s

/-- A write of lqcfg (R79). -/
def writeLqcfg (n : Nat) (v : Word) (s : State) : State :=
  let Q := s.queueAt n
  let Q1 := { Q with cfg := v &&& 0xFFFF8000#64 }
  if Q.en && !Q1.en then refuseAll n (s.setQueue n Q1) else s.setQueue n Q1

/-! ## The start of a launch (R77, R84, R88, R91, R96) -/

/-- Copy bytes into a window array. -/
def fillKeys (key : Nat) (d : List Byte) (s : State) : State :=
  s.setMem (memWrite s.mm none key d.length (bytesToNat d))

/-- Copy one image into the windows of the placed cores (R77). -/
def copyImage (i : Nat) (d : List Byte) (off : Nat) (cores : List (Nat × Nat)) (s : State) : State :=
  let ks := if i = 0 then cores.map (fun c => laneKey c.2 off) else if i = 1 then cores.map (fun c => scratchKey c.2 off)
    else ((cores.map (fun c => clusterOf c.2)).eraseDups).map (fun cl => clusterKey cl off)
  ks.foldl (fun t k => fillKeys k d t) s

/-- Copy the images, all of them read before the first is copied; false, with nothing copied, when a source cannot be read any
more (R77, R355). -/
def copyImages (w : Who) (cores : List (Nat × Nat)) : List (Nat × Nat × Nat × Nat) → State → Bool × State
  | [], s => (true, s)
  | (i, a, n, o) :: t, s =>
    match readBytes w a n s with
    | (none, s1) => (false, s1)
    | (some d, s1) =>
      let (ok, s2) := copyImages w cores t s1
      (ok, if ok then copyImage i d o cores s2 else s2)

/-- Replace a virtual core number in a halfword by the identifier of its core; one that names no core of the grid takes a
free value (R77, R87). -/
def patchOne (w : Who) (cores : List (Nat × Nat)) (a : Nat) (s : State) : State :=
  match accessBy w a 2 .write s with
  | .trap _ _ s1 => s1
  | .ok l s1 =>
    match tfind cores (readLoc l s1) with
    | some c => writeLoc w l c s1
    | none =>
      let (v, s2) := drawWord s1
      writeLoc w l (v.toNat % 65536) s2

/-- The memberships of a virtual hart, ascending, as gmem (R88, R97). -/
def gmemOf (gs : List (BitVec 1024)) (b : Nat) : Word :=
  let ms := (List.range gs.length).filter (fun n => (gs.getD n 0).getLsbD b)
  BitVec.ofNat 64 ((List.range ms.length).foldl (fun v i => v + ms.getD i 0 * 2 ^ (8 * i) + 2 ^ (32 + i)) 0)

/-- The groups of a launch: those with a member (R88, R326). -/
def groupsOf (gs : List (BitVec 1024)) : Assoc Group :=
  (List.range gs.length).filterMap (fun n =>
    let m := gs.getD n 0
    if m = 0 then none else some (n, { members := m, arr := 0, held := 0, gen := 0 }))

/-- The placement registers of a virtual hart (R97, R391). -/
def placeRegs (n : Nat) (r : BitVec 512) (gs : List (BitVec 1024)) (b : Nat) (pipe : Option (Nat × Nat)) : PlaceRegs :=
  { lvh := BitVec.ofNat 16 b
    lgrid := BitVec.ofNat 10 (bits r 96 10)
    lctx := BitVec.ofNat 12 (bits r 116 12)
    lprio := BitVec.ofNat 3 (bits r 112 3)
    ltag := BitVec.ofNat 16 (bits r 416 16)
    gmem := gmemOf gs b
    plh := BitVec.ofNat 64 ((pipe.map (fun p => p.1)).getD 0)
    plstg := BitVec.ofNat 5 ((pipe.map (fun p => 16 + p.2)).getD 0)
    launch := n
    spillOff := bits r 384 20
    spillN := bits r 404 8 }

/-- A hart as it starts (R91). -/
def startHart (r : BitVec 512) (P : PlaceRegs) : Hart :=
  { Hart.initial with
    status := .running
    pc := BitVec.ofNat 64 (bits r 0 56 + bits r 64 32)
    regs := (ScalarRegs.initial.writeS 1 (BitVec.ofNat 64 (bits r 256 64))).writeS 2 (P.lvh.setWidth 64)
    place := P }

/-- Set the weights of the slots of a core (R96). -/
def shareWeights (old : BitVec 16) (n w : Nat) : BitVec 16 :=
  BitVec.ofNat 16 ((List.range 4).foldl (fun v i =>
    v + (if i < n then w else old.toNat / 2 ^ (4 * i) % 16) * 2 ^ (4 * i)) 0)

/-- The harts of one placed core start (R86, R91, R96). -/
def startCore (n : Nat) (r : BitVec 512) (gs : List (BitVec 1024)) (pipe : Option (Nat × Nat)) (vc c : Nat) (s : State) :
    State :=
  let hs := bits r 104 2 + 1
  let w := if bits r 108 4 = 0 then 8 else bits r 108 4
  let C := s.core c
  let s1 := s.setCore c { C with hshare := shareWeights C.hshare hs w, cpark := false }
  let s2 := { s1 with launch := { s1.launch with held := tdrop s1.launch.held c } }
  (List.range hs).foldl (fun t i => t.setHart (4 * c + i) (startHart r (placeRegs n r gs (4 * vc + i) pipe))) s2

/-- The lowest launch number that is free. -/
def State.freeLaunch (s : State) : Option Nat := (List.range 64).find? (fun n => (s.launchAt n).isNone)

/-- The harts of a record on its cores. -/
def placedHarts (r : BitVec 512) (cores : List (Nat × Nat)) : List Nat :=
  cores.flatMap (fun c => (List.range (bits r 104 2 + 1)).map (fun i => 4 * c.2 + i))

/-- The launch as it becomes resident. -/
def newLaunch (q : Nat) (e : QueuedRecord) (r : BitVec 512) (cores : List (Nat × Nat)) (N : Named) (s : State) : Launch :=
  let hs := placedHarts r cores
  { record := r, ctx := e.ctx, level := e.level, cores := cores, harts := hs, live := hs, groups := groupsOf N.groups,
    slots := slotRoutes N.slots cores, parked := [], order := s.launch.placed, ending := false, queue := q, owed := [],
    causes := [], pipe := e.pipe, code := s.mm.cells, codeSeals := s.mm.seals }

/-- Start a launch on its cores: images, patches, harts (R77, R84, R91). R77 gives its actions no order: the images are copied
first, and a listed halfword inside an image source is patched after (assumption 79, DESIGN CHOICE). -/
def startLaunch (q n : Nat) (e : QueuedRecord) (r : BitVec 512) (cores : List (Nat × Nat)) (N : Named) (s : State) : State :=
  let w := e.namedWho e.ctx r
  let imgs := match N.desc with
    | none => []
    | some D => (List.range 3).map (fun i => (i, D.images.getD i (0, 0, 0)))
  match copyImages w cores (imgs.filter (fun i => i.2.2.1 != 0)) s with
  | (false, s1) => refuse q 7 e (some r) e.ctx s1
  | (true, s1) =>
    let s2 := N.patches.foldl (fun t a => patchOne w cores a t) s1
    let s3 := s2.setLaunch n (newLaunch q e r cores N s2)
    let Q := s3.queueAt q
    let s4 := s3.setQueue q { Q with entries := Q.entries.drop 1 }
    let s5 := { s4 with launch := { s4.launch with rr := (q + 1) % 64, placed := s4.launch.placed + 1 } }
    let s6 := (placedHarts r cores).foldl (fun t h => writeRecords h t) s5
    cores.foldl (fun t c => startCore n r N.groups e.pipe c.1 c.2 t) s6

/-- Whether a checked head can be placed now, and where: nothing, a refusal, or its cores (R84, R86, R90, R422). -/
inductive Fit where
  | waits
  | refused (code : Nat)
  | on (cores : List (Nat × Nat))

/-- Where a head goes. -/
def headFit (e : QueuedRecord) (r : BitVec 512) (N : Named) (s : State) : Fit :=
  let cs := if e.asked then
      match e.clusters with
      | none => Fit.waits
      | some cls => match placeAsTold s e.within (bits r 112 3) N.slots r cls with
        | none => .refused 2
        | some c => .on c
    else match placeGrid s e.within false (bits r 112 3) N.slots r with
      | none => .waits
      | some c => .on c
  match cs with
  | .on c =>
    let rs := slotRoutes N.slots c
    if routesClash rs then .refused 6
    else if s.launch.resident.any (fun L => L.2.slots.any (fun T => rs.any (fun R => R.clashes T))) then .waits
    else .on c
  | f => f

/-- The queues in the order the launch unit examines them: by descending priority of their heads, then round robin
(R84). -/
def headOrder (s : State) : List Nat :=
  let ring := (List.range 64).map (fun i => (s.launch.rr + i) % 64)
  ((List.range 8).reverse).flatMap (fun p => ring.filter (fun q =>
    match (s.queueAt q).entries with
    | e :: _ => e.checked && (s.queueAt q).en && bits (e.read.getD 0) 112 3 == p
    | [] => false))

/-- Place the first head of some queues that fits (R84). What the record names is read again and checked again as it is
placed, with the refusals of the head (R77, R78, R88). -/
def placeFirst : List Nat → State → State
  | [], s => s
  | q :: qs, s =>
    match (s.queueAt q).entries, s.freeLaunch with
    | e :: _, some n =>
      match e.read with
      | none => placeFirst qs s
      | some r =>
        let (N, s1) := readNamed (e.namedWho e.ctx r) r s
        match namedCode r N with
        | 0 =>
          match headFit e r N s1 with
          | .waits => placeFirst qs s
          | .refused c => refuse q c e (some r) e.ctx s1
          | .on cores => startLaunch q n e r cores N s1
        | c => refuse q c e (some r) e.ctx s1
    | _, _ => s

/-- Place a launch (R84). -/
def execPlaceLaunch (s : State) : Out := .next (if s.launching then placeFirst (headOrder s) s else s)

/-! ## go and gq (R82, R83) -/

/-- The queue that go or gq names, if the hart may use it (R82, R83). -/
def queueGate (n : Word) (s : State) (H : Hart) : Gate :=
  Gate.need (decide (n.toNat ≤ 63) && (H.plev != 0 || (s.queueAt n.toNat).ctx == H.place.lctx.toNat)) 0x07 n

/-- Enqueue a record of a hart, captured as it is enqueued, and answer (R82). One that a peer does not deliver, or delivers with
poison, is one that cannot be read at the head (R78; assumption 53, DESIGN CHOICE). -/
def enqueueGo (h q : Nat) (a : Word) (d : BitVec 5) (l : Loc) (s : State) : State :=
  let Q := s.queueAt q
  if !Q.en ∨ 32 ≤ Q.entries.length then answer h d (BitVec.allOnes 64) s
  else
    let H := s.hart h
    let (err, s1) := peerError l s
    let (lost, s2) := peerPoison l s1
    let e : QueuedRecord :=
      { addr := a, captured := some (BitVec.ofNat 512 (readLoc l s2)), read := none, ctx := H.place.lctx.toNat, level := H.plev,
        bad := err || lost || poisonedLoc l s2, checked := false, asked := false, clusters := none, pipe := none, within := none, num := 0 }
    answer h d (Q.seq.setWidth 64) ((fillLoc l s2).setQueue q (Q.accept e))

/-- The effect of go once its queue is the hart's to use; its read waits as a load of the hart does (R82, R249, R285). -/
def goEffect (h : Nat) (q a : Word) (d : BitVec 5) (s : State) : State :=
  if a.toNat % 64 ≠ 0 then scalarTrap h 0x04 a false s
  else if !unitReaches a.toNat then scalarTrap h 0x07 a false s
  else if ownStalls h a.toNat 64 .read s then s
  else
    match accessBy (s.who h) a.toNat 64 .read s with
    | .trap c t s1 => scalarTrap h c t false s1
    | .ok l s1 => enqueueGo h q.toNat a d l s1

/-- go (R82). -/
def execGo (y x : BitVec 1) (b a d : BitVec 5) (s : State) : Out :=
  .next (command (goWord y x b a d) (fun H =>
      (H.srcS a x).and ((H.srcS b y).and ((H.dstS d).and ((queueGate (H.regs.readS b) s H).and
        (Gate.until (!H.owes (fun _ => true))))))) s
    (fun h =>
      let s1 := forceAll h s
      let H := s1.hart h
      goEffect h (H.regs.readS b) (H.regs.readS a) d s1))

/-- gq (R83). -/
def execGq (x : BitVec 1) (a d : BitVec 5) (s : State) : Out :=
  .next (command (gqWord x a d) (fun H => (H.srcS a x).and ((H.dstS d).and (queueGate (H.regs.readS a) s H))) s
    (fun h => answer h d (s.queueAt ((s.hart h).regs.readS a).toNat).stat s))

end Sys2Proof.Machine
end

