-- ==== Sys2Proof/Machine/Journals.lean ====
section
/-!
DEFINITION. The journals: jr.rec, jr.gate, jr.dur, jr.trunc, jr.read, the acknowledgments, the tailstock and its
failover, and the mirror entries this device keeps for others (R380 to R392).
-/
namespace Sys2Proof.Machine

/-! ## Tables -/

/-- Journal j. -/
def State.journalAt (s : State) (j : Nat) : Journal := if hj : j < 16 then s.journal.jrn[j] else Journal.initial

/-- Replace journal j. -/
def State.setJournal (s : State) (j : Nat) (J : Journal) : State :=
  if hj : j < 16 then { s with journal := { s.journal with jrn := s.journal.jrn.set j J } } else s

/-- Candidate i. -/
def State.candidate (s : State) (i : Fin 4) : Word := s.journal.cand[i]

/-- The candidate is valid and its port is up with the expected peer (R385). -/
def State.candOk (s : State) (i : Fin 4) : Bool :=
  let c := s.candidate i
  c.getLsbD 63 && (if hp : bits c 16 4 < 16 then s.ports[bits c 16 4].up && s.ports[bits c 16 4].peer.toNat == bits c 0 16 else false)

/-- The address of the record of position i (R380). -/
def Journal.ring (J : Journal) (i : Nat) : Word := J.base + BitVec.ofNat 64 (32 * (i % 2 ^ J.lsz))

/-- The ring holds as many records as it can (R382). -/
def Journal.full (J : Journal) : Bool := decide (2 ^ J.lsz ≤ J.fin - J.tr)

/-! ## Pending commands -/

/-- Each pending command that f answers fills its destination and leaves. -/
def Hart.answerCmds (f : Awaits → Option Word) (H : Hart) : Hart :=
  let done := H.cmds.filterMap (fun c => (f c.on).map (fun v => (c, v)))
  { done.foldl (fun K cv => K.fillS (some cv.1.id) cv.1.dst cv.2) H with cmds := H.cmds.filter (fun c => (f c.on).isNone) }

/-- The same for every hart. -/
def answerAll (f : Awaits → Option Word) (s : State) : State :=
  { s with harts := s.harts.map (fun e => if e.2.cmds.isEmpty then e else (e.1, e.2.answerCmds f)) }

/-- The gates that a journal's durable watermark opens (R384). -/
def openGates (s : State) : State :=
  answerAll (fun a => match a with
    | .gate j p => if p ≤ (s.journalAt j).dw then some (BitVec.ofNat 64 (s.journalAt j).dw) else none
    | _ => none) s

/-- No tailstock is left: pending gates and truncations answer all ones (R386, R388). -/
def dropGates (s : State) : State :=
  answerAll (fun a => match a with
    | .gate _ _ => some (BitVec.allOnes 64)
    | .trunc _ _ => some (BitVec.allOnes 64)
    | _ => none) s

/-! ## The tailstock (R383, R385, R386) -/

/-- Record n of journal j goes to the tailstock, through the host when it relays the shipping (R383, R421, R422). -/
def shipRecord (j n : Nat) (s : State) : State :=
  if s.handsOver 3 then wantHost 4 (BitVec.ofNat 192 (j + n * 2 ^ 64)) s else s

/-- Every enabled journal's records from the truncation point on ship again (R385). -/
def shipAgain (s : State) : State :=
  (List.range 16).foldl (fun t j =>
    let J := t.journalAt j
    if J.enabled then (List.range (J.fin - J.tr)).foldl (fun u i => shipRecord j (J.tr + i) u) t else t) s

/-- A new tailstock: every record from the truncation point ships again (R385). -/
def setTail (i : Fin 4) (s : State) : State :=
  openGates <| shipAgain { s with journal := { s.journal with
    tail := some i
    ref := false
    jrn := Vector.ofFn (fun i =>
      let J := s.journal.jrn[i]
      if J.enabled then { J with dw := J.tr } else J) } }

/-- No candidate remains (R386). -/
def noTail (s : State) : State := dropGates { s with journal := { s.journal with tail := none, ref := true } }

/-- The first of some candidates that can serve becomes the tailstock; none: REF (R385, R386). -/
def pickTail (cs : List (Fin 4)) (s : State) : State :=
  match cs.find? (fun i => s.candOk i) with
  | some i => setTail i s
  | none => noTail s

/-- A journal is enabled: with no tailstock current the lowest valid candidate becomes it; one that is current stays
(R385). -/
def enableTail (s : State) : State := if s.journal.tail.isSome then s else pickTail [0, 1, 2, 3] s

/-- The tailstock is lost, or refuses a record: the next in cyclic order (R385). -/
def tailLost (s : State) : State :=
  match s.journal.tail with
  | none => s
  | some i => pickTail [i + 1, i + 2, i + 3] s

/-- The tailstock's peer is reached by no port (R361, R385). -/
def State.tailUnreached (s : State) : Bool :=
  s.journal.tail.any (fun i => !s.ports.toList.any (fun q => q.up && q.peer.toNat == bits (s.candidate i) 0 16))

/-! ## Instructions -/

/-- A journal number in a register: the rest is zero, the journal enabled and the context's own (R380, R381). -/
def journalGate (v : Word) (s : State) (H : Hart) : Gate :=
  let J := s.journalAt (bits v 0 4)
  (Gate.need (decide (v.toNat < 16)) 0x07 0).and
    (Gate.need (J.enabled && J.ctx == H.place.lctx.toNat) 0x07 (BitVec.ofNat 64 (bits v 0 4)))

/-- Read n bytes as a load of q0, or wait or trap as one (R119, R120, R382). -/
def loadRecord (h : Nat) (a : Word) (n : Nat) (s : State) (k : Nat → State → State) : State :=
  let H := s.hart h
  if H.owes (onStream 0) || ownStalls h a.toNat n .read s then s
  else
    let s0 := forceLoads h (onStream 0) s
    match readAt (s0.who h) a.toNat n s0 with
    | .trap c t s1 => scalarTrap h c t false s1
    | .ok v s1 => k v s1

/-- A record obeys R381. -/
def journalRecordOk (r : BitVec 256) : Bool :=
  let f := bits r
  f 4 4 == 0 && ((f 0 4 == 1 && f 128 32 == 0) ||
    (f 0 4 == 2 && f 131 13 == 0 && decide (f 128 3 ≤ 6) &&
      (List.range 6).all (fun n => decide (n < f 128 3) || f (160 + 16 * n) 16 == 0)))

/-- The n bits from bit lo replaced by v. -/
def putField {w : Nat} (r : BitVec w) (lo n v : Nat) : BitVec w :=
  BitVec.ofNat w (r.toNat - bits r lo n * 2 ^ lo + v % 2 ^ n * 2 ^ lo)

/-- The record with its position (R382). -/
def withJpos (r : BitVec 256) (i : Nat) : BitVec 256 := putField r 8 56 i

/-- Append a record: into the ring, END, shipping, and the answer; with a full event queue the hart waits when the host relays the
shipping (R382, R383, R422). -/
def appendRecord (h j : Nat) (r : BitVec 256) (d : BitVec 5) (s : State) : State :=
  let J := s.journalAt j
  if !journalRecordOk r then scalarTrap h 0x14 0 false s
  else if J.full then answer h d (BitVec.allOnes 64) s
  else if ownStalls h (J.ring J.fin).toNat 32 .write s then s
  else
    match accessBy (s.who h) (J.ring J.fin).toNat 32 .write s with
    | .trap c _ s1 => scalarTrap h c (J.ring J.fin) false s1
    | .ok l s1 =>
      let s2 := (writeLoc (s.who h) l (withJpos r J.fin).toNat s1).setJournal j { J with fin := J.fin + 1 }
      let s3 := if s2.handsOver 3 then wantRoom (shipRecord j J.fin s2) else s2
      answer h d (BitVec.ofNat 64 (J.fin + 1)) s3

/-- jr.rec (R382). -/
def execJrRec (y x : BitVec 1) (b a d : BitVec 5) (s : State) : Out :=
  .next (command (jrRecWord y x b a d) (fun H =>
      (H.srcS a x).and ((H.srcS b y).and ((H.dstS d).and ((Gate.need ((H.regs.readS a).toNat % 32 == 0) 0x04 0).and
        (journalGate (H.regs.readS b) s H))))) s
    (fun h => loadRecord h ((s.hart h).regs.readS a) 32 s (fun r s1 =>
      appendRecord h (bits ((s.hart h).regs.readS b) 0 4) (BitVec.ofNat 256 r) d s1)))

/-- jr.gate: it answers when the watermark reaches the position (R384). -/
def execJrGate (y x : BitVec 1) (b a d : BitVec 5) (s : State) : Out :=
  .next (command (jrGateWord y x b a d) (fun H =>
      (H.srcS a x).and ((H.srcS b y).and ((H.dstS d).and ((journalGate (H.regs.readS a) s H).and
        (Gate.need (!s.journal.ref) 0x15 (BitVec.ofNat 64 (bits (H.regs.readS a) 0 4))))))) s
    (fun h =>
      let H := s.hart h
      let j := bits (H.regs.readS a) 0 4
      let p := bits (H.regs.readS b) 0 56
      if p ≤ (s.journalAt j).dw then answer h d (BitVec.ofNat 64 (s.journalAt j).dw) s
      else s.setHart h (H.pendCmd d (.gate j p))))

/-- jr.dur (R387). -/
def execJrDur (x : BitVec 1) (a d : BitVec 5) (s : State) : Out :=
  .next (command (jrDurWord x a d) (fun H =>
      (H.srcS a x).and ((H.dstS d).and (journalGate (H.regs.readS a) s H))) s
    (fun h => answer h d (BitVec.ofNat 64 (s.journalAt (bits ((s.hart h).regs.readS a) 0 4)).dw) s))

/-- jr.trunc (R388). -/
def execJrTrunc (y x : BitVec 1) (b a d : BitVec 5) (s : State) : Out :=
  .next (command (jrTruncWord y x b a d) (fun H =>
      (H.srcS a x).and ((H.srcS b y).and ((H.dstS d).and ((journalGate (H.regs.readS a) s H).and
        (Gate.need (decide (bits (H.regs.readS b) 0 56 ≤ (s.journalAt (bits (H.regs.readS a) 0 4)).fin)) 0x07 0))))) s
    (fun h =>
      let H := s.hart h
      let j := bits (H.regs.readS a) 0 4
      let t := bits (H.regs.readS b) 0 56
      if t ≤ (s.journalAt j).tr then answer h d (BitVec.ofNat 64 (s.journalAt j).tr) s
      else if s.journal.ref then answer h d (BitVec.allOnes 64) s
      else s.setHart h (H.pendCmd d (.trunc j t))))

/-! ## The mirror table (R383, R392) -/

/-- The physical address of mirror entry e. -/
def State.mirrorAddr (s : State) (e : Nat) : Nat := bits s.journal.jrmbase 6 46 * 64 + 32 * e

/-- Mirror entry e. -/
def State.mirror (s : State) (e : Nat) : BitVec 256 := BitVec.ofNat 256 (memRead s.mm none (s.mirrorAddr e) 32)

/-- Mirror entry e is valid. -/
def State.mirrorValid (s : State) (e : Nat) : Bool := s.journal.jrmbase.getLsbD 0 && (s.mirror e).getLsbD 0

/-- Write n bytes of physical memory at the device scope: replays that it conflicts with depart first (R286). -/
def physWrite (pa n v : Nat) (s : State) : State :=
  let s1 := departConflicts none pa n true s
  touchLines pa n 0 none (s1.setMem (memWrite s1.mm none pa n v))

/-- Read n bytes of physical memory at the device scope, through the home L2 (R207, R286). -/
def physRead (pa n : Nat) (s : State) : State := readLines pa n 0 (departConflicts none pa n false s)

/-- Replace mirror entry e. -/
def setMirror (e : Nat) (v : BitVec 256) (s : State) : State := physWrite (s.mirrorAddr e) 32 v.toNat s

/-- The valid mirror entry of a source's journal. -/
def State.mirrorOf (s : State) (peer : BitVec 16) (j : Nat) : Option Nat :=
  (List.range 64).find? (fun e => s.mirrorValid e && bits (s.mirror e) 116 16 == peer.toNat && bits (s.mirror e) 132 4 == j)

/-- The link engine looks into the mirror table (R286, R383). -/
def lookMirrors (s : State) : State :=
  if s.journal.jrmbase.getLsbD 0 then walkAccess none (s.mirrorAddr 0) 2048 false s else s

/-- The physical address of a mirror's record. -/
def mirrorRing (m : BitVec 256) (i : Nat) : Nat := bits m 70 46 * 64 + 32 * (i % 2 ^ bits m 136 5)

/-- An entry whose V has been cleared may be written again (R392). -/
def reopenMirrors (s : State) : State :=
  if s.journal.closed.isEmpty then s
  else { s with journal := { s.journal with closed := s.journal.closed.filter (fun e => (s.mirror e).getLsbD 0) } }

/-- The source of some entries is lost: nothing more is written to them (R392). -/
def closeMirrors (peer : BitVec 16) (s0 : State) : State :=
  let s := lookMirrors s0
  { s with journal := { s.journal with closed :=
    ((List.range 64).filter (fun e => s.mirrorValid e && bits (s.mirror e) 116 16 == peer.toNat)).foldl ninsert s.journal.closed } }

/-- The peer of a port. -/
def State.peerOn (s : State) (p : Nat) : BitVec 16 := if hp : p < 16 then s.ports[p].peer else 0

/-- The port is up. -/
def State.portUp (s : State) (p : Nat) : Bool := if hp : p < 16 then s.ports[p].up else false

/-- The entry after record n. One that it holds already moves nothing; into an entry that holds none the first of those that its
source still has may come from above END (R383, R385, R392; assumption 70). -/
def mirrorTakes (m : BitVec 256) (n : Nat) : BitVec 256 :=
  let fin := bits m 200 56
  if n < fin then m
  else if n = fin then putField m 200 56 (n + 1)
  else putField (putField m 144 56 n) 200 56 (n + 1)

/-- The entry refuses record n: its ring has no room for a new one, or the record would leave a gap above those it holds (R383,
R392). -/
def mirrorRefuses (m : BitVec 256) (n : Nat) : Bool :=
  let tr := bits m 144 56
  let fin := bits m 200 56
  decide (n < tr) || (decide (fin ≤ n) && decide (2 ^ bits m 136 5 ≤ fin - tr)) || (decide (fin < n) && decide (tr < fin))

/-- A record of a peer's journal arrives: it goes into the ring of its entry; with no valid entry or a full ring it is refused,
and nothing changes here (R383, R392). -/
def execMirrorRecordWrite (p j n : Nat) (r : List Byte) (s0 : State) : Out :=
  .next (
    let s := lookMirrors s0
    match s.mirrorOf (s.peerOn p) j with
    | none => s
    | some e =>
      let m := s.mirror e
      if !s.portUp p || s.journal.closed.contains e || mirrorRefuses m n || r.length != 32 || !isStackPa (mirrorRing m n) then s
      else setMirror e (mirrorTakes m n) (physWrite (mirrorRing m n) 32 (bytesToNat r) s))

/-- A source's journal is enabled: its mirror entry is cleared, and may be written again (R391, R392). -/
def clearMirror (peer : BitVec 16) (j : Nat) (s0 : State) : State :=
  let s := lookMirrors s0
  match s.mirrorOf peer j with
  | none => s
  | some e =>
    let s1 := { s with journal := { s.journal with closed := s.journal.closed.filter (· != e) } }
    setMirror e (putField (putField (s.mirror e) 200 56 0) 144 56 0) s1

/-- A source asks to drop the records below t (R388). -/
def truncMirror (peer : BitVec 16) (j t : Nat) (s0 : State) : State :=
  let s := lookMirrors s0
  match s.mirrorOf peer j with
  | none => s
  | some e =>
    if s.journal.closed.contains e || decide (bits (s.mirror e) 200 56 < t) || decide (t ≤ bits (s.mirror e) 144 56) then s
    else setMirror e (putField (s.mirror e) 144 56 t) s

/-! ## jr.read (R389) -/

/-- The check of the record that s[B] names. -/
def readGate (v : Word) (word : Nat) (s : State) (H : Hart) : Gate :=
  let e := bits v 56 6
  if v.getLsbD 63 then
    (Gate.need (1 ≤ H.plev.toNat) 0x13 (BitVec.ofNat 64 word)).and
      (Gate.need (!v.getLsbD 62 && s.mirrorValid e) 0x07 0)
  else (Gate.need (!v.getLsbD 62) 0x07 0).and (journalGate (BitVec.ofNat 64 e) s H)

/-- Write the record that was read, and answer 0; the write waits as a store of the hart does (R249, R285). -/
def copyRecord (h : Nat) (a : Word) (r : Nat) (d : BitVec 5) (s : State) : State :=
  if ownStalls h a.toNat 32 .write s then s
  else
  match writeAt (s.who h) a.toNat 32 r s with
  | .trap c t s1 => scalarTrap h c t false s1
  | .ok _ s1 => answer h d 0 s1

/-- A record of this context's journal (R389). -/
def readLocal (h j pos : Nat) (a : Word) (d : BitVec 5) (s : State) : State :=
  let J := s.journalAt j
  if pos < J.tr then answer h d 1 s
  else if J.fin ≤ pos then answer h d 2 s
  else if ownStalls h (J.ring pos).toNat 32 .read s then s
  else
    match readAt (s.who h) (J.ring pos).toNat 32 s with
    | .trap c _ s1 => scalarTrap h c (J.ring pos) false s1
    | .ok v s1 => copyRecord h a v d s1

/-- A record of a mirror entry (R389). -/
def readMirror (h e pos : Nat) (a : Word) (d : BitVec 5) (s : State) : State :=
  let m := s.mirror e
  let k := mirrorRing m pos
  if pos < bits m 144 56 then answer h d 1 s
  else if bits m 200 56 ≤ pos then answer h d 2 s
  else
    let s1 := physRead k 32 (physRead (s.mirrorAddr e) 32 s)
    if poisoned s1.mm true k 32 then scalarTrap h 0x0E (BitVec.ofNat 64 k) false s1
    else copyRecord h a (memRead s1.mm none k 32) d s1

/-- jr.read (R389). -/
def execJrRead (y x : BitVec 1) (b a d : BitVec 5) (s : State) : Out :=
  .next (command (jrReadWord y x b a d) (fun H =>
      (H.srcS a x).and ((H.srcS b y).and ((H.dstS d).and ((Gate.need ((H.regs.readS a).toNat % 32 == 0) 0x04 0).and
        (readGate (H.regs.readS b) (jrReadWord y x b a d) s H))))) s
    (fun h =>
      let H := s.hart h
      let v := H.regs.readS b
      let a := H.regs.readS a
      if v.getLsbD 63 then readMirror h (bits v 56 6) (bits v 0 56) a d s
      else readLocal h (bits v 56 6) (bits v 0 56) a d s))

/-! ## Answers of the tailstock (R383, R388) -/

/-- The tailstock holds the first n records of journal j: the watermark rises and gates open (R383, R384). -/
def acknowledge (j n : Nat) (s : State) : State :=
  let J := s.journalAt j
  if s.journal.tail.isNone || s.tailUnreached || !J.enabled then s
  else openGates (s.setJournal j { J with dw := max J.dw (min n J.fin) })

/-- JOURNAL_ACK (R383). -/
def execJournalAck (j n : Nat) (s : State) : Out := .next (acknowledge j n s)

/-- The first truncation of journal j that the hart waits for. -/
def Hart.truncOf (H : Hart) (j : Nat) : Option Nat :=
  H.cmds.findSome? (fun c => match c.on with
    | .trunc i t => if i = j then some t else none
    | _ => none)

/-- The tailstock has dropped the records below a hart's oldest truncation of journal j (R388). -/
def execTruncationAck (h j : Nat) (s : State) : Out :=
  .next (
    match (s.hart h).truncOf j with
    | none => s
    | some t =>
      let J := s.journalAt j
      if J.dw < t ∨ s.tailUnreached ∨ s.journal.tail.isNone then s
      else
        let s1 := s.setJournal j { J with tr := max J.tr t }
        s1.setHart h ((s1.hart h).answerCmds (fun a => match a with
          | .trunc i u => if i = j ∧ u = t then some (BitVec.ofNat 64 t) else none
          | _ => none)))

/-! ## Journal registers (R391) -/

/-- A write of jrcfg of the selected journal. -/
def writeJrcfg (v : Word) (s : State) : State :=
  let j := s.journal.sel.toNat
  let J := s.journalAt j
  let lsz := bits v 0 5
  let J1 := if J.enabled then J
    else { J with ctx := bits v 32 12, lsz := if 4 ≤ lsz ∧ lsz ≤ 24 then lsz else J.lsz }
  if !v.getLsbD 63 then s.setJournal j { J1 with enabled := false }
  else if J.enabled then s
  else if J1.lsz < 4 ∨ 24 < J1.lsz then s.setJournal j J1
  else enableTail (s.setJournal j { J1 with enabled := true, fin := 0, dw := 0, tr := 0 })

/-- jrcfg as it reads. -/
def Journal.cfg (J : Journal) : Word :=
  BitVec.ofNat 64 ((if J.enabled then 2 ^ 63 else 0) + J.ctx % 4096 * 2 ^ 32 + J.lsz % 32)

/-- A write of a candidate; one that names a port that is up ends the partition, and the lowest candidate that can serve
becomes the tailstock (R386, R391). With none that can, shipping waits for the next such write. -/
def writeJrcand (n : Nat) (v : Word) (s : State) : State :=
  if hn : n < 4 then
    let s1 := { s with journal := { s.journal with cand := s.journal.cand.set n (v &&& 0x80000000000FFFFF#64) } }
    let ships := s1.journal.ref || (s1.journal.tail.isNone && s1.journal.jrn.toList.any (fun J => J.enabled))
    if ships && s1.portUp (bits v 16 4) then
      match ([0, 1, 2, 3] : List (Fin 4)).find? (fun i => s1.candOk i) with
      | some i => setTail i s1
      | none => { s1 with journal := { s1.journal with ref := false } }
    else s1
  else s

/-- jrpart as it reads. -/
def JournalUnit.part (J : JournalUnit) : Word :=
  BitVec.ofNat 64 ((if J.ref then 2 ^ 63 else 0) + match J.tail with
    | some i => 4 + i.val
    | none => 0)

end Sys2Proof.Machine
end

