-- ==== Sys2Proof/Machine/Sha3.lean ====
section
/-!
DEFINITION. SHA3-256 and SHA3-512 (R57, R366, R369, R415, R416, R418). The spec names the functions and does not define them: these are those
of FIPS 202 (assumption 26, PRESUMED).
-/
namespace Sys2Proof.Machine

/-- The state of the permutation: lane (x, y) at index x + 5 y. -/
abbrev Lanes := Vector (BitVec 64) 25

/-- Lane (x, y), coordinates modulo 5. -/
def Lanes.at (A : Lanes) (x y : Nat) : BitVec 64 := A[x % 5 + 5 * (y % 5)]'(by omega)

/-- The walk over the lanes but (0, 0): from (1, 0), each time (x, y) to (y, 2 x + 3 y); the t-th lane turns by the t-th
triangular number (FIPS 202, rho). Answers each lane's index with its turn. -/
def turnsFrom : Nat → Nat → Nat → Nat → Assoc Nat
  | 0, _, _, _ => []
  | n + 1, t, x, y => (x + 5 * y, t * (t + 1) / 2 % 64) :: turnsFrom n (t + 1) y ((2 * x + 3 * y) % 5)

/-- The turn of a lane, by index. -/
def laneTurn (i : Nat) : Nat := ((turnsFrom 24 1 1 0).find? (fun e => e.1 == i)).elim 0 (fun e => e.2)

/-- A step of the shift register whose output bits make the round constants: x^8 + x^6 + x^5 + x^4 + 1 (FIPS 202, iota). -/
def shiftBit (r : Nat) : Nat := if r < 128 then 2 * r else (2 * r) % 256 ^^^ 0x71

/-- The j-th to seventh bits of a round constant: output bit j stands at bit 2^j - 1. Answers the register behind them. -/
def roundBits : Nat → Nat → Nat → Nat → Nat × Nat
  | 0, _, r, c => (c, r)
  | n + 1, j, r, c => roundBits n (j + 1) (shiftBit r) (c + r % 2 * 2 ^ (2 ^ j - 1))

/-- One round. -/
def keccakRound (A : Lanes) (rc : BitVec 64) : Lanes :=
  let C (x : Nat) : BitVec 64 := A.at x 0 ^^^ A.at x 1 ^^^ A.at x 2 ^^^ A.at x 3 ^^^ A.at x 4
  let T : Lanes := Vector.ofFn (fun i => A[i] ^^^ C (i.val % 5 + 4) ^^^ (C (i.val % 5 + 1)).rotateLeft 1)
  let R : Lanes := Vector.ofFn (fun i => (T[i]).rotateLeft (laneTurn i.val))
  let B : Lanes := Vector.ofFn (fun i => R.at (i.val % 5 + 3 * (i.val / 5)) (i.val % 5))
  let X : Lanes := Vector.ofFn (fun i => B[i] ^^^ (~~~(B.at (i.val % 5 + 1) (i.val / 5)) &&& B.at (i.val % 5 + 2) (i.val / 5)))
  X.set 0 (X[0] ^^^ rc)

/-- n rounds, the first with the register at r. -/
def keccakRounds : Nat → Nat → Lanes → Lanes
  | 0, _, A => A
  | n + 1, r, A =>
    let c := roundBits 7 0 r 0
    keccakRounds n c.2 (keccakRound A (BitVec.ofNat 64 c.1))

/-- The permutation: 24 rounds. -/
def keccak (A : Lanes) : Lanes := keccakRounds 24 1 A

/-- Eight bytes as a lane, the first least significant. -/
def laneOf (d : List Byte) : BitVec 64 := d.foldr (fun b v => (v <<< 8) ||| b.setWidth 64) 0

/-- Absorb one block of r bytes. -/
def absorbBlock (r : Nat) (A : Lanes) (d : List Byte) : Lanes :=
  keccak (Vector.ofFn (fun i => if 8 * i.val < r then A[i] ^^^ laneOf ((d.drop (8 * i.val)).take 8) else A[i]))

/-- The last block, padded with 01, then 1, zeros and 1. -/
def padBlock (r : Nat) (d : List Byte) : List Byte :=
  if d.length = r - 1 then d ++ [0x86] else d ++ [0x06] ++ List.replicate (r - 2 - d.length) 0 ++ [0x80]

/-- Absorb a message of at most n whole blocks and a rest. -/
def absorb (r : Nat) : Nat → List Byte → Lanes → Lanes
  | 0, d, A => absorbBlock r A (padBlock r d)
  | n + 1, d, A => absorb r n (d.drop r) (absorbBlock r A (d.take r))

/-- A lane as eight bytes. -/
def laneBytes (v : BitVec 64) : List Byte := (List.range 8).map (fun i => (v >>> (8 * i)).setWidth 8)

/-- SHA3-256 of some bytes: 32 bytes. -/
def sha3 (d : List Byte) : List Byte :=
  let A := absorb 136 (d.length / 136) d (Vector.replicate 25 0)
  laneBytes A[0] ++ laneBytes A[1] ++ laneBytes A[2] ++ laneBytes A[3]

/-- SHA3-512 of some bytes: 64 bytes (R416). -/
def sha3x (d : List Byte) : List Byte :=
  let A := absorb 72 (d.length / 72) d (Vector.replicate 25 0)
  laneBytes A[0] ++ laneBytes A[1] ++ laneBytes A[2] ++ laneBytes A[3] ++
    laneBytes A[4] ++ laneBytes A[5] ++ laneBytes A[6] ++ laneBytes A[7]

end Sys2Proof.Machine
end

