-- ==== Sys2Proof/Machine/Pipelines.lean ====
section
/-!
DEFINITION. Prefix-sharing pipelines: stage handles, binding, messages, the end and the failure of a pipeline (R366 to
R379).
-/
namespace Sys2Proof.Machine

/-! ## Spans of bytes -/

/-- The low n bytes of a number, the first least significant. -/
def bytesOf : Nat → Nat → List Byte
  | 0, _ => []
  | n + 1, v => BitVec.ofNat 8 v :: bytesOf n (v / 256)

/-- The bytes of a span up to the next 4 KiB boundary. -/
def spanHead (a n : Nat) : Nat := min n (4096 - a % 4096)

/-- Read n bytes from an address, at most f blocks of 4 KiB; poison is cause 0x0E (R119). -/
def readSpan (w : Who) : Nat → Nat → Nat → State → Res (List Byte)
  | 0, _, _, s => .ok [] s
  | f + 1, a, n, s =>
    if n = 0 then .ok [] s
    else
      let c := spanHead a n
      match readAt w a c s with
      | .trap k t s1 => .trap k t s1
      | .ok v s1 =>
        match readSpan w f (a + c) (n - c) s1 with
        | .trap k t s2 => .trap k t s2
        | .ok d s2 => .ok (bytesOf c v ++ d) s2

/-- Check a write of n bytes at an address. -/
def checkSpan (w : Who) : Nat → Nat → Nat → State → Res Unit
  | 0, _, _, s => .ok () s
  | f + 1, a, n, s =>
    if n = 0 then .ok () s
    else
      match accessBy w a (spanHead a n) .write s with
      | .trap k t s1 => .trap k t s1
      | .ok _ s1 => checkSpan w f (a + spanHead a n) (n - spanHead a n) s1

/-- Write some bytes at an address; a block that cannot be written any more is left alone. -/
def writeSpan (w : Who) : Nat → Nat → List Byte → State → State
  | 0, _, _, s => s
  | f + 1, a, d, s =>
    if d.isEmpty then s
    else
      let c := spanHead a d.length
      let s1 := match writeAt w a c (bytesToNat (d.take c)) s with
        | .trap _ _ s1 => s1
        | .ok _ s1 => s1
      writeSpan w f (a + c) (d.drop c) s1

/-- The blocks a span of n bytes can touch. -/
def spanPages (n : Nat) : Nat := n / 4096 + 2

/-- A load of q0 may read n bytes at an address now (R120, R249). -/
def Hart.q0Free (H : Hart) (a n : Nat) : Bool := !(H.copyStalls (fun _ => true) a n || H.owes (onStream 0))

/-- Read n bytes as loads of q0, or wait or trap. -/
def loadSpan (h : Nat) (a n : Nat) (s : State) (k : List Byte → State → State) : State :=
  if (s.hart h).owes (onStream 0) || ownStalls h a n .read s then s
  else
    match readSpan (s.who h) (spanPages n) a n (forceLoads h (onStream 0) s) with
    | .trap c t s1 => scalarTrap h c t false s1
    | .ok d s1 => k d s1

/-! ## pl.hash (R366, R367) -/

/-- The reserved fields of a stage record are zero and PSIZE is in its limit (R55, R366). -/
def stageRecordOk (r : Nat) : Bool :=
  r / 2 ^ 416 == 0 && r / 2 ^ 64 % 2 ^ 64 == 0 && decide (r / 2 ^ 352 % 2 ^ 32 ≤ 65536)

/-- The bytes that a stage handle hashes (R366). -/
def handleInput (dg : List Byte) (r : Nat) (prm : List Byte) : List Byte :=
  dg ++ bytesOf 16 (r / 2 ^ 128) ++ bytesOf 4 (r / 2 ^ 352) ++ prm ++ bytesOf 8 r

/-- A stage handle that this device has hashed is known by its fixed-order bit, bit 0 of NMODE (R55, R366). -/
def noteStage (hd : BitVec 256) (fo : Bool) (s : State) : State :=
  { s with pipes := { s.pipes with hashed := (hd, fo) :: s.pipes.hashed.filter (fun x => x.1 != hd) } }

/-- Store the handle and answer with its first eight bytes; the store waits as one of the hart does (R249, R285). -/
def storeHandle (h : Nat) (area : Word) (d : BitVec 5) (hd : List Byte) (fo : Bool) (s : State) : State :=
  if ownStalls h (area.toNat + 32) 32 .write s then s
  else
  match writeAt (s.who h) (area.toNat + 32) 32 (bytesToNat hd) s with
  | .trap c t s1 => scalarTrap h c t false s1
  | .ok _ s1 =>
    answer h d (BitVec.ofNat 64 (bytesToNat (hd.take 8))) (noteStage (BitVec.ofNat 256 (bytesToNat hd)) fo s1)

/-- pl.hash (R367). -/
def execPlHash (y x : BitVec 1) (b a d : BitVec 5) (s : State) : Out :=
  .next (command (plHashWord y x b a d) (fun H =>
      (H.srcS a x).and ((H.srcS b y).and ((H.dstS d).and
        ((Gate.need ((H.regs.readS a).toNat % 64 == 0) 0x04 (H.regs.readS a)).and
          ((Gate.need ((H.regs.readS b).toNat % 32 == 0) 0x04 (H.regs.readS b)).and
            (Gate.until (H.q0Free (H.regs.readS b).toNat 64))))))) s
    (fun h =>
      let ra := (s.hart h).regs.readS a
      let rb := (s.hart h).regs.readS b
      loadSpan h ra.toNat 64 s (fun rd s1 =>
        loadSpan h rb.toNat 32 s1 (fun dg s2 =>
          let r := bytesToNat rd
          if !stageRecordOk r then scalarTrap h 0x14 ra false s2
          else
            loadSpan h (r / 2 ^ 288 % 2 ^ 64) (r / 2 ^ 352 % 2 ^ 32) s2 (fun prm s3 =>
              storeHandle h rb d (sha3 (handleInput dg r prm)) (r % 2 == 1) s3)))))

/-! ## Tables -/

/-- A pipeline of this device. -/
def State.pipeline (s : State) (ph : Word) : Option Pipeline := s.pipes.pipes.find? (fun P => P.handle == ph)

/-- A stage instance. -/
def State.stageInst (s : State) (id : Nat) : Option StageInstance := s.pipes.insts.find? (fun X => X.id == id)

/-- Replace a pipeline. -/
def setPipeline (P : Pipeline) (s : State) : State :=
  { s with pipes := { s.pipes with pipes := s.pipes.pipes.map (fun Q => if Q.handle = P.handle then P else Q) } }

/-- Replace a stage instance. -/
def setStageInst (X : StageInstance) (s : State) : State :=
  { s with pipes := { s.pipes with insts := s.pipes.insts.map (fun Y => if Y.id = X.id then X else Y) } }

/-- What lies before a receiver. -/
def State.inbox (s : State) (r : Receiver) : Inbox :=
  (s.pipes.inboxes.find? (fun B => B.who == r)).getD { who := r, msgs := [], next := 0, ended := false, failed := false }

/-- Replace an inbox. -/
def setInbox (B : Inbox) (s : State) : State :=
  { s with pipes := { s.pipes with inboxes := B :: s.pipes.inboxes.filter (fun C => C.who != B.who) } }

/-- The instance lies on this device. -/
def State.isHere (s : State) (dev : BitVec 16) : Bool := dev == s.links.lkid

/-- A port is up to a node (R361). -/
def State.nodeUp (s : State) (dev : BitVec 16) : Bool := s.isHere dev || s.ports.toList.any (fun q => q.up && q.peer == dev)

/-- The instance that a stage of a pipeline names: the one launched under the handle, or the one the pipeline uses
(R371). -/
def State.stageOf (s : State) (ph : Word) (k : Nat) : Option StageInstance :=
  match s.pipes.insts.find? (fun X => X.pipe == ph && X.stage == k) with
  | some X => some X
  | none => ((s.pipeline ph).bind (fun P => P.insts[k]?)).bind (fun i => s.stageInst i)

/-- The position after the last message of an inbox. -/
def Inbox.tail (B : Inbox) : Nat := B.next + B.msgs.length

/-- 64 messages wait (R375). -/
def Inbox.full (B : Inbox) : Bool := decide (64 ≤ (B.msgs.filter (fun m => m.live)).length)

/-- The number of stages of a pipeline. -/
def Pipeline.nst (P : Pipeline) : Nat := bits P.header 0 5

/-- Who takes the output of an instance in a pipeline: a receiver on this device, or none when it lies elsewhere; of a
pipeline that another device has bound, the instance of its next stage that lies here (R371). -/
def receiverIn (X : StageInstance) (u : Word) (s : State) : Option Receiver :=
  match s.pipeline u with
  | none =>
    (s.pipes.insts.find? (fun Y => Y.users.contains u && Y.stage == X.stage + 1 && s.isHere Y.dev)).map
      (fun Y => .stage Y.id)
  | some P =>
    if X.stage + 1 < P.nst then
      match (P.insts[X.stage + 1]?).bind (fun i => s.stageInst i) with
      | some Y => if s.isHere Y.dev then some (.stage Y.id) else none
      | none => none
    else some (.sink u)

/-- The receivers of an instance on this device, each once (R371). -/
def localReceivers (X : StageInstance) (s : State) : List Receiver := (X.users.filterMap (fun u => receiverIn X u s)).eraseDups

/-- Some receiver lies on another device. -/
def goesAbroad (X : StageInstance) (s : State) : Bool := X.users.any (fun u => (receiverIn X u s).isNone)

/-! ## Sending (R375) -/

/-- Give a message to a receiver that is due it (R370, R371). -/
def pushMsg (pos : Nat) (data : List Byte) (live : Bool) (r : Receiver) (s : State) : State :=
  let B := s.inbox r
  if pos = B.tail ∧ !B.ended then setInbox { B with msgs := B.msgs ++ [⟨pos, data, live⟩] } s else s

/-- The bytes of a slot of a retention buffer (R368). -/
def slotBytes (mlen : Nat) : Nat := (mlen + 63) / 64 * 64

/-- Keep an emitted message in the retention buffer (R368, R370). -/
def retainMsg (X : StageInstance) (pos : Nat) (data : List Byte) (s : State) : State :=
  if X.retain = 0 ∨ X.key.isNone then s
  else
    let a := X.rbuf.toNat + pos % X.retain * slotBytes X.mlen
    let s1 := writeSpan (unitWho X.ctx X.level) (spanPages data.length) a data s
    match s1.stageInst X.id with
    | none => s1
    | some Y => setStageInst { Y with kept := ((pos, data.length) :: Y.kept).take X.retain } s1

/-- A receiver elsewhere may make the answer wait: a free choice (R375). -/
def abroadFull (abroad : Bool) (s : State) : Bool × State := if abroad then drawBool s else (false, s)

/-- A feed of the source (R371, R375): the answer, or none while it waits. -/
def trySource (ph : Word) (pos : Nat) (data : List Byte) (s : State) : Option Word × State :=
  match s.pipeline ph with
  | none => (some (BitVec.allOnes 64), s)
  | some P =>
    if 2 ≤ P.st.toNat then (some 3, s)
    else
      match (P.insts[0]?).bind (fun i => s.stageInst i) with
      | none => (some (BitVec.allOnes 64), s)
      | some X =>
        let B := s.inbox (.stage X.id)
        if X.owner ≠ some ph then (some 1, s)
        else if pos ≠ B.tail then (some 2, s)
        else if s.isHere X.dev then
          if B.full then (none, s) else (some 0, pushMsg pos data true (.stage X.id) s)
        else
          let (w, s1) := drawBool s
          if w then (none, s1) else (some 0, setInbox { B with next := B.next + 1 } s1)

/-- A send of a stage (R371, R375). -/
def tryStage (ph : Word) (k pos : Nat) (data : List Byte) (s : State) : Option Word × State :=
  match s.stageOf ph k with
  | none => (some (BitVec.allOnes 64), s)
  | some X =>
    if !s.isHere X.dev then (some (BitVec.allOnes 64), s)
    else if X.users.isEmpty then (some 3, s)
    else if pos ≠ X.q then (some 2, s)
    else
      let rs := localReceivers X s
      let (w, s1) := abroadFull (goesAbroad X s) s
      if w || rs.any (fun r => (s1.inbox r).full && (s1.inbox r).tail == pos) then (none, s1)
      else
        let s2 := rs.foldl (fun t r => pushMsg pos data true r t) s1
        (some 0, retainMsg X pos data (setStageInst { X with q := X.q + 1 } s2))

/-- A send. -/
def trySend (ph : Word) (k pos : Nat) (data : List Byte) (s : State) : Option Word × State :=
  if k = 15 then trySource ph pos data s else tryStage ph k pos data s

/-! ## Receiving (R376) -/

/-- The receiver that a descriptor names. -/
def State.receiver (s : State) (ph : Word) (k : Nat) : Option Receiver :=
  if k = 15 then (s.pipeline ph).map (fun _ => .sink ph) else (s.stageOf ph k).map (fun X => .stage X.id)

/-- A receive of a hart: the answer, or none while it waits. The result for a handle that is not known is not stated: it is
free. -/
def tryRecv (h : Nat) (ph : Word) (k : Nat) (addr : Word) (cap : Nat) (s : State) : Option Word × State :=
  match s.receiver ph k with
  | none =>
    let (v, s1) := drawWord s
    (some v, s1)
  | some r =>
    let B := s.inbox r
    match B.msgs with
    | m :: rest =>
      let len := m.data.length
      if cap < len then (some (BitVec.ofNat 64 (2 ^ 62 + len * 2 ^ 40)), s)
      else
        let s1 := writeSpan (s.who h) (spanPages len) addr.toNat m.data s
        (some (BitVec.ofNat 64 (len * 2 ^ 40 + m.pos % 2 ^ 40)), setInbox { B with msgs := rest, next := m.pos + 1 } s1)
    | [] =>
      if B.ended then (some (BitVec.ofNat 64 (2 ^ 63 + (if B.failed then 2 ^ 61 else 0))), s) else (none, s)

/-! ## Commands that wait -/

/-- The hart has an older send of the stage that waits. -/
def Hart.sendsBefore (H : Hart) (id : Nat) (ph : Word) (k : Nat) : Bool :=
  H.cmds.any (fun c => decide (c.id < id) && match c.on with
    | .send p i _ _ => p == ph && i == k
    | _ => false)

/-- Try one waiting command. -/
def settleCmd (h : Nat) (c : PendingCmd) (s : State) : State :=
  let r := match c.on with
    | .send ph k pos data => if (s.hart h).sendsBefore c.id ph k then (none, s) else trySend ph k pos data s
    | .recv ph k addr cap => tryRecv h ph k addr cap s
    | _ => (none, s)
  match r with
  | (none, s1) => s1
  | (some v, s1) => finishCmd h c v s1

/-- The commands that wait, with their harts. -/
def State.waitingCmds (s : State) : List (Nat × PendingCmd) := s.harts.flatMap (fun e => e.2.cmds.map (fun c => (e.1, c)))

/-- Try every waiting send and receive, n times over. -/
def settlePipes : Nat → State → State
  | 0, s => s
  | n + 1, s => settlePipes n (s.waitingCmds.foldl (fun t e => settleCmd e.1 e.2 t) s)

/-- Try them until nothing more can move. -/
def settle (s : State) : State := settlePipes (s.waitingCmds.length + 1) s

/-! ## pl.send and pl.recv -/

/-- The fields of a descriptor that are zero (R374). -/
def descriptorOk (m : BitVec 256) : Bool :=
  bits m 248 8 == 0 && bits m 176 16 == 0 && bits m 132 28 == 0 && bits m 104 24 == 0 && bits m 160 16 != 0

/-- The largest message that the sender may send (R375). -/
def sendLimit (ph : Word) (k : Nat) (s : State) : Nat :=
  if k = 15 then 8192 else ((s.stageOf ph k).map (fun X => X.mlen)).getD 8192

/-- The gate of the commands that read a descriptor at s[A]. -/
def descriptorGate (x : BitVec 1) (a d : BitVec 5) (H : Hart) : Gate :=
  (H.srcS a x).and (H.dstS d)

/-- Send the message that a descriptor names (R375). -/
def sendEffect (h : Nat) (a : Word) (m : BitVec 256) (d : BitVec 5) (s : State) : State :=
  let ph := BitVec.ofNat 64 (bits m 0 64)
  let k := bits m 128 4
  let len := bits m 160 16
  if !descriptorOk m || decide (sendLimit ph k s < len) then scalarTrap h 0x14 a false s
  else if (s.hart h).owes (fun _ => true) then s
  else
    let s1 := forceDone h (fun _ => true) (forceLoads h (fun _ => true) s)
    match readSpan (s1.who h) (spanPages len) (bits m 192 56) len s1 with
    | .trap c t s2 => scalarTrap h c t false s2
    | .ok data s2 => settle (s2.setHart h ((s2.hart h).pendCmd d (.send ph k (bits m 64 40) data)))

/-- pl.send (R375, R384, R386). -/
def execPlSend (x : BitVec 1) (a d : BitVec 5) (s : State) : Out :=
  .next (command (plSendWord x a d) (fun H =>
      (descriptorGate x a d H).and ((Gate.until (!H.gateWaits H.nextId)).and
        ((Gate.need (!(s.journal.ref && s.ownsJournal H.place.lctx.toNat)) 0x15 0).and
          (Gate.need ((H.regs.readS a).toNat % 32 == 0) 0x04 (H.regs.readS a))))) s
    (fun h =>
      let ra := (s.hart h).regs.readS a
      loadRecord h ra 32 s (fun m s1 => sendEffect h ra (BitVec.ofNat 256 m) d s1)))

/-- Receive into the buffer that a descriptor names (R376). -/
def recvEffect (h : Nat) (a : Word) (m : BitVec 256) (d : BitVec 5) (s : State) : State :=
  let len := bits m 160 16
  if !descriptorOk m then scalarTrap h 0x14 a false s
  else
    match checkSpan (s.who h) (spanPages len) (bits m 192 56) len s with
    | .trap c t s1 => scalarTrap h c t false s1
    | .ok _ s1 =>
      settle (s1.setHart h ((s1.hart h).pendCmd d
        (.recv (BitVec.ofNat 64 (bits m 0 64)) (bits m 128 4) (BitVec.ofNat 64 (bits m 192 56)) len)))

/-- pl.recv (R376). -/
def execPlRecv (x : BitVec 1) (a d : BitVec 5) (s : State) : Out :=
  .next (command (plRecvWord x a d) (fun H =>
      (descriptorGate x a d H).and (Gate.need ((H.regs.readS a).toNat % 32 == 0) 0x04 (H.regs.readS a))) s
    (fun h =>
      let ra := (s.hart h).regs.readS a
      loadRecord h ra 32 s (fun m s1 => recvEffect h ra (BitVec.ofNat 256 m) d s1)))

/-! ## Leaving a pipeline (R372, R377, R379) -/

/-- A pipeline leaves an instance: REF falls, the ownership passes on, and with the last user the input ends and the
prefix entry goes (R372). -/
def leaveInst (ph : Word) (failed : Bool) (id : Nat) (s : State) : State :=
  match s.stageInst id with
  | none => s
  | some X =>
    let us := X.users.filter (· != ph)
    let s1 := setStageInst { X with
      users := us
      owner := if X.owner = some ph ∧ !us.isEmpty then us.head? else X.owner
      key := if us.isEmpty then none else X.key } s
    if us.isEmpty then
      let B := s1.inbox (.stage id)
      setInbox { B with ended := true, failed := B.failed || failed } s1
    else s1

/-- The pipeline's stages and sink see the end (R377, R379). -/
def closePipeline (P : Pipeline) (failed : Bool) (s : State) : State :=
  let s1 := P.insts.foldl (fun t i => leaveInst P.handle failed i t) s
  let B := s1.inbox (.sink P.handle)
  let s2 := setInbox { B with ended := true, failed := B.failed || failed } s1
  setPipeline { P with st := if failed then 3 else 2 } s2

/-- The arrival word of a pipeline; the spec gives the link engine no number as a unit, so SRC is free (R377, R379,
R431). -/
def pipeArrive (P : Pipeline) (err : Bool) (s : State) : State :=
  let (src, s1) := drawWord s
  arrive (unitWho P.ctx P.level) (BitVec.ofNat 64 (bits P.header 200 56)) err (src.toNat % 65536) s1

/-- pl.end (R377). -/
def execPlEnd (x : BitVec 1) (a d : BitVec 5) (s : State) : Out :=
  .next (command (plEndWord x a d) (fun H => descriptorGate x a d H) s
    (fun h =>
      let H := s.hart h
      match s.pipeline (H.regs.readS a) with
      | none => answer h d (BitVec.allOnes 64) s
      | some P =>
        if P.ctx ≠ H.place.lctx.toNat then answer h d (BitVec.allOnes 64) s
        else if 2 ≤ P.st.toNat then answer h d 0 s
        else settle (answer h d 0 (pipeArrive P false (closePipeline P false s)))))

/-- The pipeline owns the entry of stage i. -/
def State.ownsEntry (s : State) (P : Pipeline) (i : Nat) : Bool :=
  ((P.insts[i]?).bind (fun id => s.stageInst id)).any (fun X => X.key.isSome && X.owner == some P.handle)

/-- The status of a pipeline (R378). -/
def State.pipeStatus (s : State) (P : Pipeline) : Word :=
  let own := (List.range P.nst).foldl (fun v i => v + if s.ownsEntry P i then 2 ^ i else 0) 0
  BitVec.ofNat 64 (P.st.toNat * 2 ^ 62 + P.depth % 32 * 2 ^ 56 + own * 2 ^ 40 + (s.inbox (.sink P.handle)).next % 2 ^ 40)

/-- pl.stat (R378). -/
def execPlStat (x : BitVec 1) (a d : BitVec 5) (s : State) : Out :=
  .next (command (plStatWord x a d) (fun H => descriptorGate x a d H) s
    (fun h => answer h d (((s.pipeline ((s.hart h).regs.readS a)).map (fun P => s.pipeStatus P)).getD (BitVec.allOnes 64)) s))

/-! ## Binding (R368 to R373) -/

/-- The header obeys R368. -/
def bindHeaderOk (h : BitVec 512) : Bool :=
  bits h 195 5 == 0 && bits h 168 24 == 0 && bits h 5 123 == 0 && bits h 200 56 % 8 == 0 && decide (bits h 192 3 ≤ 5) &&
    decide (1 ≤ bits h 0 5) && decide (bits h 0 5 ≤ 16)

/-- A stage entry obeys R368. -/
def stageEntryOk (e : BitVec 512) : Bool :=
  bits e 112 4 == 0 && bits e 6 58 == 0 && bits e 144 56 % 64 == 0 && decide (bits e 96 8 ≤ bits e 104 8) &&
    decide (1 ≤ bits e 64 16) && decide (bits e 64 16 ≤ 8192)

/-- The prefix keys of a record (R369). -/
def prefixKeys (k : BitVec 256) : List (BitVec 512) → List (BitVec 256)
  | [] => []
  | e :: t =>
    let k1 := BitVec.ofNat 256 (bytesToNat (sha3 (bytesOf 32 k.toNat ++ bytesOf 32 (bits e 256 256))))
    k1 :: prefixKeys k1 t

/-- The prefix entry of a key on this device. -/
def State.entryOf (s : State) (k : BitVec 256) : Option StageInstance :=
  s.pipes.insts.find? (fun X => X.key == some k && s.isHere X.dev)

/-- The fixed-order bit of a stage: that of the record hashed here, otherwise that of an image the device does not see, a
free function of the handle (R55, R366, R368; assumption 7). -/
def State.fixedOrder (s : State) (hd : BitVec 256) : Bool :=
  ((s.pipes.hashed.find? (fun x => x.1 == hd)).map (fun x => x.2)).getD (Config.stageFO hd)

/-- The FO bits of stages 0 to i are all set (R366, R369). -/
def fixedTo (st : List (BitVec 512)) (s : State) (i : Nat) : Bool :=
  (st.take (i + 1)).all (fun e => s.fixedOrder (BitVec.ofNat 256 (bits e 256 256)))

/-- The stages that may be shared: the leading ones with FO = 1 (R366). -/
def sharable (st : List (BitVec 512)) (s : State) : Nat := ((List.range st.length).filter (fixedTo st s)).length

/-- An entry of a key on another device that the record names is a free choice: its tables are not here (R370). -/
def entryAbroad (abroad : Bool) (k : BitVec 256) (s : State) : Bool × State :=
  if (s.entryOf k).isSome then (true, s) else if abroad then drawBool s else (false, s)

/-- The leading stages with an entry. -/
def leading (abroad : Bool) : List (BitVec 256) → State → Nat × State
  | [], s => (0, s)
  | k :: t, s =>
    match entryAbroad abroad k s with
    | (false, s1) => (0, s1)
    | (true, s1) =>
      let (n, s2) := leading abroad t s1
      (n + 1, s2)

/-- The first position that an entry can still give (R370). -/
def StageInstance.low (X : StageInstance) : Nat := max X.first (X.q - X.retain)

/-- The attach depth, from a depth down (R370). -/
def attachDepth (ks : List (BitVec 256)) (p0 : Nat) : Nat → State → Nat × State
  | 0, s => (0, s)
  | d + 1, s =>
    match s.entryOf (ks.getD d 0) with
    | some X => if X.low ≤ p0 then (d + 1, s) else attachDepth ks p0 d s
    | none =>
      let (b, s1) := drawBool s
      if b then (d + 1, s1) else attachDepth ks p0 d s1


/-- A stage instance as its pipeline launches it (R369); one with an entry has a key. -/
def newInst (id : Nat) (ph : Word) (i : Nat) (e : BitVec 512) (key : Option (BitVec 256)) (p0 : Nat) (level : BitVec 2) :
    StageInstance :=
  { id := id, handle := BitVec.ofNat 256 (bits e 256 256), dev := BitVec.ofNat 16 (bits e 80 16), pipe := ph, stage := i,
    ctx := bits e 116 12, level := level, mlen := bits e 64 16, q := p0, key := key, first := p0, retain := bits e 128 16,
    rbuf := BitVec.ofNat 64 (bits e 144 56), kept := [], users := [ph], owner := some ph }

/-- An instance on another device that the pipeline shares: nothing of it is kept here. -/
def foreignInst (id : Nat) (ph : Word) (i : Nat) (e : BitVec 512) (key : BitVec 256) (p0 : Nat) : StageInstance :=
  { newInst id 0 i e (some key) p0 0 with pipe := BitVec.allOnes 64, users := [ph], owner := none }

/-- Add an instance, with an inbox that is due the first position. -/
def addInst (X : StageInstance) (p0 : Nat) (s : State) : State :=
  let s1 := { s with pipes := { s.pipes with insts := s.pipes.insts ++ [X], nextId := s.pipes.nextId + 1 } }
  setInbox { who := .stage X.id, msgs := [], next := p0, ended := false, failed := false } s1

/-- Join the entries of the first d stages: the instances it uses. -/
def joinEntries (ph : Word) (st : List (BitVec 512)) (ks : List (BitVec 256)) (p0 : Nat) : Nat → State → List Nat × State
  | 0, s => ([], s)
  | d + 1, s =>
    let (ids, s1) := joinEntries ph st ks p0 d s
    match s1.entryOf (ks.getD d 0) with
    | some X => (ids ++ [X.id], setStageInst { X with users := X.users ++ [ph] } s1)
    | none =>
      let id := s1.pipes.nextId
      (ids ++ [id], addInst (foreignInst id ph d (st.getD d 0) (ks.getD d 0) p0) p0 s1)

/-- Some free bytes, eight at a time. -/
def freeBytes : Nat → State → List Byte × State
  | 0, s => ([], s)
  | n + 1, s =>
    let (v, s1) := drawWord s
    let (t, s2) := freeBytes n s1
    (bytesOf 8 v.toNat ++ t, s2)

/-- The message of a position out of a retention buffer; its bytes are free when the buffer can no longer be read. -/
def retained (X : StageInstance) (pos : Nat) (s : State) : List Byte × State :=
  let len := ((X.kept.find? (fun k => k.1 == pos)).map (fun k => k.2)).getD 0
  match readBytes (unitWho X.ctx X.level) (X.rbuf.toNat + pos % max 1 X.retain * slotBytes X.mlen) len s with
  | (some d, s1) => (d, s1)
  | (none, s1) =>
    let (d, s2) := freeBytes (len / 8 + 1) s1
    (d.take len, s2)

/-- Give a new receiver the retained positions from p0 on (R370). -/
def replayRetained (X : StageInstance) (r : Receiver) (p0 : Nat) : Nat → State → State
  | 0, s => s
  | n + 1, s =>
    let s1 := replayRetained X r p0 n s
    let (d, s2) := retained X (p0 + n) s1
    pushMsg (p0 + n) d false r s2

/-- Create the instances of stages i on, which the pipeline launches. -/
def launchInsts (ph : Word) (ks : List (BitVec 256)) (st : List (BitVec 512)) (p0 : Nat) (level : BitVec 2) :
    List Nat → State → List Nat × State
  | [], s => ([], s)
  | i :: t, s =>
    let id := s.pipes.nextId
    let key := if fixedTo st s i then some (ks.getD i 0) else none
    let (ids, s1) := launchInsts ph ks st p0 level t (addInst (newInst id ph i (st.getD i 0) key p0 level) p0 s)
    (id :: ids, s1)

/-- The entries of this device's prefix table. -/
def State.prefixCount (s : State) : Nat := (s.pipes.insts.filter (fun X => X.key.isSome && s.isHere X.dev)).length

/-- The queue of a stage takes its launch (R373). -/
def queueTakes (e : BitVec 512) (s : State) : Bool :=
  let Q := s.queueAt (bits e 0 6)
  Q.en && decide (Q.entries.length < 32)

/-- Send stage i's launch to its queue on this device (R372, R373). -/
def queueStage (ph : Word) (i : Nat) (e : BitVec 512) (level : BitVec 2) (s : State) : State :=
  s.setQueue (bits e 0 6) ((s.queueAt (bits e 0 6)).accept
    { addr := BitVec.ofNat 64 (bits e 200 56), captured := none, read := none, ctx := bits e 116 12, level := level,
      bad := false, checked := false, asked := false, clusters := none, pipe := some (ph.toNat, i),
      within := some (bits e 96 8, bits e 104 8), num := 0 })

/-- End every launch of a pipeline: those queued and those resident (R373). -/
def dropLaunches (ph : Word) (s : State) : State :=
  let ours (p : Option (Nat × Nat)) : Bool := p.any (fun x => x.1 == ph.toNat)
  let keep (Q : LaunchQueue) : LaunchQueue := { Q with entries := Q.entries.filter (fun e => !ours e.pipe) }
  let s1 := { s with launch := { s.launch with queues := Vector.ofFn (fun n => keep s.launch.queues[n]) } }
  s1.launch.resident.foldl (fun t e => if ours e.2.pipe then terminateLaunch e.1 t else t) s1

/-- A bind that is refused leaves nothing (R373). -/
def undoBind (P : Pipeline) (s : State) : State :=
  let s1 := P.insts.foldl (fun t i => leaveInst P.handle false i t) (dropLaunches P.handle s)
  { s1 with pipes := { s1.pipes with
    pipes := s1.pipes.pipes.filter (fun Q => Q.handle != P.handle)
    insts := s1.pipes.insts.filter (fun X => X.pipe != P.handle && !(X.users.isEmpty && !s1.isHere X.dev))
    inboxes := s1.pipes.inboxes.filter (fun B => match B.who with
      | .sink h => h != P.handle
      | .stage i => s1.pipes.insts.any (fun X => X.id == i && X.pipe != P.handle)) } }

/-- The refusal reasons (R373). -/
def bindRefused (n : Nat) : Word := 0xFFFFFFFFFFFFFF00#64 + BitVec.ofNat 64 n

/-- Queue the launches of some stages on this device, until one is refused: its reason, or none. -/
def queueStages (ph : Word) (st : List (BitVec 512)) (level : BitVec 2) : List Nat → State → Option Nat × State
  | [], s => (none, s)
  | i :: t, s =>
    let e := st.getD i 0
    if !s.isHere (BitVec.ofNat 16 (bits e 80 16)) then queueStages ph st level t s
    else if 1024 < s.prefixCount then (some 3, s)
    else if !queueTakes e s then (some 2, s)
    else queueStages ph st level t (queueStage ph i e level s)

/-- Bind a record that has passed its checks (R369 to R373). -/
def bindPipeline (h : Nat) (hd : BitVec 512) (st : List (BitVec 512)) (d : BitVec 5) (s : State) : State :=
  let H := s.hart h
  let p0 := bits hd 128 40
  let ks := prefixKeys (BitVec.ofNat 256 (bits hd 256 256)) st
  let abroad := st.any (fun e => !s.isHere (BitVec.ofNat 16 (bits e 80 16)))
  let (n, s1) := leading abroad (ks.take (sharable st s)) s
  let (dp, s2) := attachDepth ks p0 n s1
  let mine := (List.range st.length).drop dp
  let ph := BitVec.ofNat 64 (s.links.lkid.toNat * 2 ^ 48 + s.pipes.seq % 2 ^ 48)
  let far := mine.filter (fun i => !s.isHere (BitVec.ofNat 16 (bits (st.getD i 0) 80 16)))
  if st.any (fun e => !s.nodeUp (BitVec.ofNat 16 (bits e 80 16))) then answer h d (bindRefused 1) s2
  else
    let (shared, s3) := joinEntries ph st ks p0 dp s2
    let (own, s4) := launchInsts ph ks st p0 H.plev mine s3
    let P : Pipeline := {
      handle := ph, ctx := H.place.lctx.toNat, level := H.plev, header := hd, stages := st,
      insts := shared ++ own, depth := dp, st := if far.isEmpty then 1 else 0, waits := far }
    let s5 := setInbox { who := .sink ph, msgs := [], next := p0, ended := false, failed := false }
      { s4 with pipes := { s4.pipes with pipes := s4.pipes.pipes ++ [P] } }
    match queueStages ph st H.plev mine s5 with
    | (some r, s6) => answer h d (bindRefused r) (undoBind P s6)
    | (none, s6) =>
      let s7 := { s6 with pipes := { s6.pipes with seq := s6.pipes.seq + 1 } }
      let first : Receiver := match own with
        | i :: _ => .stage i
        | [] => .sink ph
      let s8 := match (if dp = 0 then none else s7.entryOf (ks.getD (dp - 1) 0)) with
        | some X => replayRetained X first p0 (X.q - p0) s7
        | none => s7
      if far.isEmpty then answer h d ph s8 else s8.setHart h ((s8.hart h).pendCmd d (.bind ph))

/-- Read the stage entries and bind. -/
def bindEffect (h : Nat) (a : Word) (hd : BitVec 512) (d : BitVec 5) (s : State) : State :=
  let n := bits hd 0 5
  match readSpan (s.who h) (spanPages (64 * n)) (a.toNat + 64) (64 * n) s with
  | .trap c t s1 => scalarTrap h c t false s1
  | .ok bs s1 =>
    let st := (List.range n).map (fun i => BitVec.ofNat 512 (bytesToNat ((bs.drop (64 * i)).take 64)))
    if !(bindHeaderOk hd && st.all stageEntryOk) then scalarTrap h 0x14 a false s1 else bindPipeline h hd st d s1

/-- pl.bind (R373): the reads of the stage entries too wait for the copies of the hart that write there (R249). -/
def execPlBind (x : BitVec 1) (a d : BitVec 5) (s : State) : Out :=
  .next (command (plBindWord x a d) (fun H =>
      (descriptorGate x a d H).and ((Gate.need ((H.regs.readS a).toNat % 64 == 0) 0x04 (H.regs.readS a)).and
        (Gate.until (!H.owes (fun _ => true))))) s
    (fun h =>
      let ra := (s.hart h).regs.readS a
      loadRecord h ra 64 (forceDone h (fun _ => true) (forceLoads h (fun _ => true) s)) (fun m s1 =>
        if ownStalls h (ra.toNat + 64) (64 * (m % 32)) .read s1 then s else bindEffect h ra (BitVec.ofNat 512 m) d s1)))

/-! ## What peers do (R371 to R373, R379) -/

/-- Answer the pl.bind of a pipeline. -/
def answerBind (ph v : Word) (s : State) : State :=
  answerAll (fun a => match a with
    | .bind p => if p = ph then some v else none
    | _ => none) s

/-- Another device answers the launch of stage i: 0 queued, otherwise the reason of the refusal (R373). -/
def bindAnswer (ph : Word) (i reason : Nat) (s : State) : State :=
  match s.pipeline ph with
  | none => s
  | some P =>
    if !P.waits.contains i then s
    else if reason ≠ 0 then answerBind ph (bindRefused reason) (undoBind P s)
    else
      let w := P.waits.filter (· != i)
      let s1 := setPipeline { P with waits := w, st := if w.isEmpty && P.st == 0 then 1 else P.st } s
      if w.isEmpty then answerBind ph ph s1 else s1

/-- A message from a stage on another device (R371, R374). -/
def peerPipeMessage (ph : Word) (k pos : Nat) (data : List Byte) (s : State) : State :=
  match s.receiver ph k with
  | none => s
  | some r => if (s.inbox r).full || data.isEmpty || decide (8192 < data.length) then s else settle (pushMsg pos data true r s)

/-- The input of a receiver on this device ends, as the device that feeds it says (R376, R377, R379). -/
def peerEndOfStream (ph : Word) (k : Nat) (failed : Bool) (s : State) : State :=
  match s.receiver ph k with
  | none => s
  | some r =>
    let B := s.inbox r
    settle (setInbox { B with ended := true, failed := B.failed || failed } s)

/-- The receiver here of an instance's output in a pipeline of another device gets the retained positions that it is due
(R370, R371). -/
def catchUp (X : StageInstance) (ph : Word) (s : State) : State :=
  match receiverIn X ph s with
  | some r => replayRetained X r (s.inbox r).tail (X.q - (s.inbox r).tail) s
  | none => s

/-- A pipeline of another device launches stage k here: the entry's 64 bytes, and its key when it gets a prefix entry
(R369, R373). -/
def peerBind (ph : Word) (k p0 : Nat) (d : List Byte) (s : State) : State :=
  let e := BitVec.ofNat 512 (bytesToNat (d.take 64))
  let key := if d.length = 96 then some (BitVec.ofNat 256 (bytesToNat (d.drop 64))) else none
  if !stageEntryOk e || !s.isHere (BitVec.ofNat 16 (bits e 80 16)) || !queueTakes e s || (key.isSome && decide (1024 ≤ s.prefixCount))
  then s
  else
    let s1 := addInst (newInst s.pipes.nextId ph k e key p0 1) p0 s
    let s2 := match s1.pipes.insts.find? (fun X => X.users.contains ph && X.stage + 1 == k && s1.isHere X.dev) with
      | some X => catchUp X ph s1
      | none => s1
    settle (queueStage ph k e 1 s2)

/-- A pipeline of another device joins or leaves the entry of a key (R370, R372). -/
def peerAttach (ph : Word) (join : Bool) (key : BitVec 256) (s : State) : State :=
  match s.entryOf key with
  | none => s
  | some X =>
    if join then
      if X.users.contains ph then s
      else
        let Y := { X with users := X.users ++ [ph] }
        settle (catchUp Y ph (setStageInst Y s))
    else settle (leaveInst ph false X.id s)

/-- The device that hosts an entry says that a pipeline bound here owns it now, and the next position of the stage (R371, R372,
R375). -/
def peerOwner (ph : Word) (next : Nat) (key : BitVec 256) (s : State) : State :=
  match s.pipes.insts.find? (fun X => X.key == some key && X.users.contains ph && !s.isHere X.dev) with
  | some X => setInbox { s.inbox (.stage X.id) with next := next } (setStageInst { X with owner := some ph } s)
  | none => s

/-- The bind of a pipeline of another device has been refused: its launches and its instances here end (R373). -/
def peerUnbind (ph : Word) (s : State) : State :=
  if (s.pipeline ph).isSome then s
  else
    let s1 := (s.pipes.insts.filter (fun X => X.users.contains ph)).foldl (fun t X => leaveInst ph false X.id t) (dropLaunches ph s)
    settle { s1 with pipes := { s1.pipes with insts := s1.pipes.insts.filter (fun X => X.pipe != ph) } }

/-- A pipeline fails: a device that hosts one of its stages is lost (R379). One whose bind still waits is refused with reason
1, and nothing of it stays (R373; assumption 49, DEDUCED). -/
def failPipeline (P : Pipeline) (s : State) : State :=
  if P.st = 0 then answerBind P.handle (bindRefused 1) (undoBind P s)
  else pipeArrive P true (closePipeline P true s)

/-- A pipeline of a node, bound there: its handle holds the node's identifier (R373). -/
def boundOn (dev : BitVec 16) (ph : Word) (s : State) : Bool := (s.pipeline ph).isNone && bits ph 48 16 == dev.toNat

/-- The instances here that pipelines of a lost node use: those pipelines leave them, and an instance that none uses any more
sees end of stream with bit 61 (R372, R379; assumption 49, DEDUCED). -/
def failGuests (dev : BitVec 16) (s : State) : State :=
  s.pipes.insts.foldl (fun t X =>
    if s.isHere X.dev then (X.users.filter (fun u => boundOn dev u s)).foldl (fun t u => leaveInst u true X.id t) t else t) s

/-- The pipelines with a stage on a lost node fail, and those that the node has bound (R379). -/
def failOn (dev : BitVec 16) (s : State) : State :=
  let hit := s.pipes.pipes.filter (fun P => decide (P.st.toNat < 2) &&
    P.insts.any (fun i => (s.stageInst i).any (fun X => X.dev == dev)))
  settle (failGuests dev (hit.foldl (fun t P => failPipeline P t) s))

end Sys2Proof.Machine
end

