-- ==== Sys2Proof/Machine/Links.lean ====
section
/-!
DEFINITION. The peer ports and the host link: flits, messages, key epochs, ports that come up and go down, requests of
peers and of the host to this device's memory (R210, R358 to R365).
-/
namespace Sys2Proof.Machine

/-! ## Ports -/

/-- Port p. -/
def State.port (s : State) (p : Nat) : Port := if hp : p < 16 then s.ports[p] else Port.initial

/-- Replace port p. -/
def State.setPort (s : State) (p : Nat) (P : Port) : State :=
  if hp : p < 16 then { s with ports := s.ports.set p P } else s

/-- The CRC-64 of some bytes, most significant bit first, from 0 (R360; the start and the bit order are PRESUMED,
assumption 27). -/
def crc64 (d : List Byte) : BitVec 64 :=
  d.foldl (fun c b => (List.range 8).foldl (fun x _ =>
    if x.getLsbD 63 then (x <<< 1) ^^^ 0x42F0E1EBA9EA3693#64 else x <<< 1) (c ^^^ (b.setWidth 64).shiftLeft 56)) 0#64

/-- A new key epoch in the receiving direction: its message counter starts at 0 (R362). -/
def Port.newEpoch (P : Port) : Port := { P with rxEpoch := P.rxEpoch + 1, rxCount := 0 }

/-- A retry is asked for (R361, R391). -/
def Port.retried (P : Port) : Port := { P with retry := min 0xFFFF (P.retry + 1) }

/-- The acknowledgment of a header empties the replay buffer up to its SEQ (R361). -/
def Port.acked (P : Port) (ack : Nat) : Port :=
  let n := (P.txSeq.toNat + 65535 - ack) % 65536
  { P with unacked := if n ≤ P.unacked then n else P.unacked }

/-- A flit of a message: how many flits the message has so far; with its LAST the message is complete (R362). -/
def Port.message (P : Port) (vc : Nat) (first last : Bool) : Port :=
  if hv : vc < 4 then
    let n := if first then 1 else P.parts[vc] + 1
    { P with parts := P.parts.set vc (if last then 0 else n) }
  else P

/-- Credits come back for a channel (R360). -/
def Port.credited (P : Port) (vc n : Nat) : Port :=
  if hv : vc < 4 then { P with credit := P.credit.set vc (P.credit[vc] + n) } else P

/-- A good flit, the next one due (R360, R361). -/
def Port.takeFlit (P : Port) (hd : Word) : Port :=
  let f := bits hd
  let P1 := (({ P with rxSeq := P.rxSeq + 1 }).acked (f 32 16)).credited (f 22 2) (f 24 8)
  match f 0 4 with
  | 0 => P1
  | 1 => P1.message (f 20 2) (f 19 1 == 1) (f 18 1 == 1)
  | 2 => P1.newEpoch
  | _ => { P1 with odd := P1.odd + 1 }

/-- A flit arrives: discarded when its CRC fails or when it is not the next one due, with a retry asked for (R360,
R361). -/
def execFlitReceive (p : Nat) (r : List Byte) (s : State) : Out :=
  .next (
    let P := s.port p
    if !P.up || r.length != 144 then s
    else
      let hd := BitVec.ofNat 64 (bytesToNat (r.take 8))
      if crc64 (r.take 136) ≠ BitVec.ofNat 64 (bytesToNat (r.drop 136)) ∨ bits hd 48 16 ≠ P.rxSeq.toNat then
        s.setPort p P.retried
      else s.setPort p (P.takeFlit hd))

/-- A flit that changes the key epoch (R362). -/
def execKeyEpochChange (p : Nat) (s : State) : Out :=
  .next (if (s.port p).up then s.setPort p (s.port p).newEpoch else s)

/-- A port that has sent nothing for 256 cycles sends an idle flit, when its replay buffer has room (R361). -/
def execIdleFlitSend (p : Nat) (s : State) : Out :=
  .next (
    let P := s.port p
    if P.up && decide (P.unacked < 256) then s.setPort p { P with txSeq := P.txSeq + 1, unacked := P.unacked + 1 } else s)

/-! ## Ports that go down and come up (R361, R364, R379, R385, R392) -/

/-- A peer is lost: its accesses are resolved, the tailstock is replaced, its pipelines fail, its mirror entries close. -/
def nodeLost (dev : BitVec 16) (s : State) : State :=
  let lost (q : Nat) : Bool := (s.port q).peer == dev
  let s1 := (s.harts.map (fun e => e.1)).foldl (fun t h => peerLost h lost t) s
  let s2 := closeMirrors dev s1
  let s3 := if s2.tailUnreached then tailLost s2 else s2
  failOn dev s3

/-- Port p goes down. -/
def portDown (p : Nat) (s : State) : State :=
  let P := s.port p
  if !P.up then s
  else
    let s1 := s.setPort p { P with up := false, unacked := 0, parts := Vector.replicate 4 0 }
    if s1.ports.toList.any (fun q => q.up && q.peer == P.peer) then s1 else nodeLost P.peer s1

/-- No good flit for longer than lklive allows (R361). -/
def execPortLivenessExpiry (p : Nat) (s : State) : Out := .next (portDown p s)

/-- A port comes up with a peer, in a new key epoch; ports train in the full service only (R361, R363, R423). -/
def execPortTrainUp (p n w : Nat) (s : State) : Out :=
  .next (
    let P := s.port p
    if P.up || s.trust.bstSt != 3 then s
    else s.setPort p { P.newEpoch with
      up := true, peer := BitVec.ofNat 16 n, lanes := w, rxSeq := 0, txSeq := 0, unacked := 0,
      parts := Vector.replicate 4 0, credit := Vector.replicate 4 0, txEpoch := P.txEpoch + 1 })

/-! ## Messages (R362) -/

/-- A message that fails authentication: AUTHF, the port goes down, the event is logged (R362). -/
def authFailure (p : Nat) (s : State) : State :=
  let s1 := s.setPort p { s.port p with authf := true }
  logError (portDown p s1) 8 ⟨BitVec.ofNat 56 p, 8, 0, p, 1, 0⟩

/-- What a message that passes authentication asks for, by its kind: a message of a pipeline, a record refused by the
tailstock, the answer to a launch, a mirror entry to clear, records to drop, the end of a stream, a launch of a peer's
pipeline, a peer's pipeline that joins or leaves an entry, an entry that a pipeline of this device owns now, a bind of a
peer that was refused, room for messages that wait. -/
def deliver (p k : Nat) (x y z : Word) (r : List Byte) (s : State) : State :=
  match k with
  | 1 => peerPipeMessage x (bits y 0 4) (bits z 0 40) r s
  | 2 => if s.journal.tail.any (fun i => bits (s.candidate i) 0 16 == (s.peerOn p).toNat) then tailLost s else s
  | 3 => bindAnswer x (bits y 0 4) (bits z 0 8) s
  | 4 => clearMirror (s.peerOn p) (bits x 0 4) s
  | 5 => truncMirror (s.peerOn p) (bits x 0 4) (bits y 0 56) s
  | 6 => peerEndOfStream x (bits y 0 4) (z.getLsbD 0) s
  | 7 => peerBind x (bits y 0 4) (bits z 0 40) r s
  | 8 => peerAttach x true (BitVec.ofNat 256 (bytesToNat r)) s
  | 9 => peerAttach x false (BitVec.ofNat 256 (bytesToNat r)) s
  | 10 => peerOwner x (bits y 0 40) (BitVec.ofNat 256 (bytesToNat r)) s
  | 11 => peerUnbind x s
  | _ => settle s

/-- A complete message (R362). -/
def execPeerMessageReceive (p k : Nat) (x y z : Word) (r : List Byte) (s : State) : Out :=
  .next (
    let P := s.port p
    if !P.up then s
    else if k = 0 then authFailure p s
    else deliver p k x y z r (s.setPort p { P with rxCount := P.rxCount + 1 }))

/-! ## Requests of peers (R363 to R365) -/

/-- The n bytes from a physical address lie in stack memory and in the port's window (R363, R391). -/
def inWindow (P : Port) (a n : Nat) : Bool :=
  let lo := bits P.lkinb 30 22 * 2 ^ 30
  P.lkinb.getLsbD 63 && isStackPa a && isStackPa (a + n - 1) && decide (lo ≤ a) &&
    decide (a + n ≤ lo + bits P.lkinb 0 22 * 2 ^ 30)

/-- A leaf with S = 1 maps a byte of the n from a physical address (R216). -/
def sealsPage (p : BitVec 64) (a n : Nat) : Bool :=
  ebits p 61 1 == 1 && decide (ptePa p < a + n) && decide (a < ptePa p + pageBytes (ebits p 56 3))

/-- The valid entries of the table at an address, at a level (R213, R214): V is a bit of an entry's first byte, which memory
lists when it is not 0. -/
def tableEntries (level table : Nat) (ms : MemSys) : List (BitVec 64) :=
  ((ms.cells.filter (fun c => decide (table ≤ c.1) && decide (c.1 < table + 4096) && c.1 % 8 == 0)).map
    (fun c => BitVec.ofNat 64 (memRead ms none c.1 8))).filter (fun p => ebits p 0 1 == 1 && !pteMalformed level p)

/-- The tables from one at a level downwards map a byte of the n from a physical address with S = 1. -/
def sealedIn (ms : MemSys) (a n : Nat) : Nat → Nat → Bool
  | 0, table => (tableEntries 0 table ms).any (fun p => sealsPage p a n)
  | level + 1, table => (tableEntries (level + 1) table ms).any (fun p =>
      if ebits p 1 1 == 1 then sealsPage p a n else sealedIn ms a n level (ptePa p))

/-- The entries of the context table whose OPEN bit memory lists, and those that the device holds (R212). -/
def contextEntries (s : State) : List (BitVec 256) :=
  s.mm.ctxs.map (fun e => e.2) ++
    ((s.mm.cells.filter (fun c =>
      decide (s.ctxTable ≤ c.1) && decide (c.1 < s.ctxTable + 4096 * 32) && (c.1 - s.ctxTable) % 32 == 8)).map
      (fun c => BitVec.ofNat 256 (memRead s.mm none (c.1 - 8) 32)))

/-- A byte of the n from a physical address lies in a sealed page: a leaf with S = 1 maps it in the page tables of an open
context, or in a TLB (R212, R216, R359, R363; assumption 14). -/
def sealedAt (s : State) (a n : Nat) : Bool :=
  s.mm.tlb.any (fun e => sealsPage e.pte a n) ||
    (contextEntries s).any (fun e => ctxOpen e && sealedIn s.mm a n 4 (ebits e 12 40 * 4096))

/-- Where an inbound request for an address goes: a page whose copy is complete is redirected (R365, R405). -/
def redirected (m : Migration) (a : Nat) : Nat :=
  match m.redirect.find? (fun e => decide (e.1 ≤ a) && decide (a < e.1 + e.2.2)) with
  | some (old, new, _) => new + (a - old)
  | none => a

/-- The pieces of an inbound request, each in one 4 KiB page, where the redirect table sends them (R365). -/
def inboundPieces (amo : Bool) (a n : Nat) (s : State) : List (Nat × Nat) :=
  (if amo then [(a, n)] else pieces a n (n / 4096 + 2)).map (fun q => (redirected s.mm.mig q.1, q.2))

/-- A plain location in physical memory. -/
def physLoc (a n : Nat) : Loc := ⟨a, n, a, n, none, none, 0, 0, false, false, false, false, false, true⟩

/-- The link engine performs a peer's request as an agent of the device scope: 0 a read, 1 a write, 2 and on an amo of
R24, with its operand and its compare value in the message (R364). -/
def inboundPerform (k a n : Nat) (d : List Byte) (s : State) : State :=
  match k with
  | 0 => physRead a n s
  | 1 => physWrite a n (bytesToNat (d.take n)) s
  | _ =>
    let s1 := departConflicts none a n true s
    (amoPerform (unitWho 0 1) (physLoc a n) (AmoOp.of (k - 2)) (BitVec.ofNat 64 (bytesToNat (d.take 8)))
      (BitVec.ofNat 64 (bytesToNat (d.drop 8))) s1).2.2

/-- A request arrives: performed inside the window, or answered with an error and logged (R363). -/
def execInboundRequest (p k a n : Nat) (r : List Byte) (s : State) : Out :=
  .next (
    let P := s.port p
    let ps := inboundPieces (decide (2 ≤ k)) a n s
    if !P.up || n = 0 || (decide (2 ≤ k) && n != (AmoOp.of (k - 2)).size) then s
    else if !inWindow P a n || ps.any (fun q => sealedAt s q.1 q.2) then logError s 8 ⟨BitVec.ofNat 56 a, 10, 0, p, 1, 0⟩
    else (ps.foldl (fun r q => (r.1.drop q.2, inboundPerform k q.1 q.2 r.1 r.2)) (r, s)).2)

/-! ## The host link (R210, R358, R359) -/

/-- The host reads n bytes or writes w at an address of stack memory (R210); a request beyond it, or before the full service,
is not supported, a request to a sealed page is dropped or answered with poison, and logged (R359, R423). -/
def execCxlMemRequest (a : Nat) (w : List Byte) (n : Nat) (s : State) : Out :=
  .next (
    let len := if w.isEmpty then n else w.length
    if !s.links.hostUp || s.trust.bstSt != 3 || len = 0 || !isStackPa a || !isStackPa (a + len - 1) then s
    else if sealedAt s a len then logError s 8 ⟨BitVec.ofNat 56 a, 9, 0, 0, 1, 0⟩
    else if w.isEmpty then physRead a len s
    else physWrite a len (bytesToNat w) s)

/-- A snoop of a host line: dirty sectors go back, L1 copies go, and the line is given up or demoted, a free choice; one
for a write of the host takes the line away (R210). -/
def snoopLine (ln : Nat) (writes : Bool) (s : State) : State :=
  match tfind s.mm.l2 ln with
  | none => s
  | some line =>
    let (keep, s1) := drawBool s
    if keep && !writes then
      { s1 with harts := dropL1 ln line.presence none s1.harts }.setMem
        (line.writeBack ln { s1.mm with l2 := tput s1.mm.l2 ln { line with dirty := 0, presence := 0, owned := false } })
    else evictLine ln line s1

/-- A host snoop of a line; with data the host then writes them to its own memory at the address, where they lie in the
line (R210, R323). -/
def execHostSnoop (a : Snoop) (s : State) : Out :=
  .next (
    if !isHostPa a.addr || decide (64 < a.addr % 64 + a.data.length) then s
    else
      let s1 := snoopLine (a.addr / 64) (!a.data.isEmpty) s
      if a.data.isEmpty then s1 else s1.setMem (memWrite s1.mm none a.addr a.data.length (bytesToNat a.data)))

/-- An integrity failure of CXL.cachemem takes the link down and is logged; the spec gives the entry no TYPE (R359). -/
def execCxlIdeFailure (s : State) : Out :=
  .next (
    let (ty, s1) := drawWord s
    logError { s1 with links := { s1.links with hostUp := false } } 8 ⟨0, ty.toNat % 16, 0, 0, 1, 0⟩)

/-- The host link comes up at 16, 8 or 4 lanes (R358). -/
def execHostLinkTrained (w : Nat) (s : State) : Out :=
  .next (if w = 16 ∨ w = 8 ∨ w = 4 then { s with links := { s.links with hostUp := true, hostWidth := w } } else s)

end Sys2Proof.Machine
end

