-- ==== Sys2Proof/Machine/Memory.lean ====
section
/-!
DEFINITION. The scalar loads, stores and atomics with the events that return their data, sbar and fence, and the memory
management instructions (R119 to R129, R217, R224 to R226, R364).
-/
namespace Sys2Proof.Machine

/-! ## Loads and stores -/

/-- A scalar load: the address, its alignment, the access (R119). -/
def loadOp (word size : Nat) (signed : Bool) (i : BitVec 10) (q : BitVec 2) (x : BitVec 1) (a d : BitVec 5) (s : State) :
    State :=
  onScalar word s (fun h =>
    let H := s.hart h
    let ea := H.regs.readS a + simm i * BitVec.ofNat 64 size
    gated h ((H.srcS a x).and ((H.dstS d).and (Gate.need (ea.toNat % size == 0) 0x04 ea))) s
      (loadAt h size signed q.toNat ea d s))

/-- A scalar store: it waits for confirmation, and s[d] always waits (R16, R106, R121). -/
def storeOp (word size : Nat) (i : BitVec 10) (q : BitVec 2) (x : BitVec 1) (a d : BitVec 5) (s : State) : State :=
  onScalar word s (fun h =>
    let H := s.hart h
    let ea := H.regs.readS a + simm i * BitVec.ofNat 64 size
    gated h ((H.srcS a x).and ((H.srcS d 1).and (H.confirmed.and (Gate.need (ea.toNat % size == 0) 0x04 ea)))) s
      (storeAt h size q.toNat ea (H.regs.readS d) s))

/-- A scalar atomic: it waits for confirmation; s[d] is also the compare value of cas.d (R24, R106, R123). -/
def amoOp (word : Nat) (op : AmoOp) (y x : BitVec 1) (b a d : BitVec 5) (s : State) : State :=
  onScalar word s (fun h =>
    let H := s.hart h
    let ea := H.regs.readS a
    gated h ((H.srcS a x).and ((H.srcS b y).and ((H.dstS d).and (H.confirmed.and
      (Gate.need (ea.toNat % op.size == 0) 0x04 ea))))) s
      (amoAt h op ea (H.regs.readS b) (H.regs.readS d) d s))

def execLdB (i : BitVec 10) (q : BitVec 2) (x : BitVec 1) (a d : BitVec 5) (s : State) : Out :=
  .next (loadOp (ldBWord i q x a d) 1 true i q x a d s)
def execLdBu (i : BitVec 10) (q : BitVec 2) (x : BitVec 1) (a d : BitVec 5) (s : State) : Out :=
  .next (loadOp (ldBuWord i q x a d) 1 false i q x a d s)
def execLdH (i : BitVec 10) (q : BitVec 2) (x : BitVec 1) (a d : BitVec 5) (s : State) : Out :=
  .next (loadOp (ldHWord i q x a d) 2 true i q x a d s)
def execLdHu (i : BitVec 10) (q : BitVec 2) (x : BitVec 1) (a d : BitVec 5) (s : State) : Out :=
  .next (loadOp (ldHuWord i q x a d) 2 false i q x a d s)
def execLdW (i : BitVec 10) (q : BitVec 2) (x : BitVec 1) (a d : BitVec 5) (s : State) : Out :=
  .next (loadOp (ldWWord i q x a d) 4 true i q x a d s)
def execLdWu (i : BitVec 10) (q : BitVec 2) (x : BitVec 1) (a d : BitVec 5) (s : State) : Out :=
  .next (loadOp (ldWuWord i q x a d) 4 false i q x a d s)
def execLdD (i : BitVec 10) (q : BitVec 2) (x : BitVec 1) (a d : BitVec 5) (s : State) : Out :=
  .next (loadOp (ldDWord i q x a d) 8 false i q x a d s)
def execStB (i : BitVec 10) (q : BitVec 2) (x : BitVec 1) (a d : BitVec 5) (s : State) : Out :=
  .next (storeOp (stBWord i q x a d) 1 i q x a d s)
def execStH (i : BitVec 10) (q : BitVec 2) (x : BitVec 1) (a d : BitVec 5) (s : State) : Out :=
  .next (storeOp (stHWord i q x a d) 2 i q x a d s)
def execStW (i : BitVec 10) (q : BitVec 2) (x : BitVec 1) (a d : BitVec 5) (s : State) : Out :=
  .next (storeOp (stWWord i q x a d) 4 i q x a d s)
def execStD (i : BitVec 10) (q : BitVec 2) (x : BitVec 1) (a d : BitVec 5) (s : State) : Out :=
  .next (storeOp (stDWord i q x a d) 8 i q x a d s)

/-! ## Atomics; the scope c orders q0 only, and the model performs at device scope at once (assumption 10) -/

def execAmoAddW (c : BitVec 3) (y x : BitVec 1) (b a d : BitVec 5) (s : State) : Out :=
  .next (amoOp (amoAddWWord c y x b a d) .addW y x b a d s)
def execAmoAddD (c : BitVec 3) (y x : BitVec 1) (b a d : BitVec 5) (s : State) : Out :=
  .next (amoOp (amoAddDWord c y x b a d) .addD y x b a d s)
def execAmoMinD (c : BitVec 3) (y x : BitVec 1) (b a d : BitVec 5) (s : State) : Out :=
  .next (amoOp (amoMinDWord c y x b a d) .minD y x b a d s)
def execAmoMaxD (c : BitVec 3) (y x : BitVec 1) (b a d : BitVec 5) (s : State) : Out :=
  .next (amoOp (amoMaxDWord c y x b a d) .maxD y x b a d s)
def execAmoMinuD (c : BitVec 3) (y x : BitVec 1) (b a d : BitVec 5) (s : State) : Out :=
  .next (amoOp (amoMinuDWord c y x b a d) .minuD y x b a d s)
def execAmoMaxuD (c : BitVec 3) (y x : BitVec 1) (b a d : BitVec 5) (s : State) : Out :=
  .next (amoOp (amoMaxuDWord c y x b a d) .maxuD y x b a d s)
def execAmoSwapD (c : BitVec 3) (y x : BitVec 1) (b a d : BitVec 5) (s : State) : Out :=
  .next (amoOp (amoSwapDWord c y x b a d) .swapD y x b a d s)
def execAmoCasD (c : BitVec 3) (y x : BitVec 1) (b a d : BitVec 5) (s : State) : Out :=
  .next (amoOp (amoCasDWord c y x b a d) .casD y x b a d s)
def execAmoFaddS (c : BitVec 3) (y x : BitVec 1) (b a d : BitVec 5) (s : State) : Out :=
  .next (amoOp (amoFaddSWord c y x b a d) .faddS y x b a d s)
def execAmoFaddD (c : BitVec 3) (y x : BitVec 1) (b a d : BitVec 5) (s : State) : Out :=
  .next (amoOp (amoFaddDWord c y x b a d) .faddD y x b a d s)

/-! ## Returns -/

/-- Data of the n-th pending load returns (R101, R119). -/
def execLoadDataReturn (h n : Nat) (s : State) : Out := .next (dataReturn h n .load s)

/-- The old value of the n-th pending amo returns (R101, R123). -/
def execAmoReturn (h n : Nat) (s : State) : Out := .next (dataReturn h n .amo s)

/-- A peer answers the n-th pending access of the hart: 0 performed, 1 error, 2 poisoned (R364); a terminated launch may
have waited for it (R393). -/
def execRemoteResponse (h n k : Nat) (s : State) : Out := .next (finishEndings (remoteAnswer h n k s))

/-! ## sbar and fence (R224 to R226) -/

/-- Every older access of the selected streams is performed before anything younger, of the vector side those of completed
entries: local ones now, and a peer's answer is waited for (R224). -/
def barrier (word : Nat) (f : Nat → Bool) (s : State) : State :=
  onScalar word s (fun h =>
    let H := s.hart h
    gated h (H.confirmed.and (Gate.until (!H.owes (fun p => f p.stream)))) s
      (let s1 := forceDone h (fun A => f A.stream) (forceLoads h (fun p => f p.stream) s)
       s1.setHart h (s1.hart h).advance))

/-- sbar on the streams of a mask (R225). -/
def execSbar (c : BitVec 3) (m : BitVec 16) (s : State) : Out :=
  .next (barrier (sbarWord c m) (fun q => m.getLsbD q) s)

/-- fence: every stream (R226). -/
def execFence (c : BitVec 3) (s : State) : Out := .next (barrier (fenceWord c) (fun _ => true) s)

/-! ## mm (R128, R129) -/

/-- The line of s[a] in its turn on q0: translated as a load, of no alignment, and handed to f. -/
def lineOp (word : Nat) (x : BitVec 1) (a : BitVec 5) (f : Nat → Loc → State → State) (s : State) : State :=
  onScalar word s (fun h =>
    let H := s.hart h
    gated h ((H.srcS a x).and (H.confirmed.and (Gate.until (!H.owes (onStream 0))))) s
      (match access (s.who h) (H.regs.readS a).toNat 1 .read s with
       | .trap c t s1 => scalarTrap h c t false s1
       | .ok l s1 =>
         let s2 := f h l (forceLoads h (onStream 0) s1)
         s2.setHart h (s2.hart h).advance))

/-- l1inv drops the line from the hart's L1 (R128). -/
def execL1inv (x : BitVec 1) (a : BitVec 5) (s : State) : Out :=
  .next (lineOp (l1invWord x a) x a (fun h l t =>
    let H := t.hart h
    if l.phys then t.setHart h { H with l1 := H.l1.filter (· != l.key / 64) } else t) s)

/-- l2wb writes a dirty line back and keeps it valid (R128). -/
def execL2wb (x : BitVec 1) (a : BitVec 5) (s : State) : Out :=
  .next (lineOp (l2wbWord x a) x a (fun _ l t =>
    match tfind t.mm.l2 (l.key / 64) with
    | some line =>
      if l.phys then t.setMem (line.writeBack (l.key / 64) { t.mm with l2 := tput t.mm.l2 (l.key / 64) { line with dirty := 0 } })
      else t
    | none => t) s)

/-- The level a kernel instruction needs (R7, R127). -/
def Hart.kernelGate (H : Hart) (word : Nat) : Gate := Gate.need (1 ≤ H.plev.toNat) 0x13 (BitVec.ofNat 64 word)

/-- tlbinv starts an invalidation over the device (R128, R217). -/
def execTlbinv (x : BitVec 1) (a : BitVec 5) (s : State) : Out :=
  .next (onScalar (tlbinvWord x a) s (fun h =>
    let H := s.hart h
    gated h (H.confirmed.and ((H.kernelGate (tlbinvWord x a)).and (H.srcS a x))) s
      (let v := H.regs.readS a
       let n := s.mm.nextInv
       let s1 := s.setMem { s.mm with
         invs := s.mm.invs ++ [⟨n, h, bits v 0 12, bits v 12 44 * 4096⟩], nextInv := n + 1 }
       s1.setHart h { H with invs := H.invs ++ [n] }.advance)))

/-- tlbsync waits for every older tlbinv of the hart (R128). -/
def execTlbsync (s : State) : Out :=
  .next (onScalar tlbsyncWord s (fun h =>
    let H := s.hart h
    gated h (H.confirmed.and ((H.kernelGate tlbsyncWord).and (Gate.until H.invs.isEmpty))) s (s.setHart h H.advance)))

/-- An access at a virtual address may use a translation that the invalidation removes: the two lie in one granule of the
largest page, or the invalidation removes the whole context (R213, R217). -/
def Invalidation.mayHit (i : Invalidation) (va : Nat) : Bool := decide (0xFFF00000000000 ≤ i.va) || va / 2 ^ 34 == i.va / 2 ^ 34

/-- The invalidation removes a held translation. -/
def Invalidation.hits (i : Invalidation) (e : TlbEntry) : Bool :=
  e.ctx == i.ctx && (decide (0xFFF00000000000 ≤ i.va) || e.covers i.ctx i.va)

/-- A hart holds up an invalidation: an access at a peer, a
translation that its vector instruction holds, an element of a copy that has been translated and not written, an event
update (R218, R247, R311, R364). -/
def Hart.holdsUp (H : Hart) (i : Invalidation) : Bool :=
  H.vec.xlats.any i.hits ||
    (H.place.lctx.toNat == i.ctx &&
      (H.loads.any (fun p => p.remote && i.mayHit p.ea.toNat) || !H.updates.isEmpty ||
        H.chans.toList.any (fun C => C.copies.any (fun J => !J.moves.isEmpty))))

/-- A near-bank job holds it up: a load that has not been read, or a store that has not been written (R265, R268). -/
def NbJob.holdsUp (J : NbJob) (i : Invalidation) : Bool :=
  J.ctx == i.ctx &&
    (J.loads.any (fun l => l.data.isNone && !J.parked && i.mayHit l.va) || J.stores.any (fun t => i.mayHit t.va))

/-- An issued task holds it up by its pre-translated pages (R296). -/
def Task.holdsUp (T : Task) (i : Invalidation) : Bool :=
  T.ctx == i.ctx && T.issued && !T.flt && T.pages.any (fun p => i.mayHit (4096 * p.1))

/-- An access that may use a translation that the invalidation removes has not been performed (R128, R218). -/
def Invalidation.outstanding (i : Invalidation) (s : State) : Bool :=
  s.harts.any (fun e => e.2.holdsUp i) || s.near.any (fun e => e.2.jobs.any (fun J => J.holdsUp i)) ||
    s.sched.toList.any (fun Q => Q.tasks.any (fun T => T.holdsUp i))

/-- Every pending local access of the context's harts is performed. -/
def forceCtx (ctx : Nat) (s : State) : State :=
  s.harts.foldl (fun t e => if e.2.place.lctx.toNat = ctx then forceAll e.1 t else t) s

/-- A speculative access of a hart of the context would make a replay depart: it waits, and the invalidation with it (R107). -/
def State.specWaits (s : State) (ctx : Nat) : Bool :=
  s.harts.any (fun e => e.2.place.lctx.toNat == ctx && e.2.specConflict e.1 (fun _ => true) s)

/-- Drop what an invalidation removes: the leaves that cover the address and the pointer entries on its path, or, at or
above the windows, all of the context with the device's copy of its entry (R217). -/
def dropTranslations (ctx va : Nat) (ms : MemSys) : MemSys :=
  if 0xFFF00000000000 ≤ va then
    { ms with
      tlb := ms.tlb.filter (fun e => e.ctx != ctx)
      ptrs := ms.ptrs.filter (fun e => e.ctx != ctx)
      ctxs := tdrop ms.ctxs ctx }
  else
    { ms with
      tlb := ms.tlb.filter (fun e => !(e.ctx == ctx && decide (e.base ≤ va) && decide (va < e.base + e.size)))
      ptrs := ms.ptrs.filter (fun e => !(e.ctx == ctx && e.pre == vaPrefix e.level va)) }

/-- The n-th invalidation finishes in every core and walker, once the accesses that used what it removes have been
performed (R128, R217). -/
def execTlbInvalidationComplete (n : Nat) (s : State) : Out :=
  .next (match s.mm.invs[n]? with
  | none => s
  | some i =>
    if i.outstanding s || s.specWaits i.ctx then s
    else
      let s1 := forceCtx i.ctx s
      let s2 := s1.setMem { dropTranslations i.ctx i.va s1.mm with invs := s1.mm.invs.eraseIdx n }
      let H := s2.hart i.hart
      s2.setHart i.hart { H with invs := H.invs.filter (· != i.id) })

end Sys2Proof.Machine
end

