-- ==== Sys2Proof/Machine/Streams.lean ====
section
/-!
DEFINITION. Stream patterns and bindings: qpat, vbind, vunbind, qstat, and the arrival of a chunk (R235 to R241).
-/
namespace Sys2Proof.Machine

/-- The effect of qpat: the record at a becomes the pattern of stream q (R236). -/
def loadPattern (h q : Nat) (a : Word) (s : State) : Res Unit :=
  if a.toNat % 64 ≠ 0 then .trap 0x04 a s
  else
    match queueRead h q a 64 s with
    | .trap c t s1 => .trap c t s1
    | .ok v s1 =>
      let H := s1.hart h
      let p := BitVec.ofNat 512 v
      let S := H.stream q
      if decide (q < 4) || S.bound || !patOk p then .trap 0x14 a s1
      else .ok () (s1.setHart h (H.setStream q { S with pattern := some p }))

/-- qpat (R236). -/
def execQpat (x : BitVec 1) (a : BitVec 5) (q : BitVec 4) (s : State) : Out :=
  .next (whenFree .read (fun e => e.a) 64 s
    (queuedOp (qpatWord x a q) (fun H => H.srcS a x) 0 (fun H => H.regs.readS a) noCapture
      (fun h e t => loadPattern h q.toNat e.a t) s))

/-- A binding operand obeys its map (R237). -/
def operandOk (v : Word) : Bool :=
  let n := bits v 8 4
  bits v 12 51 == 0 && bits v 5 3 == 0 &&
    (if v.getLsbD 63 then n != 0 && decide (n ≤ 8) else n == 0 && decide (4 ≤ bits v 0 5) && decide (bits v 0 5 < 16))

/-- Write a condition bit without changing whether it is full (R237): a younger vblk may have emptied it already. -/
def Hart.setCond (H : Hart) (k : BitVec 3) (b : Bool) : Hart :=
  let keep (R : ScalarRegs) : ScalarRegs := { R.writeK k b with empty := R.empty }
  { H with
    regs := keep H.regs
    checks := H.checks.map (fun c => { c with regs := keep c.regs })
    loop := H.loop.atConf none keep }

/-- The effect of vbind; what a stream that is bound reads comes after the older vector accesses of the hart (R152, R222, R237). -/
def bindRange (h d : Nat) (k : BitVec 3) (v : Word) (s : State) : Res Unit :=
  let H := s.hart h
  let chan := v.getLsbD 63
  let S := H.stream (bits v 0 5)
  let n := if chan then bits v 8 4 else (S.pattern.map (fun p => bits p 268 4)).getD 0
  let clash := H.binds.any (fun b => decide (d < b.base + b.count) && decide (b.base < d + n))
  if H.vec.vdirty.getLsbD 63 then .trap 0x0B 0 s
  else if !operandOk v || (!chan && (S.pattern.isNone || S.bound)) || decide (32 < d + n) || clash ||
      decide (8 ≤ H.binds.length) then .trap 0x14 v s
  else
    let b : Binding := ⟨d, n, v, k, S.pattern.getD 0, 0, [], none⟩
    let H1 := { H with binds := H.binds ++ [if chan then { b with pattern := 0 } else b] }
    let H2 := if chan then H1 else H1.setStream (bits v 0 5) { S with bound := true, done := 0, ready := [] }
    .ok () (forceVaccs h (fun _ => true) (s.setHart h (H2.setCond k false)))

/-- vbind (R237). -/
def execVbind (x : BitVec 1) (k : BitVec 3) (a d : BitVec 5) (s : State) : Out :=
  .next (queuedOp (vbindWord x k a d) (fun H => H.srcS a x) 0 (fun H => H.regs.readS a) noCapture
    (fun h e t => bindRange h d.toNat k e.a t) s)

/-- The effect of vunbind (R237). -/
def unbindRange (h d : Nat) (s : State) : Res Unit :=
  let H := s.hart h
  if H.vec.vdirty.getLsbD 63 then .trap 0x0B 0 s
  else
    match H.binds.find? (fun b => b.base == d) with
    | none => .trap 0x14 (BitVec.ofNat 64 d) s
    | some b =>
      let H1 := { H with binds := H.binds.filter (fun c => c.base != d) }
      .ok () (s.setHart h (if b.onChannel then H1
        else H1.setStream b.num { H1.stream b.num with bound := false, ready := [] }))

/-- vunbind (R237). -/
def execVunbind (d : BitVec 5) (s : State) : Out :=
  .next (queuedOp (vunbindWord d) (fun _ => .go) 0 noCapture noCapture (fun h _ t => unbindRange h d.toNat t) s)

/-- The status of a stream (R241). -/
def Hart.streamStatus (H : Hart) (q : Nat) : Word :=
  let S := H.stream q
  if q < 4 then 0
  else
    let ended := S.bound && H.binds.any (fun b => !b.onChannel && b.num == q && H.ended b)
    BitVec.ofNat 64 (S.done % 2 ^ 40 + (if S.pattern.isSome then 2 ^ 61 else 0) + (if ended then 2 ^ 62 else 0) +
      (if S.bound then 2 ^ 63 else 0))

/-- qstat (R241). -/
def execQstat (q : BitVec 4) (d : BitVec 5) (s : State) : Out :=
  .next (queuedOp (qstatWord q d) (fun _ => .go) d noCapture noCapture
    (fun h _ t => deliverTo h d ((t.hart h).streamStatus q.toNat) t) s)

/-! ## Run-ahead (R237 to R239, R249) -/

/-- The element after the chunks fetched, or being read. -/
def Hart.nextElement (H : Hart) (b : Binding) : Nat :=
  (H.stream b.num).done + (if b.held.isSome then b.elems else 0) + (H.stream b.num).ready.length * b.elems

/-- An element of the next chunk waits: for a byte that a copy has not written yet, or for an iteration of the hart's own
replay (R249, R285). -/
def chunkStalls (h : Nat) (b : Binding) (j : Nat) (s : State) : Bool :=
  (List.range b.elems).any (fun i =>
    decide (j + i < patCount b.pattern) && vectorStalls h (patAddr b.pattern (j + i)) (patSize b.pattern) .read s)

/-- The next chunk of a bound read stream arrives: its elements are read now (R237 to R239). -/
def execStreamChunkArrive (h q : Nat) (s : State) : Out :=
  .next (
    let H := s.hart h
    match H.binds.find? (fun b => !b.onChannel && !b.writes && b.num == q) with
    | none => s
    | some b =>
      let j := H.nextElement b
      if decide (patCount b.pattern ≤ j) || chunkStalls h b j s then s
      else
        let addr (i : Nat) : Option (Nat × Nat) :=
          if j + i < patCount b.pattern then some (coreOf h, patAddr b.pattern (j + i)) else none
        let (x, fs, s1) := readChunk h (patSize b.pattern) addr b.elems 0 0 [] s
        let H1 := s1.hart h
        let S := H1.stream q
        s1.setHart h (H1.setStream q { S with ready := S.ready ++ [⟨toRegs b.count x, patSize b.pattern, fs⟩] }))

end Sys2Proof.Machine
end

