-- ==== Sys2Proof/Machine/Matrix.lean ====
section
/-!
DEFINITION. What a tile task computes: its operands, spans and geometry, the product in K-groups, the chain through the
down-converter, the store-out, the copy job (R149, R150, R290 to R299).
-/
namespace Sys2Proof.Machine

/-! ## The record (R293) -/

def Task.kind (T : Task) : Nat := T.field 0 4
def Task.chained (T : Task) : Bool := T.field 574 1 == 1
def Task.clears (T : Task) : Bool := T.field 804 1 == 1
def Task.stores (T : Task) : Bool := T.field 805 1 == 1
def Task.tile (T : Task) : Nat := T.field 802 2
def Task.chainTile (T : Task) : Nat := T.field 806 2
def Task.mCount (T : Task) : Nat := T.field 768 7 + 1
def Task.nCount (T : Task) : Nat := T.field 775 7 + 1
def Task.kCount (T : Task) : Nat := T.field 782 20 + 1
/-- The format of A: in memory, or as the down-converter leaves it. -/
def Task.aFmt (T : Task) : Nat := if T.chained then (if T.field 1018 1 = 1 then 8 else 11) else T.field 568 5
def Task.bFmt (T : Task) : Nat := T.field 632 5
def Task.oFmt (T : Task) : Nat := T.field 888 5

/-- Bytes of an element: q4n elements have no whole number. -/
def elemBytes (fmt : Nat) : Nat := if fmt = 12 then 4 else if fmt = 10 ∨ fmt = 11 then 2 else 1

/-- The operand pairs the engine accepts (R290). -/
def pairOk (a b : Nat) : Bool :=
  [(0, 0), (8, 8), (11, 11), (10, 10), (14, 8), (8, 14), (14, 11), (11, 14)].contains (a, b)

/-- The length of a K-group (R149, R290). -/
def kGroup (a b : Nat) : Nat :=
  if a = 14 ∨ b = 14 then 64 else if a = 0 ∨ a = 8 then 32 else 16

/-- An operand panel: base, pitch, orientation, format, rows or columns. -/
structure Panel where
  base  : Nat
  pitch : Nat
  orient : Nat
  fmt   : Nat
  count : Nat

def Task.panelA (T : Task) : Panel := ⟨T.field 512 56, T.field 640 32, T.field 573 1, T.field 568 5, T.mCount⟩
def Task.panelB (T : Task) : Panel := ⟨T.field 576 56, T.field 672 32, T.field 637 1, T.bFmt, T.nCount⟩

/-- Where element i of row or column i at step k lies (R292). -/
def Panel.addr (p : Panel) (i k : Nat) : Nat :=
  let w := elemBytes p.fmt
  if p.orient = 0 then p.base + k * p.pitch + i * w else p.base + i * p.pitch + k * w

/-- The bytes from the lowest to the highest of an operand of K steps (R295). -/
def Panel.span (p : Panel) (K : Nat) : Nat × Nat :=
  let w := elemBytes p.fmt
  if p.fmt = 14 then (p.base, (p.count - 1) * p.pitch + 4 + 33 * (K / 64))
  else if p.orient = 0 then (p.base, (K - 1) * p.pitch + (p.count - 1) * w + w)
  else (p.base, (p.count - 1) * p.pitch + (K - 1) * w + w)

/-- Rows of a copy job and their length in bytes (R293). -/
def Task.jobRows (T : Task) : Nat := T.kCount
def Task.rowBytes (T : Task) : Nat := T.field 768 14 + 1

/-- The spans a task touches: base, bytes, written (R295). -/
def Task.spans (T : Task) : List (Nat × Nat × Bool) :=
  let out : List (Nat × Nat × Bool) :=
    if T.stores then
      let w := elemBytes T.oFmt
      [(T.field 832 56, (T.mCount - 1) * T.field 896 32 + T.nCount * w, true)]
    else []
  let rd (x : Nat × Nat) : Nat × Nat × Bool := (x.1, x.2, false)
  match T.kind with
  | 0 =>
    (if T.chained then (if T.field 1016 2 = 2 then [(T.field 960 56, 512, false)] else [])
     else [rd (T.panelA.span T.kCount)]) ++ [rd (T.panelB.span T.kCount)] ++ out
  | 1 => out
  | 2 =>
    [(T.field 512 56, (T.jobRows - 1) * T.field 640 32 + T.rowBytes, false),
     (T.field 576 56, (T.jobRows - 1) * T.field 672 32 + T.rowBytes, true)]
  | _ => []

/-! ## The task's memory (R220, R296) -/

/-- Who a task acts as (R220). -/
def Task.who (T : Task) : Who := ⟨T.core, T.ctx, T.level, none, .engine⟩

/-- The 4 KiB blocks that n bytes at a touch, f of them at most. -/
def blocksFrom (b last : Nat) : Nat → List Nat
  | 0 => []
  | f + 1 => if last < b then [] else b :: blocksFrom (b + 4096) last f

/-- The first address of a span in each of its blocks. -/
def spanBlocks (a n : Nat) : List Nat := if n = 0 then [] else blocksFrom (a / 4096 * 4096) (a + n - 1) (n / 4096 + 2)

/-- Pre-translate blocks of a span of n bytes at a, with the checks of all its bytes in each: what was found, or the fault. -/
def translateBlocks (w : Who) (a n : Nat) (kind : Acc) : List Nat → List (Nat × Loc) → State → Res (List (Nat × Loc))
  | [], ps, s => .ok ps s
  | b :: t, ps, s =>
    match access w (max a b) (min (a + n) (b + 4096) - max a b) kind s with
    | .trap c v s1 => .trap c v s1
    | .ok l s1 => translateBlocks w a n kind t (ps ++ [(b, { l with key := l.key - (max a b - b) })]) s1

/-- Pre-translate every span (R296). -/
def translateSpans (w : Who) : List (Nat × Nat × Bool) → List (Nat × Loc) → State → Res (List (Nat × Loc))
  | [], ps, s => .ok ps s
  | (a, n, wr) :: t, ps, s =>
    match translateBlocks w a n (if wr then .write else .read) (spanBlocks a n) [] s with
    | .trap c v s1 => .trap c v s1
    | .ok qs s1 => translateSpans w t (ps ++ qs) s1

/-- n bytes at an address that lie in one block, as pre-translation found it. -/
def Task.locAt (T : Task) (a n : Nat) : Loc :=
  match T.pages.find? (fun p => p.1 == a / 4096 * 4096) with
  | some (_, l) => { l with key := l.key + a % 4096, n1 := n, size := n }
  | none => .window 0 0

/-- Read n bytes at a: the value, whether any byte is poisoned, with the departures that the reads cause and the sectors that
they bring into the L2 (R207, R286). -/
def taskRead (T : Task) (a n : Nat) (s : State) : Nat × Bool × State :=
  (pieces a n (n / 4096 + 2)).foldr (fun p r =>
    let (v, bad, t) := r
    let l := T.locAt p.1 p.2
    let t1 := departConflicts none l.key p.2 false t
    (readLoc l t1 + 256 ^ p.2 * v, bad || poisonedLoc l t1, fillLoc l t1)) (0, false, s)

/-- Write n bytes at a as stores of the task, poisoned or not. -/
def taskWrite (T : Task) (a n v : Nat) (bad : Bool) (s : State) : State :=
  ((pieces a n (n / 4096 + 2)).foldl (fun r p =>
    let (v, t) := r
    let l := T.locAt p.1 p.2
    let t1 := writeLoc T.who l (v % 256 ^ p.2) (departConflicts none l.key p.2 true t)
    (v / 256 ^ p.2, if bad then poisonLoc l t1 else t1)) (v, s)).2

/-! ## A running task -/

/-- What a task has come to: the state, its flags, whether a poisoned operand was met. -/
structure Running where
  st  : State
  fl  : FFlags
  bad : Bool

/-- Read n bytes as an operand. -/
def Running.read (R : Running) (T : Task) (a n : Nat) : Nat × Running :=
  let (v, bad, s) := taskRead T a n R.st
  (v, { R with st := s, bad := R.bad || bad })

/-- Element k of row or column i of a panel, and the block scale that goes with it (R141, R292). -/
def Running.element (R : Running) (T : Task) (p : Panel) (i k : Nat) : Num × Running :=
  if p.fmt = 14 then
    let (b, R1) := R.read T (p.base + i * p.pitch + 4 + 33 * (k / 64) + 1 + k % 64 / 2) 1
    (codeValue (if k % 2 = 0 then b % 16 else b / 16), R1)
  else
    let (x, R1) := R.read T (p.addr i k) (elemBytes p.fmt)
    (if p.fmt = 0 then intNum (BitVec.ofNat 8 x).toInt else unpack (floatFmt p.fmt) x, R1)

/-- The scale of a row or column in the group from k: the operand's scale, times the block scale of q4n (R141, R296). -/
def Running.scale (R : Running) (T : Task) (p : Panel) (scale i k : Nat) : Num × Running :=
  let sc := unpack fmtF32 scale
  if p.fmt = 14 then
    let (S, R1) := R.read T (p.base + i * p.pitch) 4
    let (c, R2) := R1.read T (p.base + i * p.pitch + 4 + 33 * (k / 64)) 1
    (prodNum sc (unpack fmtF32 (blockScale S c)), R2)
  else (sc, R)

/-- The piecewise-linear entry of y among n entries from number j on: the last whose LO is at or below y; a signalling LO is
invalid (R133, R298). -/
def Running.pwlEntry (R : Running) (T : Task) (y : Num) : Nat → Nat → Nat → Nat × Running
  | 0, _, best => (best, R)
  | n + 1, j, best =>
    let (lo, R1) := R.read T (T.field 960 56 + 16 * j) 4
    let l := unpack fmtF32 lo
    let R2 : Running := if l.isSnan then { R1 with fl := R1.fl.or FFlags.invalid } else R1
    R2.pwlEntry T y n (j + 1) (if !l.isNan && decide (cmpNum l y ≤ 0) then j else best)

/-- The activation (R298). -/
def Running.activate (R : Running) (T : Task) (y : Nat) : Nat × Running :=
  let n := unpack fmtF32 y
  match T.field 1016 2 with
  | 0 => (y, R)
  | 1 => (if n.isNan then y else if n.sign then 0 else y, R)
  | _ =>
    if n.isNan then (fmtF32.nan, R)
    else
      let (j, R1) := R.pwlEntry T n 31 1 0
      let (sl, R2) := R1.read T (T.field 960 56 + 16 * j + 4) 4
      let (ic, R3) := R2.read T (T.field 960 56 + 16 * j + 8) 4
      let (z, f) := fmaddBits fmtF32 rne sl y ic
      (z, { R3 with fl := R3.fl.or f })

/-- How the down-converter rounds element (i, k) (R298). -/
def Task.downRounding (T : Task) (i k : Nat) : Rounding :=
  ⟨if T.field 1019 1 = 1 then 4 else 0,
   (limlor (BitVec.ofNat 64 (T.field 96 32)) (BitVec.ofNat 64 (i * 128 + k))).toNat % 2 ^ 32, T.field 1020 1 == 1, false⟩

/-- A chained element of A: tile CT through the down-converter (R298). -/
def Running.chainElement (R : Running) (T : Task) (i k : Nat) : Num × Running :=
  let C := R.st.core T.core
  let x := C.accAt (if T.field 808 1 = 1 then accKey T.chainTile k i else accKey T.chainTile i k)
  let (y, f) := fmulBits fmtF32 rne x (T.field 928 32)
  let (z, R1) := { R with fl := R.fl.or f, bad := R.bad || C.accpsn.getLsbD T.chainTile }.activate T y
  let fm := floatFmt T.aFmt
  let (a, g) := convertNum fm (T.downRounding i k) (unpack fmtF32 z)
  (unpack fm a, { R1 with fl := R1.fl.or g })

/-- The exact sum of a group of products: any NaN, or opposite infinities, makes it NaN and invalid; an exact zero is +0
(R149). -/
def groupSum (xs : List Num) : Num :=
  let pos := xs.contains (.inf false)
  let neg := xs.contains (.inf true)
  if xs.any Num.isNan || (pos && neg) then .nan true
  else if pos then .inf false
  else if neg then .inf true
  else
    let (v, e) := xs.foldl (fun a x =>
      match x with
      | .fin n m e => exactSum (decide (a.1 < 0)) a.1.natAbs a.2 n m e
      | _ => a) ((0, 0) : Int × Int)
    .fin (decide (v < 0)) v.natAbs e

/-- The products of steps k to k + n − 1 of elements (i, j). -/
def Running.products (R : Running) (T : Task) (i j : Nat) : Nat → Nat → List Num → List Num × Running
  | 0, _, xs => (xs, R)
  | n + 1, k, xs =>
    let (a, R1) := if T.chained then R.chainElement T i k else R.element T T.panelA i k
    let (b, R2) := R1.element T T.panelB j k
    R2.products T i j n (k + 1) (xs ++ [prodNum a b])

/-- The scaled group: p := g × sa × sb, exact, and +0 when g is zero (R149, R296). -/
def scaledGroup (g sa sb : Num) : Num :=
  match g with
  | .fin _ 0 _ => .fin false 0 0
  | _ => prodNum (prodNum g sa) sb

/-- One K-group of one element: rounded once into the accumulator, with the flags that R297 lists (R149, R296). A NaN that the
accumulator already holds stays and sets no NV, since no group produces it (assumption 64, DESIGN CHOICE). -/
def Running.group (R : Running) (T : Task) (g0 i j : Nat) : Running :=
  let n := min (kGroup T.aFmt T.bFmt) (T.kCount - g0)
  let (xs, R1) := R.products T i j n g0 []
  let (sa, R2) := if T.chained then (unpack fmtF32 (T.field 704 32), R1) else R1.scale T T.panelA (T.field 704 32) i g0
  let (sb, R3) := R2.scale T T.panelB (T.field 736 32) j g0
  let p := scaledGroup (groupSum xs) sa sb
  let C := R3.st.core T.core
  let k := accKey T.tile i j
  let (v, f) := addNum fmtF32 rne (unpack fmtF32 (C.accAt k)) p
  { R3 with st := R3.st.setCore T.core (C.setAcc k v), fl := R3.fl.or { f with nv := f.nv || p.isNan, uf := false } }

/-- The product, K-group by K-group in ascending order (R296). -/
def Running.product (R : Running) (T : Task) : Running :=
  let G := kGroup T.aFmt T.bFmt
  (List.range ((T.kCount + G - 1) / G)).foldl (fun R g =>
    (List.range T.mCount).foldl (fun R i => (List.range T.nCount).foldl (fun R j => R.group T (g * G) i j) R) R) R

/-- CLR: the whole tile becomes +0.0 and its poison bit clears (R296). -/
def Running.clear (R : Running) (T : Task) : Running :=
  let C := R.st.core T.core
  { R with st := R.st.setCore T.core { C with
      acc := C.acc.filter (fun e => e.1 / 16384 != T.tile)
      accpsn := putBit C.accpsn T.tile false } }

/-- A poisoned operand poisons tile T (R291, R301). -/
def Running.taint (R : Running) (T : Task) : Running :=
  if R.bad then
    let C := R.st.core T.core
    { R with st := R.st.setCore T.core { C with accpsn := putBit C.accpsn T.tile true } }
  else R

/-- An accumulator element in the store-out format (R299). -/
def outElement (fmt x : Nat) : Nat × FFlags :=
  if fmt = 12 then (x, FFlags.none) else convertNum (floatFmt fmt) rne (unpack fmtF32 x)

/-- The store-out, row by row (R299). -/
def Running.storeOut (R : Running) (T : Task) : Running :=
  let w := elemBytes T.oFmt
  let C := R.st.core T.core
  (List.range T.mCount).foldl (fun R i =>
    let row := (List.range T.nCount).map (fun j => outElement T.oFmt (C.accAt (accKey T.tile i j)))
    { R with
      st := taskWrite T (T.field 832 56 + i * T.field 896 32) (T.nCount * w)
        (packDigits (2 ^ (8 * w)) (row.map (fun r => r.1))) (C.accpsn.getLsbD T.tile) R.st
      fl := row.foldl (fun f r => f.or r.2) R.fl }) R

/-- The bytes of a row at an address that are poisoned. -/
def Task.poisonedBytes (T : Task) (a : Nat) (s : State) : List Nat :=
  (List.range T.rowBytes).filter (fun k => poisonedLoc (T.locAt (a + k) 1) s)

/-- A row of a copy job: the sectors or words that take a poisoned byte are poisoned; an error of the engine does the same to those
of one byte, a free choice (R250, R301; assumption 53). -/
def Running.copyRow (R : Running) (T : Task) (src dst : Nat) : Running :=
  let (v, bad, s) := taskRead T src T.rowBytes R.st
  let (hurt, s1) := engineError T.core T.ctx s
  let (w, s2) := if hurt then drawWord s1 else (0, s1)
  let ks := (if bad then T.poisonedBytes src R.st else []) ++ (if hurt then [w.toNat % T.rowBytes] else [])
  { R with
    st := ks.foldl (fun t k => poisonLoc (T.locAt (dst + k) 1) t) (taskWrite T dst T.rowBytes v false s2)
    bad := R.bad || bad || hurt }

/-- A copy job: row by row, poison carried along (R250, R301). -/
def Running.copyRows (R : Running) (T : Task) : Running :=
  (List.range T.jobRows).foldl (fun R r =>
    R.copyRow T (T.field 512 56 + r * T.field 640 32) (T.field 576 56 + r * T.field 672 32)) R

/-- A task of the matrix engine begins; an error inside the engine poisons its tile (R301). -/
def Running.start (T : Task) (s : State) : Running :=
  if T.kind < 2 then
    let (hurt, s1) := engineError T.core T.ctx s
    ⟨s1, FFlags.none, hurt⟩
  else ⟨s, FFlags.none, false⟩

/-- The work of a task (R295, R296). -/
def runTask (T : Task) (s : State) : Running :=
  let R := Running.start T s
  let clr (R : Running) : Running := if T.clears then R.clear T else R
  let out (R : Running) : Running := if T.stores then R.storeOut T else R
  match T.kind with
  | 0 => out (((clr R).product T).taint T)
  | 1 => out ((clr R).taint T)
  | 2 => R.copyRows T
  | _ => R

end Sys2Proof.Machine
end

