-- ==== Sys2Proof/Machine/Tasks.lean ====
section
/-!
DEFINITION. Tile tasks and named events: tk.post, tk.stat, tk.cancel, the scheduler's issue, completion and aging, ev.sig,
ev.set, ev.wait, ev.rd and the update of a count (R290 to R314).
-/
namespace Sys2Proof.Machine

/-! ## Counts and waiters (R306, R307) -/

/-- The event base of a context: its array and whether events are enabled (R314). -/
def State.eventBase (s : State) (ctx : Nat) : Word := tget 0 s.evbase ctx

/-- The address of count e of an array. -/
def countAddr (base : Word) (e : Nat) : Nat := bits base 18 38 * 2 ^ 18 + 4 * e

/-- Reach a count: as a kernel-level access, of stack memory without U and H; every refusal is cause 0x07 with the
address of the count (R306). -/
def reachCount (core ctx : Nat) (base : Word) (e : Nat) (s : State) : Res Loc :=
  let a := countAddr base e
  match access ⟨core, ctx, 1, none, .engine⟩ a 4 .amo s with
  | .trap _ _ s1 => .trap 0x07 (BitVec.ofNat 64 a) s1
  | .ok l s1 =>
    if l.uncached || l.host || !l.phys || !isStackPa l.key then .trap 0x07 (BitVec.ofNat 64 a) s1 else .ok l s1

/-- The count at a location, read by an agent; a replay that writes it departs first (R286). -/
def readCount (l : Loc) (s : State) : Nat × State :=
  let s1 := departConflicts none l.key 4 false s
  (readLoc l s1, s1)

/-- The waiters of a count that a new value satisfies leave: a hart goes on with the count, a task's wait is met (R302,
R307, R312). -/
def wakeWaiters (key count : Nat) (s : State) : State :=
  let q := homeQuarter key
  let Q := s.scheduler q
  let met (w : EventWaiter) : Bool := w.key == key && decide (w.target ≤ count)
  let s1 := s.setScheduler q { Q with waiters := Q.waiters.filter (fun w => !met w) }
  (Q.waiters.filter met).foldl (fun t w =>
    match w.hart, w.task with
    | some h, _ =>
      let H := t.hart h
      if H.status = .waiting .event then t.setHart h (H.putS w.dst (BitVec.ofNat 64 count)).advance else t
    | none, some (tq, seq, k) =>
      let P := t.scheduler tq
      t.setScheduler tq { P with tasks := P.tasks.map (fun T =>
        if T.seq = seq then (if k = 0 then { T with w0 := true } else { T with w1 := true }) else T) }
    | none, none => t) s1

/-- One atomic update of a count: its new value wakes the waiters it satisfies (R311). -/
def updateCount (w : Who) (l : Loc) (f : Nat → Nat) (s : State) : State :=
  let s1 := departConflicts none l.key 4 true s
  let new := f (readLoc l s1) % 2 ^ 32
  wakeWaiters l.key new (writeLoc w l new s1)

/-- A new waiter of a count: in a hardware entry, in the overflow list, or nowhere (R307). -/
def enterWaiter (w : EventWaiter) (s : State) : Option State :=
  let q := homeQuarter w.key
  let Q := s.scheduler q
  let hw := Q.waiters.filter (fun x => !x.spilled)
  let mine := (hw.filter (fun x => x.key == w.key)).length
  let entries := (hw.map (fun x => x.key)).eraseDups.length
  let fits := decide (mine < 4) && (decide (0 < mine) || decide (entries < 1024))
  if fits then some (s.setScheduler q { Q with waiters := Q.waiters ++ [{ w with spilled := false }] })
  else if (Q.waiters.filter (fun x => x.spilled)).length < 4096 then
    some (s.setScheduler q { Q with waiters := Q.waiters ++ [{ w with spilled := true }] })
  else none

/-! ## The checks of a record (R290 to R295, R299) -/

/-- The bits of a record outside the ranges are zero. -/
def onlyBits (r : BitVec 1024) (used : List (Nat × Nat)) : Bool :=
  used.foldl (fun v u => v - v / 2 ^ u.1 % 2 ^ u.2 * 2 ^ u.1) r.toNat == 0

/-- The header and the regions, which every kind uses (R295). -/
def headerBits : List (Nat × Nat) :=
  [(0, 4), (4, 2), (8, 8), (16, 3), (19, 1), (20, 1), (21, 1), (24, 3), (32, 16), (64, 16), (80, 16), (128, 32), (160, 32),
   (192, 56), (256, 256)]

/-- The store-out fields (R295). -/
def storeBits : List (Nat × Nat) := [(832, 56), (888, 5), (896, 32)]

/-- The bits that the record's map gives no field (R293). -/
def recordReserved : List (Nat × Nat) :=
  [(6, 2), (22, 2), (27, 5), (48, 16), (248, 8), (575, 1), (638, 2), (809, 23), (893, 3), (1021, 3)]

/-- A record obeys its map: the bits without a field and the conditional fields zero, no refused code (R293). -/
def Task.mapOk (T : Task) : Bool :=
  recordReserved.all (fun u => T.field u.1 u.2 == 0) && decide (T.kind < 4) && T.field 4 2 != 3 &&
    decide (T.field 24 3 < 6) && T.field 1016 2 != 3 && (T.field 1016 2 == 2 || T.field 960 56 == 0) &&
    (!T.chained || T.field 568 5 == 0)

/-- The fields a record's kind uses (R293, R295). -/
def Task.usedBits (T : Task) : List (Nat × Nat) :=
  headerBits ++ match T.kind with
  | 0 =>
    [(512, 56), (573, 1), (574, 1), (576, 56), (632, 5), (637, 1), (640, 32), (672, 32), (704, 32), (736, 32), (768, 7),
     (775, 7), (782, 20), (802, 2), (804, 1), (805, 1), (806, 2), (808, 1)] ++ (if T.stores then storeBits else []) ++
      (if T.chained then [(96, 32), (928, 32), (1016, 2), (1018, 1), (1019, 1), (1020, 1)] ++
        (if T.field 1016 2 = 2 then [(960, 56)] else []) else [(568, 5)])
  | 1 => [(768, 7), (775, 7), (802, 2), (804, 1), (805, 1)] ++ storeBits
  | 2 => [(512, 56), (576, 56), (640, 32), (672, 32), (768, 14), (782, 20)]
  | _ => []

/-- The first check of a list that fails: its cause. -/
def firstFail : List (Bool × Nat) → Option Nat
  | [] => none
  | (ok, c) :: t => if ok then firstFail t else some c

/-- The orientation of an operand panel is one its format has (R292). -/
def Panel.oriented (p : Panel) : Bool := p.fmt != 14 || p.orient == 1

/-- The base and the pitch of an operand panel are aligned (R292). -/
def Panel.aligned (p : Panel) : Bool :=
  let w := if p.fmt = 14 then 4 else elemBytes p.fmt
  p.base % w == 0 && p.pitch % w == 0

/-- The operand panels that lie in memory. -/
def Task.panels (T : Task) : List Panel :=
  if T.kind = 0 then (if T.chained then [] else [T.panelA]) ++ [T.panelB] else []

/-- A region obeys its map; its class may be any of R197 (R294). -/
def regionOk (r : Nat) : Bool :=
  match regionExtent r with
  | none => r == 0
  | some x =>
    decide (4 ≤ r / 2 ^ 56 % 64) && decide (r / 2 ^ 56 % 64 ≤ 47) && spaceOf (x.hi - 1).toNat == x.space

/-- A span lies inside a suitable region (R295). -/
def Task.covers (T : Task) (x : Nat × Nat × Bool) : Bool :=
  T.extents.any (fun e => (!x.2.2 || e.write) && decide (e.lo ≤ (x.1 : Int)) && decide ((x.1 + x.2.1 : Nat) ≤ e.hi))

/-- The physical core of a virtual core of the launch. -/
def Launch.physical (L : Launch) (v : Nat) : Option Nat := (L.cores.find? (fun c => c.1 == v)).map (fun c => c.2)

/-- The checks at post, in the order of the rules, and within a rule in that of its text (R290 to R295, R299, R308, R423). -/
def Task.checks (T : Task) (L : Option Launch) (quarter : Nat) (reduced : Bool) : List (Bool × Nat) :=
  let k := T.kind
  let q4 := T.panels.any (fun p => p.fmt == 14)
  let aff := T.field 4 2
  [(!(reduced && decide (k < 2)), 0x02),
   (k != 0 || pairOk T.aFmt T.bFmt, 0x02),
   (T.panels.all Panel.oriented, 0x09),
   (T.panels.all Panel.aligned, 0x04),
   (!q4 || (T.kCount % 64 == 0 && decide (T.kCount ≤ 16384)), 0x14),
   (T.mapOk, 0x14),
   (T.field 192 56 % 8 == 0 && (T.field 1016 2 != 2 || T.field 960 56 % 64 == 0), 0x04),
   (!T.stores || [10, 11, 12].contains T.oFmt, 0x02),
   ((List.range 4).all (fun i => regionOk (T.field (256 + 64 * i) 64)), 0x14),
   (T.spans.all T.covers, 0x14),
   (!(k == 0 && T.chained) || (aff == 2 && T.chainTile != T.tile && decide (T.kCount ≤ 128)), 0x14),
   (aff == 0 || ((L.bind (fun L => L.physical (T.field 8 8))).any (fun c => quarterOf c == quarter)), 0x14),
   (onlyBits T.record T.usedBits, 0x14),
   (!(decide (k < 2) && T.stores) ||
     (T.field 832 56 % elemBytes T.oFmt == 0 && T.field 896 32 % elemBytes T.oFmt == 0), 0x04)]

/-! ## Edges (R294, R303) -/

/-- The accumulator tiles a task uses: tile and whether it is written. -/
def Task.tiles (T : Task) : List (Nat × Bool) :=
  if T.kind < 2 then (T.tile, true) :: (if T.kind = 0 && T.chained then [(T.chainTile, false)] else []) else []

/-- Two tasks may mean the same core's tiles (R303). -/
def Task.sameCore (T U : Task) : Bool := T.field 4 2 != 2 || U.field 4 2 != 2 || T.field 8 8 == U.field 8 8

/-- A younger task has an edge from an older one (R303). -/
def Task.edgeFrom (T U : Task) : Bool :=
  T.launch == U.launch &&
    (T.extents.any (fun x => U.extents.any (fun y => x.orders y)) ||
      (T.sameCore U && T.tiles.any (fun x => U.tiles.any (fun y => x.1 == y.1 && (x.2 || y.2)))))

/-! ## tk.post (R308) -/

/-- The core whose windows a task names while no engine runs it: that of AFFV where the task names one, else the posting
hart's (R199, R300; assumption 74, DESIGN CHOICE). -/
def Task.home (T : Task) (L : Option Launch) : Nat :=
  if T.field 4 2 = 0 then coreOf T.hart else (L.bind (fun L => L.physical (T.field 8 8))).getD (coreOf T.hart)

/-- The task of a record, before its waits and edges are known. -/
def newTask (h : Nat) (r : BitVec 1024) (s : State) : Task :=
  let H := s.hart h
  let q := quarterOf (coreOf h)
  let ctx := H.place.lctx.toNat
  let T : Task := {
    record := r, seq := (s.scheduler q).seq % 2 ^ 32, ctx := ctx, level := H.plev, hart := h, launch := s.orderOf h,
    evbase := s.eventBase ctx, w0 := true, w1 := true, edges := [], issued := false, flt := false, err := false,
    can := false, cause := 0, tval := 0, told := false, flags := 0, pages := [], core := 0, age := 0, accept := 0 }
  { T with core := T.home (s.launchOf h) }

/-- The events a record names: the field of the number and whether it waits (R293). -/
def Task.events (T : Task) : List (Nat × Option (Nat × Nat)) :=
  (if T.field 19 1 = 1 then [(T.field 64 16, some (0, T.field 128 32))] else []) ++
  (if T.field 20 1 = 1 then [(T.field 80 16, some (1, T.field 160 32))] else []) ++
  (if T.field 21 1 = 1 then [(T.field 32 16, none)] else [])

/-- Reach every event a record names, testing its waits: the waits left, as count, which and event number (R302, R306). -/
def testEvents (core : Nat) (T : Task) : List (Nat × Option (Nat × Nat)) → List (Nat × Nat × Nat × Nat) → State →
    Res (List (Nat × Nat × Nat × Nat))
  | [], ws, s => .ok ws s
  | (e, w) :: t, ws, s =>
    match reachCount core T.ctx T.evbase e s with
    | .trap c v s1 => .trap c v s1
    | .ok l s1 =>
      match w with
      | none => testEvents core T t ws s1
      | some (k, target) =>
        let (n, s2) := readCount l s1
        testEvents core T t (if target ≤ n then ws else ws ++ [(l.key, k, target, e)]) s2

/-- Enter the waiters of a task; the event whose waiter finds no room otherwise (R307). -/
def enterTaskWaiters (q seq : Nat) : List (Nat × Nat × Nat × Nat) → State → Except Nat State
  | [], s => .ok s
  | (key, k, target, e) :: t, s =>
    match enterWaiter ⟨key, target, none, 0, some (q, seq, k), false⟩ s with
    | none => .error e
    | some s1 => enterTaskWaiters q seq t s1

/-- Enter a checked task: its waiters, its edges, its place in the table (R302, R303, R307). -/
def enterTask (h : Nat) (d : BitVec 5) (T : Task) (ws : List (Nat × Nat × Nat × Nat)) (s : State) : State :=
  let q := quarterOf (coreOf h)
  if (s.scheduler q).tasks.length ≥ 4096 then answer h d (BitVec.allOnes 64) s
  else
    match enterTaskWaiters q T.seq ws s with
    | .error e => scalarTrap h 0x10 (BitVec.ofNat 64 e) false s
    | .ok s1 =>
      let Q := s1.scheduler q
      let T1 := { T with
        w0 := !ws.any (fun w => w.2.1 == 0)
        w1 := !ws.any (fun w => w.2.1 == 1)
        edges := (Q.tasks.filter (fun U => T.edgeFrom U)).map (fun U => U.seq) }
      answer h d (BitVec.ofNat 64 (q * 2 ^ 32 + T.seq))
        (s1.setScheduler q { Q with tasks := Q.tasks ++ [T1], seq := Q.seq + 1 })

/-- tk.post past its gate; its read waits for a copy as a load does (R249, R308). -/
def postTask (h : Nat) (d : BitVec 5) (a : Word) (s : State) : State :=
  if (s.hart h).copyStalls (fun _ => true) a.toNat 128 then s
  else
  let s0 := forceDone h (fun _ => true) (forceLoads h (fun _ => true) s)
  match readAt (s0.who h) a.toNat 128 s0 with
  | .trap c _ s1 => scalarTrap h c a false s1
  | .ok v s1 =>
    let T := newTask h (BitVec.ofNat 1024 v) s1
    match firstFail (T.checks (s1.launchOf h) (quarterOf (coreOf h)) s1.reduced) with
    | some c => scalarTrap h c a false s1
    | none =>
      if !T.events.isEmpty && bits T.evbase 0 1 == 0 then scalarTrap h 0x07 a false s1
      else
        match testEvents (coreOf h) T T.events [] s1 with
        | .trap c t s2 => scalarTrap h c t false s2
        | .ok ws s2 => enterTask h d T ws s2

/-- tk.post; a command of a replaying hart waits (R285, R308). -/
def execTkPost (x : BitVec 1) (a d : BitVec 5) (s : State) : Out :=
  .next (command (tkPostWord x a d) (fun H =>
      (H.srcS a x).and ((H.dstS d).and ((Gate.until (H.loop.st != 3)).and
        ((Gate.need ((H.regs.readS a).toNat % 128 == 0) 0x04 (H.regs.readS a)).and
          (Gate.until (!H.owes (fun _ => true))))))) s
    (fun h => postTask h d ((s.hart h).regs.readS a) s))

/-! ## tk.stat and tk.cancel (R309, R310) -/

/-- The task of a handle, live or done, of a context. -/
def findTask (hd : Word) (ctx : Nat) (s : State) : Option (Task × Bool) :=
  let q := hd.toNat / 2 ^ 32
  if q < 4 then
    let Q := s.scheduler q
    let mine (T : Task) : Bool := T.seq == hd.toNat % 2 ^ 32 && T.ctx == ctx
    match Q.tasks.find? mine with
    | some T => some (T, true)
    | none => (Q.past.find? mine).map (fun T => (T, false))
  else none

/-- The engine a kind runs on: 0 the matrix engine, 1 the copy engine, 2 none (R304). -/
def Task.engine (T : Task) : Nat := if T.kind < 2 then 0 else if T.kind = 2 then 1 else 2

/-- A task waits for nothing (R302). -/
def Task.ready (T : Task) : Bool := T.w0 && T.w1 && T.edges.isEmpty

/-- The state of R302: done once it has left the table, completed or cancelled (assumption 30). -/
def Task.state (T : Task) (live : Bool) : Nat :=
  if !live then 3 else if T.issued then 2 else if T.ready then 1 else 0

/-- The status word; CORE is 0 until an engine has taken the task (R309). -/
def Task.status (T : Task) (live : Bool) : Word :=
  BitVec.ofNat 64 ((if T.issued && T.engine != 2 then T.core else 0) + T.flags.toNat * 2 ^ 40 + (if T.flt then T.cause * 2 ^ 48 + 2 ^ 61 else 0) +
    (if T.can then 2 ^ 59 else 0) + (if T.err then 2 ^ 60 else 0) + T.state live * 2 ^ 62)

/-- tk.stat (R309). -/
def execTkStat (x : BitVec 1) (a d : BitVec 5) (s : State) : Out :=
  .next (command (tkStatWord x a d) (fun H => (H.srcS a x).and (H.dstS d)) s
    (fun h =>
      let H := s.hart h
      match findTask (H.regs.readS a) H.place.lctx.toNat s with
      | none => answer h d (BitVec.allOnes 64) s
      | some (T, live) => answer h d (T.status live) s))

/-- tk.cancel (R310). -/
def execTkCancel (x : BitVec 1) (a d : BitVec 5) (s : State) : Out :=
  .next (command (tkCancelWord x a d) (fun H => (H.srcS a x).and (H.dstS d)) s
    (fun h =>
      let H := s.hart h
      let hd := H.regs.readS a
      match findTask hd H.place.lctx.toNat s with
      | none => answer h d (BitVec.allOnes 64) s
      | some (T, live) =>
        if live && !T.issued then answer h d 1 (cancelTask (hd.toNat / 2 ^ 32) T s) else answer h d 0 s))

/-! ## The scheduler (R302, R304, R305) -/

/-- The launch of a task. -/
def taskLaunch (T : Task) (s : State) : Option (Nat × Launch) :=
  s.launch.resident.find? (fun e => e.2.order == T.launch)

/-- A core belongs to a launch: harts of the launch run or wait there, not another's (R304). -/
def ownsCore (n : Nat) (L : Launch) (core : Nat) (s : State) : Bool :=
  L.cores.any (fun c => c.2 == core) &&
    !s.launch.resident.any (fun e => e.1 != n && e.2.live.any (fun h => coreOf h == core && e.2.holdsSlot e.1 s h))

/-- The affinity of a task allows a core (R304). -/
def Task.allows (T : Task) (L : Launch) (core : Nat) : Bool :=
  match T.field 4 2 with
  | 0 => true
  | 1 => (L.physical (T.field 8 8)).any (fun c => clusterOf c == clusterOf core)
  | _ => L.physical (T.field 8 8) == some core

/-- Engine k of a core runs a task. -/
def engineBusy (core k : Nat) (s : State) : Bool :=
  s.hasTask (fun T => T.issued && !T.flt && T.core == core && T.engine == k)

/-- A task may be issued to engine k of a core. -/
def candidate (core k : Nat) (s : State) (T : Task) : Bool :=
  T.ready && !T.issued && T.engine == k && !(s.scheduler (quarterOf core)).holds.contains T.ctx &&
    !(s.assistOf (taskAgent (quarterOf core) T.seq)).any (fun a => a.cause.isNone) &&
    match taskLaunch T s with
    | some (n, L) => !L.ending && ownsCore n L core s && T.allows L core
    | none => false

/-- The level of a ready task (R304). -/
def Task.level' (T : Task) (s : State) : Nat :=
  min 7 (min (T.field 16 3) (((taskLaunch T s).map (fun e => e.2.field 112 3)).getD 0) + T.age)

/-- How many consecutive turns a launch may take: the cores it holds in the quarter, without those on which another launch
runs (R304). -/
def turnsOf (order quarter : Nat) (s : State) : Nat :=
  ((s.launch.resident.find? (fun e => e.2.order == order)).map
    (fun e => (e.2.cores.filter (fun c => quarterOf c.2 == quarter && ownsCore e.1 e.2 c.2 s)).length)).getD 0

/-- The launch whose turn it is among those that hold a candidate, in launch order, cyclically (R304). -/
def nextTurn (orders : List Nat) (Q : Scheduler) (q : Nat) (s : State) : Option (Nat × Nat) :=
  let least (l : List Nat) : Option Nat := l.foldl (fun m x => some ((m.map (min x)).getD x)) none
  match Q.turn with
  | some t =>
    if orders.contains t && decide (Q.taken < turnsOf t q s) then some (t, Q.taken + 1)
    else
      match least (orders.filter (fun x => decide (t < x))) with
      | some x => some (x, 1)
      | none => (least orders).map (fun x => (x, 1))
  | none => (least orders).map (fun x => (x, 1))

/-- The task that engine k of a core takes, with the turn it leaves (R304). -/
def chooseTask (core k : Nat) (s : State) : Option (Task × Nat × Nat) :=
  let q := quarterOf core
  let Q := s.scheduler q
  let all := Q.tasks.filter (candidate core k s)
  let top := all.foldl (fun m T => max m (T.level' s)) 0
  let best := all.filter (fun T => T.level' s == top)
  (nextTurn (best.map (fun T => T.launch)) Q q s).bind (fun o =>
    (best.find? (fun T => T.launch == o.1)).map (fun T => (T, o)))

/-- Replace a task of a quarter. -/
def putTask (q : Nat) (T : Task) (s : State) : State :=
  let Q := s.scheduler q
  s.setScheduler q { Q with tasks := Q.tasks.map (fun U => if U.seq = T.seq then T else U) }

/-- A task's fault joins those not yet delivered, in posting order (R332). -/
def insertFault (f : Nat × Nat × Word) : List (Nat × Nat × Word) → List (Nat × Nat × Word)
  | [] => [f]
  | g :: t => if f.2.1 < g.2.1 then f :: g :: t else g :: insertFault f t

/-- A task is faulted: it keeps its edges, its engine is free, and the posting hart is told, a parked one when
it runs again (R301, R350). -/
def stopTask (q : Nat) (T : Task) (c : Nat) (tval : Word) (s : State) : State :=
  let here := s.orderOf T.hart == T.launch && !s.parkedIn T.hart T.launch
  let s1 := putTask q { T with issued := true, flt := true, pages := [], cause := c, tval := tval, told := here } s
  let H := s1.hart T.hart
  if here then s1.setHart T.hart { H with taskFaults := insertFault (c, q * 2 ^ 32 + T.seq, tval) H.taskFaults } else s1

/-- A task's fault (R301); the host may serve it first, and the task then waits unissued (R422). -/
def faultTask (q : Nat) (T : Task) (cause : Nat) (tval : Word) (s : State) : State :=
  match servedFault (taskAgent q T.seq) T.ctx cause tval s with
  | (none, s1) =>
    putTask q { T with issued := false, core := T.home ((taskLaunch T s).map (fun e => e.2)) } s1
  | (some c, s1) => stopTask q T c tval s1

/-- A free engine of a core takes a ready task: pre-translation, then the acceptance (R257, R296, R301, R304). A marker is
taken by no engine. -/
def issueTask (core k : Nat) (s : State) : State :=
  let q := quarterOf core
  if engineBusy core k s then s
  else
    match chooseTask core k s with
    | none => s
    | some (T, o) =>
      let Q := s.scheduler q
      let s1 := s.setScheduler q { Q with turn := some o.1, taken := o.2 }
      let T1 := { T with core := core }
      serveHost (taskAgent q T.seq) s1 s1 (stopTask q T1)
        (match translateSpans T1.who T1.spans [] s1 with
        | .trap c v s2 => faultTask q T1 c v s2
        | .ok ps s2 =>
          let (n, s3) := acceptAt core s2
          putTask q { T1 with issued := true, pages := ps, accept := n } s3)

/-- TASK_ISSUE: engine k (0 matrix, 1 copy) of core e falls free (R304). -/
def execTaskIssue (e k : Nat) (s : State) : Out := .next (issueTask e k s)

/-- A page of the task has another key now, or none: it is translated again before the task touches it (R420). -/
def Task.staleKey (T : Task) (s : State) : Bool := T.pages.any (fun p => p.2.stale s)

/-- The signal of a completed task: its count in the array of the posting context as it stood at the post; a count that
cannot be written is dropped and logged (R300, R431). -/
def taskSignal (T : Task) (s : State) : State :=
  if T.field 21 1 = 0 then s
  else
    match reachCount T.core T.ctx T.evbase (T.field 32 16) s with
    | .ok l s1 => updateCount T.who l (fun n => n + 1) s1
    | .trap _ _ s1 =>
      logError s1 9 ⟨BitVec.ofNat 56 (countAddr T.evbase (T.field 32 16)), 13, T.ctx, T.core, 1, 0⟩

/-- The n-th task of a quarter completes: an issued one whose footprint no older command holds up, or a marker that is
ready (R257, R300, R304). -/
def completeTask (q n : Nat) (s : State) : State :=
  match (s.scheduler q).tasks[n]? with
  | none => s
  | some T =>
    let marker := T.engine == 2 && T.ready && !(s.scheduler q).holds.contains T.ctx
    let runs := T.issued && !T.flt && !T.extents.any (waitsFor (olderExtents T.core T.accept s))
    if !(marker || runs) then s
    else
      match if T.staleKey s then translateSpans T.who T.spans [] s else .ok T.pages s with
      | .trap c v s1 => faultTask q T c v s1
      | .ok ps s1 =>
      let R := runTask { T with pages := ps } s1
      let T1 := { T with issued := true, err := R.bad, flags := R.fl.vst }
      let s2 := R.st.setScheduler q ((R.st.scheduler q).retire T1)
      finishEndings (taskSignal T1 (taskArrive T1 R.bad s2))

/-- TASK_COMPLETE (R300). -/
def execTaskComplete (q n : Nat) (s : State) : Out := .next (completeTask q n s)

/-- TASK_AGING: the n-th task of a quarter has been ready for one more interval; a held context ages nothing (R304,
R305). -/
def execTaskAging (q n : Nat) (s : State) : Out :=
  .next (
    let Q := s.scheduler q
    match Q.tasks[n]? with
    | none => s
    | some T =>
      if T.ready && !T.issued && Q.tkage != 0 && !Q.holds.contains T.ctx then
        putTask q { T with age := min 7 (T.age + 1) } s
      else s)

/-! ## Named events (R306, R311 to R313) -/

/-- An event instruction past its gate: events enabled in the context and the count reached, or cause 0x07 (R306). -/
def eventOp (h : Nat) (a : Word) (s : State) (k : Loc → State → State) : State :=
  let H := s.hart h
  let ctx := H.place.lctx.toNat
  let base := s.eventBase ctx
  let e := bits a 0 16
  if bits base 0 1 = 0 then scalarTrap h 0x07 (BitVec.ofNat 64 e) false s
  else
    match reachCount (coreOf h) ctx base e s with
    | .trap c t s1 => scalarTrap h c t false s1
    | .ok l s1 => k l s1

/-- ev.sig and ev.set: the update waits for the hart's older accesses, the stream goes on (R311). -/
def eventUpdate (word : Nat) (set : Bool) (gate : Hart → Gate) (amount : Hart → Nat) (a d : BitVec 5) (s : State) :
    State :=
  command word (fun H => (gate H).and (H.dstS d)) s (fun h =>
    let H := s.hart h
    eventOp h (H.regs.readS a) s (fun l s1 =>
      let H1 := s1.hart h
      s1.setHart h { H1.markS d with
        updates := H1.updates ++ [(⟨l, set, amount H, d, H1.position, H1.nextId⟩ : EventUpdate)] }.advance))

/-- ev.sig; a B field of 0 adds 1 (R311). -/
def execEvSig (y x : BitVec 1) (b a d : BitVec 5) (s : State) : Out :=
  .next (eventUpdate (evSigWord y x b a d) false
    (fun H => (H.srcS a x).and (if b = 0 then .go else H.srcS b y))
    (fun H => if b = 0 then 1 else bits (H.regs.readS b) 0 32) a d s)

/-- ev.set (R311). -/
def execEvSet (y x : BitVec 1) (b a d : BitVec 5) (s : State) : Out :=
  .next (eventUpdate (evSetWord y x b a d) true (fun H => (H.srcS a x).and (H.srcS b y))
    (fun H => bits (H.regs.readS b) 0 32) a d s)

/-- ev.wait: go on when the count meets the target, or wait; a hart that already waits stays (R312). -/
def execEvWait (y x : BitVec 1) (b a d : BitVec 5) (s : State) : Out :=
  .next (command (evWaitWord y x b a d) (fun H => (H.srcS a x).and ((H.srcS b y).and (H.dstS d))) s (fun h =>
    let H := s.hart h
    if H.status = .waiting .event then s
    else
      eventOp h (H.regs.readS a) s (fun l s1 =>
        let target := bits (H.regs.readS b) 0 32
        let (n, s2) := readCount l s1
        if target ≤ n then answer h d (BitVec.ofNat 64 n) s2
        else
          match enterWaiter ⟨l.key, target, some h, d, none, false⟩ s2 with
          | none => scalarTrap h 0x10 (BitVec.ofNat 64 (bits (H.regs.readS a) 0 16)) false s2
          | some s3 => s3.setHart h { s3.hart h with status := .waiting .event })))

/-- ev.rd (R313). -/
def execEvRd (x : BitVec 1) (a d : BitVec 5) (s : State) : Out :=
  .next (command (evRdWord x a d) (fun H => (H.srcS a x).and (H.dstS d)) s (fun h =>
    eventOp h ((s.hart h).regs.readS a) s (fun l s1 =>
      let (n, s2) := readCount l s1
      answer h d (BitVec.ofNat 64 n) s2)))

/-- EVENT_UPDATE_APPLY: the n-th update of a hart is made once its older accesses are performed, after every earlier one
of the same count (R311). -/
def execEventUpdateApply (h n : Nat) (s : State) : Out :=
  .next (
    let H := s.hart h
    match H.updates[n]? with
    | none => s
    | some u =>
      if !H.reached u.ticket || H.owesOlder u.older || (H.updates.take n).any (fun v => v.loc.key == u.loc.key) then s
      else
        let s1 := forceEntries h u.ticket (forceOlder h u.older s)
        let (old, s2) := readCount u.loc s1
        let H1 := s2.hart h
        let s3 := s2.setHart h ({ H1 with updates := H1.updates.eraseIdx n }.fillS none u.dst (BitVec.ofNat 64 old))
        updateCount (s3.who h) u.loc (fun c => if u.set then u.amount else c + u.amount) s3)

end Sys2Proof.Machine
end

