-- ==== Sys2Proof/Machine/Context.lean ====
section
/-!
DEFINITION. Pre-emption and contexts: preq, the context image that ximg saves and xld loads, cpark (R342 to R350).
-/
namespace Sys2Proof.Machine

/-! ## Pre-emption requests (R342) -/

/-- The hart lies in the domain DOM of another hart. -/
def inDomain (dom h g : Nat) : Bool :=
  match dom with
  | 0 => g == h
  | 1 => coreOf g == coreOf h
  | 2 => quarterOf (coreOf g) == quarterOf (coreOf h)
  | _ => true

/-- Set or clear PRQ of the context's harts in a domain. -/
def setPrq (h dom ctx : Nat) (v : Bool) (s : State) : State :=
  { s with harts := s.harts.map (fun e =>
    if inDomain dom h e.1 && e.2.place.lctx.toNat == ctx && e.2.status != .idle && e.2.status != .retired then
      (e.1, { e.2 with trap := { e.2.trap with prq := v } })
    else e) }

/-- The scheduler of quarter q is reached from a hart. -/
def reachesQuarter (h dom q : Nat) : Bool := dom == 3 || (dom == 2 && q == quarterOf (coreOf h))

/-- Schedulers and near-bank units that hold work of the context hold it back. -/
def holdContext (h dom ctx : Nat) (s : State) : State :=
  let s1 := (List.range 4).foldl (fun t q =>
    let Q := t.scheduler q
    if reachesQuarter h dom q && Q.tasks.any (fun T => T.ctx == ctx) then t.setScheduler q { Q with holds := ninsert Q.holds ctx }
    else t) s
  { s1 with near := s1.near.map (fun e =>
    if reachesQuarter h dom (e.1 / 128) && e.2.jobs.any (fun J => J.ctx == ctx) then
      (e.1, { e.2 with holds := ninsert e.2.holds ctx })
    else e) }

/-- Schedulers and near-bank units let the context go on. -/
def freeContext (h dom ctx : Nat) (s : State) : State :=
  let s1 := (List.range 4).foldl (fun t q =>
    let Q := t.scheduler q
    if reachesQuarter h dom q then t.setScheduler q { Q with holds := Q.holds.filter (· != ctx) } else t) s
  { s1 with near := s1.near.map (fun e =>
    if reachesQuarter h dom (e.1 / 128) then (e.1, { e.2 with holds := e.2.holds.filter (· != ctx) }) else e) }

/-- preq with RES = 0 (R342). -/
def requestPreempt (h : Nat) (v : Word) (s : State) : State :=
  holdContext h (bits v 12 2) (bits v 0 12) (setPrq h (bits v 12 2) (bits v 0 12) true s)

/-- preq with RES = 1 (R342). -/
def resumePreempt (h : Nat) (v : Word) (s : State) : State :=
  freeContext h (bits v 12 2) (bits v 0 12) (setPrq h (bits v 12 2) (bits v 0 12) false s)

/-- A write of preq. -/
def writePreq (h : Nat) (v : Word) (s : State) : State := if v.getLsbD 63 then resumePreempt h v s else requestPreempt h v s

/-! ## The image as a number (R345 to R347) -/

/-- The bytes of an image. -/
def imageBytes : Nat := 56448

/-- A value at a byte offset. -/
def put (o v : Nat) : Nat := v * 256 ^ o

/-- n bytes of an image at a byte offset. -/
def field (img o n : Nat) : Nat := img / 256 ^ o % 256 ^ n

/-- n bits of an image from bit lo of byte offset o. -/
def fieldBits (img o lo n : Nat) : Nat := img / (256 ^ o * 2 ^ lo) % 2 ^ n

/-- The sum of n records of a size, each as f gives it. -/
def records (o size n : Nat) (f : Nat → Nat) : Nat := (List.range n).foldl (fun v i => v + put (o + size * i) (f i)) 0

/-- The tickets of an image: how many frozen entries must be performed first; the frozen instance counts as the first
(R347). -/
def relTicket (H : Hart) (t : Ticket) : Nat := t.main - H.vec.done.main

/-- A ticket of an image for a hart. -/
def absTicket (H : Hart) (n : Nat) : Ticket := ⟨H.vec.done.main + n, H.vec.done.hand⟩

/-- The header (R346). -/
def imageHeader (h : Nat) (H : Hart) : Nat :=
  let P := H.place
  let (act, sk, ss, sp, off) := match H.vec.frozen with
    | some b => (1, b.scanK.toNat, b.scanS.toNat, b.spilled, b.offcut.length)
    | none => (0, 0, 0, 0, 0)
  H.vec.queue.length % 32 + act * 2 ^ 8 + off * 2 ^ 12 + sp % 256 * 2 ^ 16 + H.trap.tvpc.toNat * 2 ^ 64 +
    H.trap.telem.toNat * 2 ^ 128 + ss * 2 ^ 192 + sk * 2 ^ 224 +
    (List.range 8).foldl (fun v n => v + (if hn : n < 8 then (H.trap.tg[n]).toNat else 0) * 2 ^ (256 + 64 * n)) 0 +
    P.lvh.toNat * 2 ^ 768 + P.lgrid.toNat * 2 ^ 784 + P.lctx.toNat * 2 ^ 800 + P.lprio.toNat * 2 ^ 816 +
    P.ltag.toNat * 2 ^ 832 + coreOf h * 2 ^ 848 + h % 4 * 2 ^ 864 + P.gmem.toNat * 2 ^ 896

/-- What a queue entry captured, as the image holds it (R347). -/
def QEntry.imageA (e : QEntry) : Nat := if bits e.word 0 7 = 0x3D then bits e.word 18 13 else e.a.toNat

/-- A queue entry (R347). -/
def imageEntry (e : QEntry) : Nat :=
  let g := (List.range 8).foldl (fun v n => v + put (8 * n) (if hn : n < 8 then (e.g[n]).toNat else 0)) 0
  e.word.toNat + put 8 e.imageA + put 16 (if bits e.word 0 7 = 0x3E then g else e.b.toNat)

/-- The words of a layout. -/
def layoutWords (l : List Word) : Nat := l.foldr (fun w v => w.toNat + 2 ^ 64 * v) 0

/-- A pair of layouts, 128 bytes. -/
def imagePair (p : Option LayoutPair) : Nat :=
  match p with
  | some q => layoutWords q.src + put 64 (layoutWords q.dst)
  | none => 0

/-- The dimensions of a pair. -/
def pairDims (p : Option LayoutPair) : Nat := (p.map (fun q => q.src.length)).getD 0

/-- The layouts of an accepted copy; one that an image brought back accepted keeps those of the image (R347). -/
def CopyJob.heldPair (J : CopyJob) : Option LayoutPair := if J.kept && J.layouts.isNone then J.taken.getD none else J.layouts

/-- A channel (R347). -/
def imageChannel (H : Hart) (C : Channel) : Nat :=
  let head := (C.copies.head?).bind CopyJob.heldPair
  let held (J : CopyJob) : CopyJob := { J with layouts := none }
  let stat := (Channel.status { C with flt := false, copies := C.copies.map held }).toNat
  imagePair C.layouts + put 128 (imagePair head) +
    put 256 (pairDims C.layouts + 16 * pairDims head + (if C.layouts.isSome then 256 else 0)) +
    put 264 C.arrive.toNat + put 272 C.cfg.toNat + put 280 C.wm + put 288 stat +
    records 304 40 8 (fun i => match C.copies[i]? with
      | some J => J.src.toNat + put 8 J.dst.toNat + put 16 J.arrive.toNat + put 24 J.cfg.toNat +
          put 32 (relTicket H J.ticket + (if i = 0 ∧ J.heldPair.isSome then 2 ^ 63 else 0))
      | none => 0)

/-- A stream (R347). -/
def imageStream (S : StreamState) : Nat :=
  (S.pattern.getD 0).toNat + put 64 (S.done % 2 ^ 40 + (if S.bound then 2 ^ 62 else 0) + (if S.pattern.isSome then 2 ^ 63 else 0))

/-- The chunks a binding has consumed or emitted. -/
def Hart.chunkCount (H : Hart) (b : Binding) : Nat := if b.onChannel then b.chunks else (H.stream b.num).done / max 1 b.elems

/-- A binding (R347). -/
def imageBinding (H : Hart) (b : Binding) : Nat :=
  b.operand.toNat + put 8 (b.base + b.cond.toNat * 2 ^ 8 + 2 ^ 15 + H.chunkCount b % 2 ^ 40 * 2 ^ 16)

/-- The image of a hart (R345). -/
def imageOf (h : Nat) (H : Hart) : Nat :=
  let V := H.vec
  imageHeader h H +
    (match V.frozen with
     | none => 0
     | some b => put 128 b.path.toNat +
        records 2176 2112 8 (fun i => match b.offcut.reverse[i]? with
          | some o => o.bm.toNat + put 2048 o.c.toNat + put 2056 o.st.toNat
          | none => 0)) +
    records 19072 80 16 (fun i => ((V.queue[i]?).map imageEntry).getD 0) +
    records 20352 2048 7 (fun i => if hi : i + 1 < 8 then (V.m[i + 1]).toNat else 0) +
    records 34688 4 32 (fun i => if hi : i < 32 then (V.side[i]).toNat else 0) +
    records 34816 640 32 (fun i => imageChannel H (H.chan i)) +
    records 55296 80 12 (fun i => imageStream (H.stream (i + 4))) +
    records 56256 16 8 (fun i => ((H.binds[i]?).map (imageBinding H)).getD 0) +
    records 56384 16 4 (fun i => if hi : i < 4 then
        (match H.group.pend[i] with
         | some p => 1 + put 8 (relTicket H p.ticket)
         | none => 0)
      else 0)

/-! ## Reading and writing spans as numbers -/

/-- Read n bytes of an image, at most f blocks. -/
def readImage (w : Who) : Nat → Nat → Nat → State → Res Nat
  | 0, _, _, s => .ok 0 s
  | f + 1, a, n, s =>
    if n = 0 then .ok 0 s
    else
      let c := spanHead a n
      match readAt w a c s with
      | .trap k t s1 => .trap k t s1
      | .ok u s1 =>
        match readImage w f (a + c) (n - c) s1 with
        | .trap k t s2 => .trap k t s2
        | .ok v s2 => .ok (u + 256 ^ c * v) s2

/-- Write n bytes of an image that have passed their checks. -/
def writeImage (w : Who) : Nat → Nat → Nat → Nat → State → State
  | 0, _, _, _, s => s
  | f + 1, a, n, v, s =>
    if n = 0 then s
    else
      let c := spanHead a n
      let s1 := match accessBy w a c .write s with
        | .trap _ _ s1 => s1
        | .ok l s1 => writeOut w l (v % 256 ^ c) s1
      writeImage w f (a + c) (n - c) (v / 256 ^ c) s1

/-! ## ximg (R348) -/

/-- The outcome of a save. -/
def setXimg (h : Nat) (v : Nat) (s : State) : State :=
  let H := s.hart h
  s.setHart h { H with trap := { H.trap with ximg := BitVec.ofNat 64 v } }

/-- The event updates of a hart that is being parked, each counting the frozen entries before it (R311, R350). -/
def Hart.owedUpdates (H : Hart) : List EventUpdate :=
  H.updates.map (fun u => { u with ticket := ⟨relTicket H u.ticket, 0⟩, older := 0 })

/-- The causes that a hart which is being parked has still to take: its hand-back, and the traps of its own accesses, not those
of the handler (R287, R334, R344; assumption 72, DEDUCED). -/
def Hart.heldCauses (H : Hart) : Option (Nat × Word) × List LoadTrap := (H.handBack, H.loadTraps.filter (fun l => !l.hand))

/-- What a save leaves of the hart: nothing frozen, channels, streams, bindings and arrivals as at hart start; its event
updates and its causes wait with its launch. -/
def Hart.saved (H : Hart) : Hart :=
  { H with
    vec := { H.vec with queue := [], frozen := none, enq := { H.vec.enq with main := H.vec.done.main } }
    trap := { H.trap with vf := false, tva := false, ximg := 0 }
    chans := Vector.replicate 32 Channel.initial
    streams := Vector.replicate 16 StreamState.initial
    binds := []
    taskFaults := []
    updates := []
    handBack := none
    loadTraps := H.loadTraps.filter (fun l => l.hand)
    group := { H.group with pend := Vector.replicate 4 none } }

/-- The hart's jobs that wait for its queue count the frozen entries before them. -/
def parkJobs (h order : Nat) (f : Ticket → Ticket) (s : State) : State :=
  { s with near := s.near.map (fun e => (e.1, { e.2 with jobs := e.2.jobs.map (fun J =>
    if J.hart = h ∧ J.launch = order ∧ !J.started then { J with ticket := f J.ticket } else J) })) }

/-- Faults of the hart's tasks that it has not been told of are told when its image is loaded (R301). -/
def untellTasks (h : Nat) (s : State) : State :=
  (s.hart h).taskFaults.foldl (fun t f =>
    let q := f.2.1 / 2 ^ 32 % 4
    let Q := t.scheduler q
    t.setScheduler q { Q with tasks := Q.tasks.map (fun T => if T.seq = f.2.1 % 2 ^ 32 then { T with told := false } else T) }) s

/-- The hart is parked in its launch, which holds its event updates and its causes. -/
def parkHart (h : Nat) (s : State) : State :=
  let H := s.hart h
  let n := H.place.launch
  match s.launchAt n with
  | none => s
  | some L => s.setLaunch n { L with
      parked := ninsert L.parked h
      causes := tput L.causes h H.heldCauses
      owed := if H.owedUpdates.isEmpty then tdrop L.owed h else tput L.owed h H.owedUpdates }

/-- Save the image at an address (R348). -/
def saveImage (h : Nat) (v : Word) (s : State) : State :=
  let H := s.hart h
  if !H.trap.ts || !H.vectorIdle then setXimg h 0x07 s
  else if v.toNat % 64 ≠ 0 then setXimg h 0x04 s
  else
    let s1 := forceAll h s
    let f := spanPages imageBytes
    match checkSpan (s1.who h) f v.toNat imageBytes s1 with
    | .trap c _ s2 => setXimg h c s2
    | .ok _ s2 =>
      let s3 := untellTasks h (writeImage (s2.who h) f v.toNat imageBytes (imageOf h (s2.hart h)) s2)
      let s4 := parkJobs h (s3.orderOf h) (fun t => ⟨relTicket H t, 0⟩) s3
      let s5 := forgetAssists (fun a => (List.range 32).any (fun c => a == copyAgent h c)) (parkHart h s4)
      s5.setHart h (s5.hart h).saved

/-! ## xld (R349) -/

/-- n bytes of an image are zero. -/
def zeroAt (img o n : Nat) : Bool := field img o n == 0

/-- The header's zero fields and counts (R346). -/
def headerOk (img : Nat) : Bool :=
  [(5, 3), (9, 3), (24, 40), (232, 24), (824, 8), (872, 24), (960, 64), (866, 6), (819, 5), (812, 4), (794, 6), (192, 1),
    (224, 1)].all (fun p => fieldBits img 0 p.1 p.2 == 0) && decide (fieldBits img 0 0 5 ≤ 16) &&
    decide (fieldBits img 0 12 4 ≤ 8)

/-- A class Q word captures nothing of s[A]: vdrain, vstat, vunbind, qstat and cp.lay (R347). -/
def noImageA (w : Nat) : Bool :=
  let op := w % 128
  let fn := w / 2 ^ 24
  (op == 0x3C && (fn == 3 || fn == 4)) || (op == 0x4F && (fn == 1 || fn == 3)) || op == 0x50

/-- A class Q word captures s[B]: setlen with a B field, and hwpub (R347). -/
def hasImageB (w : Nat) : Bool :=
  w % 128 == 0x3C && ((w / 2 ^ 24 == 0 && w / 2 ^ 17 % 32 != 0) || w / 2 ^ 24 == 5)

/-- A queue entry's zero fields; one beyond the count is zero. -/
def entryOk (img o : Nat) (used : Bool) : Bool :=
  let w := field img o 4
  if !used then zeroAt img o 80
  else zeroAt img (o + 4) 4 &&
    (w % 128 == 0x3E ||
      (zeroAt img (o + 24) 56 && (hasImageB w || zeroAt img (o + 16) 8) && (!noImageA w || zeroAt img (o + 8) 8)))

/-- An offcut entry's zero fields; one beyond the count is zero. -/
def offcutOk (img o : Nat) (used : Bool) : Bool :=
  if !used then zeroAt img o 2112 else zeroAt img (o + 2057) 55 && decide (field img (o + 2056) 1 < 2)

/-- The words of a pair of layouts beyond its dimensions are zero. -/
def pairOkAt (img o n : Nat) : Bool := zeroAt img (o + 8 * n) (64 - 8 * n) && zeroAt img (o + 64 + 8 * n) (64 - 8 * n)

/-- A channel's zero fields and counts. -/
def channelOk (img o : Nat) : Bool :=
  let st := field img (o + 288) 8
  let dims := field img (o + 256) 8
  let qn := st / 2 ^ 56 % 16
  decide (dims % 16 ≤ 8) && decide (dims / 16 % 16 ≤ 8) && decide (dims < 512) && zeroAt img (o + 296) 8 &&
    zeroAt img (o + 624) 16 && pairOkAt img o (dims % 16) && pairOkAt img (o + 128) (dims / 16 % 16) && st / 2 ^ 40 % 2 ^ 16 == 0 && st / 2 ^ 60 % 2 == 0 && st / 2 ^ 62 % 2 == 0 && decide (qn ≤ 8) &&
    (List.range 8).all (fun i => decide (i < qn) || zeroAt img (o + 304 + 40 * i) 40)

/-- A stream's zero fields. -/
def streamOk (img o : Nat) : Bool := zeroAt img (o + 72) 8 && fieldBits img (o + 64) 40 22 == 0

/-- A binding's zero fields; one that is not valid is zero. -/
def bindingOk (img o : Nat) : Bool :=
  if fieldBits img (o + 8) 15 1 = 0 then zeroAt img o 16
  else fieldBits img (o + 8) 5 3 == 0 && fieldBits img (o + 8) 11 4 == 0 && fieldBits img (o + 8) 56 8 == 0

/-- An arrival's zero fields. -/
def arrivalRecordOk (img o : Nat) : Bool :=
  decide (field img o 8 < 2) && (field img o 1 == 1 || zeroAt img (o + 8) 8) && decide (field img (o + 8) 8 < 2 ^ 63)

/-- Check 4 of R349. -/
def imageOk (h img : Nat) : Bool :=
  headerOk img && fieldBits img 0 848 16 == coreOf h && fieldBits img 0 864 2 == h % 4 &&
    (fieldBits img 0 8 1 == 1 || (zeroAt img 128 2048 && fieldBits img 0 12 12 == 0)) &&
    (List.range 16).all (fun i => entryOk img (19072 + 80 * i) (decide (i < fieldBits img 0 0 5))) &&
    (List.range 8).all (fun i => offcutOk img (2176 + 2112 * i) (decide (i < fieldBits img 0 12 4))) &&
    (List.range 32).all (fun i => channelOk img (34816 + 640 * i)) &&
    (List.range 12).all (fun i => streamOk img (55296 + 80 * i)) &&
    (List.range 8).all (fun i => bindingOk img (56256 + 16 * i)) &&
    (List.range 4).all (fun i => arrivalRecordOk img (56384 + 16 * i))

/-- The virtual hart of a hart in a launch (R86, R87). -/
def Launch.virtual (L : Launch) (h : Nat) : Nat :=
  4 * ((L.cores.find? (fun c => c.2 == coreOf h)).map (fun c => c.1)).getD 0 + h % 4

/-- The memberships of a virtual hart of a launch (R88, R97). -/
def Launch.memberships (L : Launch) (b : Nat) : Word :=
  let ms := (L.groups.filter (fun g => g.2.members.getLsbD b)).map (fun g => g.1)
  BitVec.ofNat 64 ((List.range ms.length).foldl (fun v i => v + ms.getD i 0 * 2 ^ (8 * i) + 2 ^ (32 + i)) 0)

/-- The header names the launch, in which this hart is parked, and counts no more spill slots than it has (checks 4 and 5 of
R349, both 0x14). -/
def Launch.named (L : Launch) (h img : Nat) : Bool :=
  let b := L.virtual h
  L.parked.contains h && decide (fieldBits img 0 16 8 ≤ L.field 404 8) && fieldBits img 0 768 16 == b && fieldBits img 0 784 16 == L.field 96 10 &&
    fieldBits img 0 800 16 == L.field 116 12 && fieldBits img 0 816 8 == L.field 112 3 &&
    fieldBits img 0 832 16 == L.field 416 16 && fieldBits img 0 896 64 == (L.memberships b).toNat

/-- The launch an image names; its slot must hold no hart of another launch that is not parked (R349, R350). -/
def imageLaunch (h img : Nat) (s : State) : Option (Nat × Launch) :=
  let m := (s.hart h).place.launch
  match s.launch.resident.find? (fun e => e.2.named h img) with
  | none => none
  | some (n, L) =>
    if n = m then some (n, L)
    else if (s.launchAt m).any (fun M => M.parked.contains h) then some (n, L) else none

/-- A pair of layouts of an image. -/
def loadPair (img o n : Nat) : LayoutPair :=
  ⟨(List.range n).map (fun i => BitVec.ofNat 64 (field img (o + 8 * i) 8)),
   (List.range n).map (fun i => BitVec.ofNat 64 (field img (o + 64 + 8 * i) 8))⟩

/-- A copy of an image. -/
def loadCopy (H : Hart) (img o co i : Nat) (bad : Bool) : CopyJob :=
  let t := field img (co + 32) 8
  let kept := i == 0 && decide (2 ^ 63 ≤ t)
  { src := BitVec.ofNat 64 (field img co 8), dst := BitVec.ofNat 64 (field img (co + 8) 8),
    arrive := BitVec.ofNat 64 (field img (co + 16) 8), cfg := BitVec.ofNat 64 (field img (co + 24) 8),
    ticket := absTicket H (t % 2 ^ 63), older := 0, level := H.trap.ppl, replay := false,
    taken := if kept then some (some (loadPair img (o + 128) (fieldBits img (o + 256) 4 4))) else none,
    layouts := none, accept := 0, loaded := true, kept := kept, checked := 0, moves := [], written := [], poisoned := kept && bad }

/-- A channel of an image; whether its accepted copy has met poison before the save is not kept, so bad is free. -/
def loadChannel (H : Hart) (img o : Nat) (queued bad : Bool) : Channel :=
  let lay := fieldBits img (o + 256) 8 1 == 1
  { layouts := if lay then some (loadPair img o (fieldBits img (o + 256) 0 4)) else none
    arrive := BitVec.ofNat 64 (field img (o + 264) 8)
    cfg := BitVec.ofNat 64 (field img (o + 272) 8)
    copies := (List.range (fieldBits img (o + 288) 56 4)).map (fun i => loadCopy H img o (o + 304 + 40 * i) i bad)
    wm := field img (o + 280) 8
    flt := false
    err := fieldBits img (o + 288) 63 1 == 1
    fault := none
    laySeen := lay || queued }

/-- A stream of an image. -/
def loadStream (img o : Nat) : StreamState :=
  { pattern := if fieldBits img (o + 64) 63 1 = 1 then some (BitVec.ofNat 512 (field img o 64)) else none
    bound := fieldBits img (o + 64) 62 1 == 1
    done := fieldBits img (o + 64) 0 40
    ready := [] }

/-- A binding of an image; a channel's binding counts its chunks from the copies of the image on. -/
def loadBinding (img o : Nat) : Option Binding :=
  if fieldBits img (o + 8) 15 1 = 0 then none
  else
    let v := BitVec.ofNat 64 (field img o 8)
    let q := bits v 0 5 - 4
    let pat := BitVec.ofNat 512 (field img (55296 + 80 * q) 64)
    some { base := fieldBits img (o + 8) 0 5
           count := if v.getLsbD 63 then bits v 8 4 else bits pat 268 4
           operand := v
           cond := BitVec.ofNat 3 (fieldBits img (o + 8) 8 3)
           pattern := if v.getLsbD 63 then 0 else pat
           chunks := fieldBits img (o + 8) 16 40
           parts := []
           held := none }

/-- A queue entry of an image, its scan still to be made. -/
def loadEntry (img o : Nat) : QEntry :=
  { word := BitVec.ofNat 32 (field img o 4), a := BitVec.ofNat 64 (field img (o + 8) 8),
    b := BitVec.ofNat 64 (field img (o + 16) 8), g := Vector.ofFn (fun n => BitVec.ofNat 64 (field img (o + 16 + 8 * n.val) 8)),
    scanS := 0, scanK := 0, binds := [] }

/-- The frozen instance of an image, with the bindings whose condition bits it has marked. -/
def loadInstance (img : Nat) (bs : List Binding) : Option BlockInstance :=
  if fieldBits img 0 8 1 = 0 then none
  else
    some { path := BitVec.ofNat 16384 (field img 128 2048)
           offcut := ((List.range (fieldBits img 0 12 4)).map (fun i =>
             let o := 2176 + 2112 * i
             (⟨BitVec.ofNat 16384 (field img o 2048), BitVec.ofNat 64 (field img (o + 2048) 8), field img (o + 2056) 1 == 1⟩ :
               Offcut))).reverse
           spilled := fieldBits img 0 16 8
           scanS := BitVec.ofNat 32 (fieldBits img 0 192 32)
           scanK := BitVec.ofNat 8 (fieldBits img 0 224 8)
           binds := (bs.filter (fun b => fieldBits img 0 (224 + b.cond.toNat) 1 == 1)).map (fun b => b.base)
           sides := none }

/-- The entries of the queue with the registers that their scans mark, oldest first (R186, R240, R336). -/
def rescan (h : Nat) : List QEntry → List QEntry → State → List QEntry × State
  | done, [], s => (done, s)
  | done, e :: t, s =>
    if bits e.word 0 7 = 0x3E then
      let (sc, s1) := scanFrom h 256 e.a ⟨0, 0, false⟩ s
      let H := s1.hart h
      let K := { H with vec := { H.vec with queue := done }, trap := { H.trap with vf := false } }
      let bs := K.bindingsAhead
      rescan h (done ++ [{ e with scanS := sc.ss, scanK := sc.kk ||| condBits bs, binds := bs.map Prod.fst }]) t s1
    else rescan h (done ++ [e]) t s

/-- The word is a cp.lay of channel c in some queue. -/
def layQueued (c : Nat) (q : List QEntry) : Bool := q.any (fun e => isLayOf c e.word)

/-- The placement registers of a parked hart (R97, R349). -/
def Launch.place (L : Launch) (n h img : Nat) : PlaceRegs :=
  { placeRegs n L.record [] (L.virtual h) L.pipe with gmem := BitVec.ofNat 64 (fieldBits img 0 896 64) }

/-- The hart with every part of an image (R345, R349). -/
def Hart.restored (H : Hart) (h n img : Nat) (L : Launch) (bad : Bool) : Hart :=
  let q := (List.range (fieldBits img 0 0 5)).map (fun i => loadEntry img (19072 + 80 * i))
  let bs := (List.range 8).filterMap (fun i => loadBinding img (56256 + 16 * i))
  let inst := loadInstance img bs
  let act := inst.isSome
  let due := tget (none, []) L.causes h
  { H with
    handBack := H.handBack.or due.1
    loadTraps := H.loadTraps ++ due.2
    place := L.place n h img
    vec := { H.vec with
      queue := q
      frozen := inst
      kept := ⟨0, 0⟩
      made := ⟨0, 0⟩
      m := Vector.ofFn (fun i => if i.val = 0 then H.vec.m[i] else BitVec.ofNat 16384 (field img (20352 + 2048 * (i.val - 1)) 2048))
      side := Vector.ofFn (fun i => BitVec.ofNat 32 (field img (34688 + 4 * i.val) 4))
      enq := { H.vec.enq with main := H.vec.done.main + q.length + (if act then 1 else 0) } }
    chans := Vector.ofFn (fun c => loadChannel H img (34816 + 640 * c.val) (layQueued c.val q) bad)
    streams := Vector.ofFn (fun i => if i.val < 4 then StreamState.initial else loadStream img (55296 + 80 * (i.val - 4)))
    binds := bs
    updates := H.updates ++ (tget [] L.owed h).map (fun u => { u with ticket := absTicket H u.ticket.main })
    group := { H.group with pend := Vector.ofFn (fun i =>
      if field img (56384 + 16 * i.val) 1 = 1 then
        some ⟨5, absTicket H (field img (56384 + 16 * i.val + 8) 8), 0⟩
      else none) }
    trap := { H.trap with
      vf := act || !q.isEmpty
      tva := act
      tvpc := if act then BitVec.ofNat 64 (fieldBits img 0 64 64) else H.trap.tvpc
      telem := if act then BitVec.ofNat 64 (fieldBits img 0 128 64) else H.trap.telem
      tg := if act then Vector.ofFn (fun k => BitVec.ofNat 64 (fieldBits img 0 (256 + 64 * k.val) 64)) else H.trap.tg
      xld := 0
      loaded := true } }

/-- The outcome of a load that fails. -/
def setXld (h v : Nat) (s : State) : State :=
  let H := s.hart h
  s.setHart h { H with trap := { H.trap with xld := BitVec.ofNat 64 v } }

/-- Load an image that has passed its checks. -/
def restoreImage (h n img : Nat) (L : Launch) (s : State) : State :=
  let (bad, s1) := drawBool s
  let H := s1.hart h
  let s2 := parkJobs h L.order (fun t => absTicket H t.main) (s1.setHart h (H.restored h n img L bad))
  let (q, s3) := rescan h [] (s2.hart h).vec.queue s2
  let K := s3.hart h
  (s3.setHart h { K with vec := { K.vec with queue := q } }).setLaunch n { L with owed := tdrop L.owed h, causes := tdrop L.causes h }

/-- Load the image at an address (R349). -/
def loadImage (h : Nat) (v : Word) (s : State) : State :=
  let H := s.hart h
  if !H.trap.ts || H.trap.vf || !H.vectorIdle || H.chans.toList.any (fun C => !C.copies.isEmpty) then setXld h 0x07 s
  else if v.toNat % 64 ≠ 0 then setXld h 0x04 s
  else
    match readImage (s.who h) (spanPages imageBytes) v.toNat imageBytes s with
    | .trap c _ s1 => setXld h c s1
    | .ok img s1 =>
      if !imageOk h img then setXld h 0x14 s1
      else
        match imageLaunch h img s1 with
        | none => setXld h 0x14 s1
        | some (n, L) => restoreImage h n img L s1

/-- cpark: the core is offered while its slots are idle or hold parked harts (R350). -/
def writeCpark (core : Nat) (v : Word) (s : State) : State := s.setCore core { s.core core with cpark := v.getLsbD 0 }

end Sys2Proof.Machine
end

