-- ==== Sys2Proof/Machine/Observe.lean ====
section
/-!
DEFINITION. Errors and observation: repair and machine checks, poison, scrubbing, page retirement, migration, error logs,
counters, energy, sample and trace records, stops (R393 to R413).
-/
namespace Sys2Proof.Machine

/-! ## Performance counters (R406, R407) -/

/-- The event that counter n counts, 0 for none (R406). -/
def CoreState.event (C : CoreState) (n : Nat) : Nat := if C.pmsel.getLsbD (40 + n) then bits C.pmsel (5 * n) 5 else 0

/-- The events whose number the spec leaves to timing and to the state of caches: all but instructions retired, element groups,
copy bytes, wrong predictions, and corrected errors and replays (R406; assumption 57). -/
def openEvent (e : Nat) : Bool := [1, 4, 5, 6, 7, 8, 9, 11, 13, 15].contains e

/-- Counter n counts an event whose number is open. -/
def CoreState.counts (C : CoreState) (n : Nat) : Bool := openEvent (C.event n)

/-- Set counter n. -/
def CoreState.setPmc (C : CoreState) (n : Nat) (v : BitVec 48) : CoreState :=
  if hn : n < 8 then { C with pmc := C.pmc.set n v } else C

/-- Counter n after m more events: on wrapping it sets its bit in pmovf (R406). -/
def CoreState.countOn (C : CoreState) (n m : Nat) : CoreState :=
  if hn : n < 8 then
    let v := (C.pmc[n]).toNat + m
    let C1 := C.setPmc n (BitVec.ofNat 48 v)
    if 2 ^ 48 ≤ v then { C1 with pmovf := putBit C1.pmovf n true } else C1
  else C

/-- Counters with FE set count the harts and engines of the context FCTX only; an event of none is counted without it (R406). -/
def CoreState.counted (C : CoreState) (ctx : Option Nat) : Bool := !C.pmsel.getLsbD 60 || ctx == some (bits C.pmsel 48 12)

/-- m events have occurred at a core, of a context if they are one's: each counter of the event counts them, but one that has been
written in this step (R406, R407). -/
def countEvent (core : Nat) (ctx : Option Nat) (e m : Nat) (s : State) : State :=
  let C := s.core core
  let due := (List.range 8).filter (fun n => C.event n == e && C.counted ctx && !s.wrote.contains (8 * core + n))
  if m = 0 || due.isEmpty then s else s.setCore core (due.foldl (fun K n => K.countOn n m) C)

/-- Read counter n: one that counts an open event has counted a free number of events since it was last read or written
(R406; assumption 57). -/
def readPmc (core n : Nat) (s : State) : Word × State :=
  let value (C : CoreState) : Word := if hn : n < 8 then (C.pmc[n]).setWidth 64 else 0
  if (s.core core).counts n then
    let (v, s1) := drawWord s
    let C := (s.core core).countOn n (bits v 0 48)
    (value C, s1.setCore core C)
  else (value (s.core core), s)

/-- A write of counter n (R407). -/
def writePmc (core n : Nat) (v : Word) (s : State) : State :=
  { s.setCore core ((s.core core).setPmc n (v.setWidth 48)) with wrote := (8 * core + n) :: s.wrote }

/-- A write of pmsel: the counters that count are read as they stand. -/
def writePmsel (core : Nat) (v : Word) (s : State) : State :=
  let s1 := (List.range 8).foldl (fun t n => (readPmc core n t).2) s
  s1.setCore core { s1.core core with pmsel := BitVec.ofNat 64 (bits v 0 61) }

/-- A counter of an open event wraps (R406). -/
def execCounterOverflow (c n : Nat) (s : State) : Out :=
  .next (
    if c < 256 ∧ (s.core c).counts n then
      let C := (s.core c).setPmc n 0
      s.setCore c { C with pmovf := putBit C.pmovf n true }
    else s)

/-! ## Energy (R408) -/

/-- The weight of a class (R408). -/
def EnergyUnit.weight (E : EnergyUnit) (c : Nat) : BitVec 16 := if hc : c < 8 then E.enwt[c] else 0

/-- Charges are made whose number is open: the static energy of each cycle, and the classes but element groups and scalar
instructions (R408; assumption 57). -/
def EnergyUnit.charges (E : EnergyUnit) : Bool :=
  E.enstat != 0 || (List.range 8).any (fun c => c != 1 && c != 2 && E.weight c != 0)

/-- A count after m more picojoules: whole microjoules carry, and one that would pass 2 ^ 48 - 1 stays there and sets SAT
(R408). -/
def Energy.grow (e : Energy) (m : Nat) : Energy :=
  let v := e.count.toNat + (e.acc + m) / 10 ^ 6
  let rest := (e.acc + m) % 10 ^ 6
  if 2 ^ 48 ≤ v then { e with count := BitVec.allOnes 48, sat := true, acc := rest }
  else { e with count := BitVec.ofNat 48 v, acc := rest }

/-- energy as a count reads (R413). -/
def Energy.word (e : Energy) : Word := BitVec.ofNat 64 ((if e.sat then 2 ^ 63 else 0) + e.count.toNat)

/-- The count of a context. -/
def EnergyUnit.of (E : EnergyUnit) (ctx : Nat) : Energy := tget ⟨0, false, 0, 0⟩ E.counts ctx

/-- m events of class c are charged to a context, but for a count that has been written in this step (R407, R408). -/
def chargeEvents (ctx c m : Nat) (s : State) : State :=
  let E := s.energy
  if m = 0 || E.weight c == 0 || s.wrote.contains (2048 + ctx) then s
  else { s with energy := { E with counts := tput E.counts ctx ((E.of ctx).grow (m * (E.weight c).toNat)) } }

/-- The energy count of the selected context: a free amount more than it was, when charges have been made whose number is open
(R408; assumption 57). -/
def readEnergy (s : State) : Word × State :=
  let E := s.energy
  let c := E.ensel.toNat
  let e := E.of c
  if E.charges || decide (e.seen < E.epoch) then
    let (v, s1) := drawWord s
    let (w, s2) := drawWord s1
    let k := { e.grow (bits v 0 48 * 10 ^ 6 + bits w 0 20) with seen := E.epoch }
    (k.word, { s2 with energy := { E with counts := tput E.counts c k } })
  else (e.word, s)

/-- A write of energy sets the count and clears SAT and the accumulator (R408). -/
def writeEnergy (v : Word) (s : State) : State :=
  let E := s.energy
  { s with
    energy := { E with counts := tput E.counts E.ensel.toNat ⟨BitVec.ofNat 48 (bits v 0 48), false, 0, E.epoch⟩ }
    wrote := (2048 + E.ensel.toNat) :: s.wrote }

/-- New weights: what was charged under the old ones since the counts were last read is open. -/
def reweigh (f : EnergyUnit → EnergyUnit) (s : State) : State :=
  let E := s.energy
  { s with energy := f (if E.charges then { E with epoch := E.epoch + 1 } else E) }

/-! ## What a step counts (R406, R408) -/

/-- What the counters and the energy count gain by what hart h has done, as H before the step and as K behind it. -/
def countHart (h : Nat) (H K : Hart) (s : State) : State :=
  let core := coreOf h
  let ctx := H.place.lctx.toNat
  let ran := K.retired - H.retired
  let groups := K.obs.tally.groups - H.obs.tally.groups
  let s1 := [(2, ran), (3, groups), (10, K.obs.tally.copied - H.obs.tally.copied), (12, K.obs.tally.wrong - H.obs.tally.wrong),
    (14, K.obs.tally.fixed - H.obs.tally.fixed)].foldl (fun t e => countEvent core (some ctx) e.1 e.2 t) s
  chargeEvents ctx 1 groups (chargeEvents ctx 2 ran s1)

/-- The counters behind a step that began in s. -/
def countStep (s t : State) : State := t.harts.foldl (fun u e => countHart e.1 (s.hart e.1) e.2 u) t

/-! ## Page retirement (R404) -/

/-- A corrected error of a stack page; enough of them queue the page (R404). -/
def countFixed (pa : Nat) (s : State) : State :=
  if !isStackPa pa then s
  else
    let page := pa / 4096
    let n := tget 0 s.retire.fixed page + 1
    let s1 := { s with retire := { s.retire with fixed := tput s.retire.fixed page n } }
    if s.retire.rtthr.toNat ≤ n then queuePage pa s1 else s1

/-- Pop the oldest page (R404, R413). -/
def popRtq (s : State) : Word × State :=
  match s.retire.rtq with
  | [] => (0, s)
  | w :: t => (w ||| (1#64 <<< 63), { s with retire := { s.retire with rtq := t } })

/-! ## Scrubbing (R401, R402) -/

/-- The bytes of the protected unit of a level that a key lies in, if it lies in one (R401, R402). -/
def scrubUnit (l a : Nat) : Option Nat :=
  match l with
  | 2 => if (2 ^ 56 ≤ a ∧ a < 2 ^ 56 + 256 * 2 ^ 18) ∨ (2 ^ 57 ≤ a ∧ a < 2 ^ 57 + 256 * 2 ^ 20) then some 8 else none
  | 3 => if 3 * 2 ^ 56 ≤ a ∧ a < 3 * 2 ^ 56 + 32 * 2 ^ 22 then some 8 else none
  | 5 => if 2 ^ 58 ≤ a ∧ a < 2 ^ 58 + 2 ^ 27 then some 8 else none
  | 6 => if isStackPa a then some 64 else none
  | _ => none

/-- How a key is named in a log: its source, the core that owns the array (the first of a cluster; 0 for one of the device),
and its address, physical or in the window (R403; assumption 66). -/
def logPlace (k : Nat) : Nat × Nat :=
  if k < 2 ^ 56 then (0, k)
  else if k < 2 ^ 57 then ((k - 2 ^ 56) / 2 ^ 18, 0xFFF00000000000 + (k - 2 ^ 56) % 2 ^ 18)
  else if k < 3 * 2 ^ 56 then ((k - 2 ^ 57) / 2 ^ 20, 0xFFF10000000000 + (k - 2 ^ 57) % 2 ^ 20)
  else if k < 2 ^ 58 then (8 * ((k - 3 * 2 ^ 56) / 2 ^ 22), 0xFFF20000000000 + (k - 3 * 2 ^ 56) % 2 ^ 22)
  else (0, 0xFFF30000000000 + (k - 2 ^ 58))

/-- The log entry of a scrubbed unit. -/
def scrubEntry (a type : Nat) : LogEntry := ⟨BitVec.ofNat 56 (logPlace a).2, type, 0, (logPlace a).1, 1, 0⟩

/-- An uncorrectable unit of n bytes is poisoned, logged, and its page queued (R401, R404). -/
def poisonUnit (l a n : Nat) (s : State) : State :=
  let s1 := logError (s.setMem (addPoison s.mm a n)) l (scrubEntry a 1)
  if l = 6 then queuePage a s1 else s1

/-- What a scrub read finds is free: nothing, an error that it corrects, one that it cannot (R402). -/
def scrubFinds (fixed hard : State → State) (s : State) : State :=
  let (bad, s1) := drawBool s
  let (worse, s2) := drawBool s1
  if !bad then s2 else if worse then hard s2 else fixed s2

/-- An error in the windows of one core has been corrected: its counters count it (R406). -/
def fixedInCore (k : Nat) (s : State) : State :=
  if 2 ^ 56 ≤ k ∧ k < 3 * 2 ^ 56 then countEvent (logPlace k).1 none 14 1 s else s

/-- The unit of n bytes at key a. -/
def scrubbed (l a n : Nat) (s : State) : State :=
  scrubFinds (fun t =>
    let t1 := logError t l (scrubEntry a 0)
    if l = 6 then countFixed a t1 else fixedInCore a t1) (poisonUnit l a n) s

/-- The scrubber of level 1 reads tile a mod 4 of core a div 4: an uncorrectable error poisons the whole tile (R401). -/
def scrubTile (a : Nat) (s : State) : State :=
  let c := a / 4
  let e (ty : Nat) : LogEntry := ⟨BitVec.ofNat 56 (a % 4), ty, 0, c, 1, 0⟩
  if 256 ≤ c then s
  else
    scrubFinds (fun t => countEvent c none 14 1 (logError t 1 (e 0))) (fun t =>
      logError (t.setCore c { t.core c with accpsn := putBit (t.core c).accpsn (a % 4) true }) 1 (e 1)) s

/-- The scrubber of level 4 reads a sector that the L2 holds (R207, R401). -/
def scrubSector (a : Nat) (s : State) : State :=
  let sec := a / 16 * 16
  match tfind s.mm.l2 (a / 64) with
  | none => s
  | some line =>
    if !line.valid.getLsbD (a / 16 % 4) then s
    else
      scrubFinds (fun t => logError t 4 (scrubEntry sec 0)) (fun t =>
        logError (t.setMem { t.mm with l2 := tput t.mm.l2 (a / 64) { line with bad := putBit line.bad (a / 16 % 4) true } })
          4 (scrubEntry sec 1)) s

/-- The scrubber of level 6 reads register a mod 2 ^ 12 of near-bank unit a div 2 ^ 12: an uncorrectable one ends the running
job when the job consumes it, a free choice (R267, R395). -/
def scrubNear (a : Nat) (s : State) : State :=
  let u := a / 2 ^ 12
  let e (ty : Nat) : LogEntry := ⟨BitVec.ofNat 56 (a % 2 ^ 12), ty, 0, u, 1, 0⟩
  if 512 ≤ u then s
  else
    scrubFinds (fun t => logError t 6 (e 0)) (fun t =>
      let (used, t1) := drawBool (logError t 6 (e 1))
      if used then nearEnd u 0x0E t1 else t1) s

/-- The scrubber of a level reads the unit at a place; the registers of the near-bank units lie from 2 ^ 60 on (R402). -/
def scrubPlace (l a : Nat) (s : State) : State :=
  if l = 1 then scrubTile a s
  else if l = 4 then scrubSector a s
  else if l = 6 ∧ 2 ^ 60 ≤ a then scrubNear (a - 2 ^ 60) s
  else
    match scrubUnit l a with
    | none => s
    | some n => scrubbed l (a / n * n) n (holdBanks (a / n * n) n s)

/-- A scrubber reads the unit at a place of its level, unless its interval is 0 (R402). With l from 9 to 14 it is an access of
an agent that is about to read the unit, on level l - 8, and meets what stands there: the array corrects, poisons and logs as it
does under a scrub read, whatever the interval (R395, R401; assumption 76, DESIGN CHOICE). -/
def execScrubRead (l a : Nat) (s : State) : Out :=
  .next (
    if hl : 1 ≤ l ∧ l ≤ 6 then
      if s.retire.scrub[l - 1] = 0 then s else scrubPlace l a s
    else if 9 ≤ l ∧ l ≤ 14 then scrubPlace (l - 8) a s
    else s)

/-- The home L2 finds a sector that it holds uncorrectable as it evicts the line: a clean one is dropped, a dirty one goes
to memory with poison (R401). -/
def execL2EvictionPoison (a : Nat) (s : State) : Out :=
  .next (
    match tfind s.mm.l2 (a / 64) with
    | none => s
    | some line =>
      if line.valid.getLsbD (a / 16 % 4) then
        evictLine (a / 64) { line with bad := putBit line.bad (a / 16 % 4) true } s
      else s)

/-! ## Repair and machine checks (R396 to R399) -/

/-- A contained machine check that a hart has met: it is taken at the instruction that met it, and tval names the level and
the location (R398). One that is owed already stays. -/
def owesCheck (h level loc : Nat) (s : State) : State :=
  let H := s.hart h
  s.setHart h { H with mcheck := H.mcheck.or (some (BitVec.ofNat 64 (level * 2 ^ 60 + loc % 65536))) }

/-- The hart runs or waits. -/
def Hart.alive (H : Hart) : Bool := H.status != .idle && H.status != .retired

/-- The registers that a scalar word reads, in the layout of empty: what its fields name as sources, and s8 to s15 for vblk.
A field that is not used is zero, which names a register that is never repaired (R15, R16, R19). -/
def scalarReads (w : Nat) : List Nat :=
  let op := w % 128
  let d := w / 2 ^ 7 % 32
  let a := w / 2 ^ 12 % 32
  let b := w / 2 ^ 17 % 32
  let c := w / 2 ^ 22 % 32
  let fn := w / 2 ^ 24
  if op = 0x20 then [32 + d % 8]
  else if op = 0x0D then (if fn < 3 then [32 + a, 32 + b] else if fn = 3 then [a] else [32 + a])
  else if op = 0x11 then [a, b, c]
  else if 0x30 ≤ op ∧ op ≤ 0x33 then [a, d]
  else if op = 0x34 then (if fn % 32 = 7 then [a, b, d] else [a, b])
  else if op = 0x3E then [8, 9, 10, 11, 12, 13, 14, 15]
  else if op = 0x4F then (if fn = 0 ∨ fn = 2 then [a] else [])
  else if op = 0x50 then (if fn = 1 ∨ fn = 2 then [a, b] else [])
  else if [0x01, 0x0B, 0x10, 0x3B, 0x3C, 0x51, 0x52, 0x53, 0x55, 0x56, 0x57, 0x58].contains op then [a, b]
  else if (0x02 ≤ op ∧ op ≤ 0x08) ∨ (0x28 ≤ op ∧ op ≤ 0x2E) ∨ [0x0C, 0x22, 0x39].contains op then [a]
  else []

/-- The g registers that a class V word reads (R30, R35). -/
def vectorGs (w : Nat) : List Nat :=
  let op := w % 128
  let fn := w / 2 ^ 27
  if op = 0x41 ∨ op = 0x44 ∨ op = 0x47 ∨ (op = 0x4B ∧ (fn ≤ 1 ∨ fn = 6)) then [w / 2 ^ 17 % 8]
  else if op = 0x4A ∧ w / 2 ^ 17 % 32 = 14 then [7]
  else if op = 0x4C then
    (w / 2 ^ 12 % 8) :: (if w / 2 ^ 28 = 2 ∨ w / 2 ^ 28 = 3 then [w / 2 ^ 15 % 8] else [])
  else if op = 0x59 then [w / 2 ^ 12 % 8]
  else []

/-- The masks other than m0 that a class V word reads: its governing mask, the sources of vmask, what vbr tests (R30 to R35). -/
def vectorMasks (w : Nat) : List Nat :=
  let op := w % 128
  let fn := w / 2 ^ 27
  let ms :=
    if op = 0x48 then
      (if fn ≤ 2 then [w / 2 ^ 12 % 8, w / 2 ^ 17 % 8] else if fn = 3 ∨ 6 ≤ fn then [w / 2 ^ 12 % 8] else [])
    else if op = 0x45 then [w / 2 ^ 27 % 8]
    else if op = 0x4C then [w / 2 ^ 24 % 8]
    else if op = 0x4D then [w / 2 ^ 7 % 8]
    else if 0x40 ≤ op ∧ op ≤ 0x4B then [w / 2 ^ 22 % 8]
    else []
  ms.filter (fun m => m != 0)

/-- The vector register fields that a class V word reads (R30 to R35). -/
def vectorFields (w : Nat) : List Nat :=
  let op := w % 128
  let fn := w / 2 ^ 27
  let d := w / 2 ^ 7 % 32
  let a := w / 2 ^ 12 % 32
  let b := w / 2 ^ 17 % 32
  if op = 0x40 then (if fn = 19 then [b] else [a, b])
  else if op = 0x41 ∨ op = 0x42 then (if fn = 19 then [] else [a])
  else if op = 0x43 then (if [4, 7, 8, 10, 11, 12].contains fn then [a] else [a, b])
  else if op = 0x46 then [a, b]
  else if op = 0x44 ∨ op = 0x47 ∨ op = 0x49 ∨ op = 0x4A then [a]
  else if op = 0x45 then [a, b, w / 2 ^ 22 % 32]
  else if op = 0x4B then (if [2, 5, 7, 8].contains fn then [a, b] else [a])
  else if op = 0x4C then
    (if w / 2 ^ 28 % 2 = 1 then [d] else []) ++
      (if w / 2 ^ 28 = 4 ∨ w / 2 ^ 28 = 5 ∨ w / 2 ^ 28 = 9 then [w / 2 ^ 15 % 32] else [])
  else if op = 0x59 then (if w / 2 ^ 24 = 1 then [b] else [])
  else []

/-- The word that the block instance of the hart stands at, looked at without an effect. -/
def peekVector (h : Nat) (s : State) : Option Nat :=
  if (s.hart h).vec.inst.isNone then none
  else
    match (s.hart h).vec.begun with
    | some w => some w.toNat
    | none =>
      match fetchWord h (s.hart h).vec.vpc s with
      | .ok w _ => some w
      | .trap _ _ _ => none

/-- The entries that commands of a hart hold: in its vector and handler queues, on its copy channels, as its event updates, its
tasks and its near-bank jobs; and those of the prefix and mirror tables (R395). -/
def queueEntries (h : Nat) (s : State) : Nat :=
  let H := s.hart h
  H.vec.queue.length + H.vec.hqueue.length + (H.chans.toList.map (fun C => C.copies.length)).sum + H.updates.length +
    (s.sched.toList.map (fun Q => (Q.tasks.filter (fun T => T.hart == h)).length)).sum +
    (s.near.map (fun e => (e.2.jobs.filter (fun J => J.hart == h)).length)).sum +
    s.prefixCount + ((List.range 64).filter (fun e => s.mirrorValid e)).length

/-- The register whose entry of the replay queue repairs r: the g registers are written by one instruction (R153, R396). -/
def replayOf (r : Nat) : Nat := if 40 ≤ r ∧ r < 48 then 40 else r

/-- The control registers that a scalar word reads without naming them, each as 48 + its number: the rounding mode, the flags, the
rounding counter and its key by arithmetic, the flags by compares, swake by idle, the trap record by tret (R100, R115, R127,
R339). -/
def implicitReads (H : Hart) (w : Nat) : List Nat :=
  let op := w % 128
  let fn := w / 2 ^ 24
  if op = 0x10 ∨ op = 0x11 then [48, 49] ++ (if H.frm = 4 then [50, 51] else [])
  else if op = 0x0B ∧ 4 ≤ fn then [49]
  else if w = idleWord then [48 + 5]
  else if w = tretWord then [48 + 0x381, 48 + 0x387, 48 + 0x388] ++ (if H.trap.tva then [48 + 0x382, 48 + 0x383] else [])
  else []

/-- A register is being read: a scalar register or condition bit by the instruction at pc, g0 to g7 (40 to 47) by the word of a
block instance, control register n (48 + n) by its crd or cwr or by a word that reads it without naming it, and an entry of a queue or table (2 ^ 13 and up) (R395, R396;
assumption 47, DEDUCED). -/
def parityMet (h r : Nat) (s : State) : Bool :=
  let H := s.hart h
  if r < 40 then
    r != 0 && r != 32 && !H.regs.empty.getLsbD r && (peekWord h s).any (fun w => (scalarReads w).contains r)
  else if r < 48 then (peekVector h s).any (fun w => (vectorGs w).contains (r - 40))
  else if r < 2 ^ 13 then
    (peekWord h s).any (fun w =>
      ((w % 128 == 0x38 || w % 128 == 0x39) && w / 2 ^ 18 % 4096 + 48 == r) || (implicitReads H w).contains r)
  else decide (r - 2 ^ 13 < queueEntries h s)

/-- A corrected error or a replay of the hart, for its counters (R406). -/
def fixedOnce (h : Nat) (s : State) : State := s.setHart h ((s.hart h).tallied (fun t => { t with fixed := t.fixed + 1 }))

/-- A parity error at a register or an entry as it is read: a register is repaired when its producer is among the 16 latest
writers and its entry is good, a free choice, and the entry of a queue or table when it has a clean source; otherwise it is a
machine check, for which a reader behind an unconfirmed branch waits (R107, R395, R396). -/
def execRegisterParityReplay (h r : Nat) (s : State) : Out :=
  .next (
    let H := s.hart h
    if !H.alive || !parityMet h r s then s
    else
      let (good, s1) := drawBool s
      if 2 ^ 13 ≤ r then (if good then fixedOnce h s1 else owesCheck h 9 (r - 2 ^ 13) s1)
      else if H.regs.replay.any (fun e => e.contains (replayOf r)) && good then
        fixedOnce h (logError s1 0 ⟨BitVec.ofNat 56 r, 4, H.place.lctx.toNat, coreOf h, 1, 0⟩)
      else if !H.settled then s
      else owesCheck h 0 r s1)

/-- Unit i of the field F has bytes in element group e of register r (R160). -/
def Hart.groupMeets (H : Hart) (F r e i : Nat) : Bool :=
  let g := H.vec.geo H.obs.prot
  let (row, u) := H.vec.rowOf g i
  let x := unitBytes g H.vec.gf F row u
  decide (F ≤ r) && decide (x.first < (r - F) * 2048 + 16 * e + 16) && decide ((r - F) * 2048 + 16 * e < x.first + x.count)

/-- Unit i of the field F lies in register r. -/
def Hart.unitIn (H : Hart) (F r i : Nat) : Bool :=
  let (row, u) := H.vec.rowOf (H.vec.geo H.obs.prot) i
  unitReg (H.vec.geo H.obs.prot) H.vec.gf F row u == r

/-- The unit at estart is the first that meets a part. -/
def Hart.comesTo (H : Hart) (meets : Nat → Bool) : Bool :=
  let i := H.vec.estart.toNat
  meets i && (i == 0 || !meets (i - 1))

/-- The instruction at vpc comes to part e of an array that the lanes check: r below 32 is a vector register and e its element
group; 31 + m is mask m and e its byte, of which vbr and vmask read all; 39 + v is the side word of register v (R395, R397;
assumption 47, DEDUCED). -/
def consumes (h r e : Nat) (s : State) : Bool :=
  let H := s.hart h
  (peekVector h s).any (fun w =>
    if r < 32 then (vectorFields w).any (fun F => H.comesTo (H.groupMeets F r e))
    else if r < 39 then
      (vectorMasks w).contains (r - 31) &&
        (w % 128 == 0x48 || w % 128 == 0x4D || H.comesTo (fun i => i / 8 == e))
    else H.vec.ew == 14 && (vectorFields w).any (fun F => H.comesTo (H.unitIn F (r - 39))))

/-- The location code of part e of array r in the log and in tval: registers by element group, then masks by byte, then side
words (R398; assumption 47, DEDUCED). -/
def laneLoc (r e : Nat) : Nat :=
  if r < 32 then 128 * r + e else if r < 39 then 4096 + 2048 * (r - 32) + e else 18432 + (r - 39)

/-- The operand buffer of the instruction that wrote part e of array r stands: a completed one of the running block (R397). -/
def Hart.bufferStands (H : Hart) (r e : Nat) : Bool := H.vec.made.done.getLsbD (laneLoc r e)

/-- An error in part e of array r, caught as it is consumed: the lane re-executes the producer while its buffer stands, and
otherwise it is a machine check at the group's first element. The spec gives the log entry no TYPE (R397). -/
def execLaneReexecute (h r e : Nat) (s : State) : Out :=
  .next (
    let H := s.hart h
    let (ty, s1) := drawWord s
    if !H.alive || H.vec.inst.isNone || !consumes h r e s then s
    else if H.bufferStands r e then
      fixedOnce h (logError s1 0 ⟨BitVec.ofNat 56 (laneLoc r e), ty.toNat % 16, H.place.lctx.toNat, coreOf h, 1, 0⟩)
    else owesCheck h 0 (laneLoc r e) s)

/-- The vector register that a class V word writes, if it writes one (R30 to R35). -/
def vectorDst (w : Nat) : List Nat :=
  let op := w % 128
  if (0x40 ≤ op ∧ op ≤ 0x45) ∨ op = 0x4A ∨ op = 0x4B ∨ (op = 0x4C ∧ w / 2 ^ 28 % 2 = 0 ∧ w / 2 ^ 28 ≤ 8) ∨
      (op = 0x59 ∧ w / 2 ^ 24 = 0) then [w / 2 ^ 7 % 32]
  else []

/-- The lanes come to element group e of the instruction at vpc: of a register that it reads or writes (R399). -/
def groupComputed (h e : Nat) (s : State) : Bool :=
  let H := s.hart h
  (peekVector h s).any (fun w =>
    (vectorFields w ++ vectorDst w).any (fun F => (List.range 32).any (fun r => H.comesTo (H.groupMeets F r e))))

/-- Mirrored lanes disagree: they re-execute the group once; a second mismatch is a machine check; both are logged
(R399). -/
def execProtectedModeMismatch (h e : Nat) (s : State) : Out :=
  .next (
    let H := s.hart h
    let entry : LogEntry := ⟨BitVec.ofNat 56 e, 11, H.place.lctx.toNat, coreOf h, 1, 0⟩
    if !H.obs.prot || !H.alive || H.vec.inst.isNone || 64 ≤ e then s
    else
      let (again, s1) := drawBool s
      if !groupComputed h e s then s
      else if again then owesCheck h 0 e (logError (logError s1 0 entry) 0 entry)
      else fixedOnce h (logError s1 0 entry))

/-! ## Migration (R365, R405) -/

/-- The size of the region that migrates. -/
def Migration.bytes (m : Migration) : Nat := pageBytes m.size.toNat

/-- Copy the bytes of one granule and its sealed sectors. -/
def copyGranule (a b : Nat) (ms : MemSys) : MemSys :=
  let m1 := { clearPoison ms b 64 with cells := writeLE ms.cells b 64 (readLE ms.cells a 64) }
  (List.range 4).foldl (fun m i => { m with seals := match tfind ms.seals (a / 16 + i) with
    | some k => tput m.seals (b / 16 + i) k
    | none => tdrop m.seals (b / 16 + i) }) m1

/-- The last granule is copied: DONE, and inbound requests are redirected, while the table has room (R365, R405). -/
def Migration.finish (m : Migration) : Migration :=
  { m with
    busy := false
    done := true
    redirect := if m.redirect.length < 64 then m.redirect ++ [(m.old.toNat, m.new.toNat, m.bytes)] else m.redirect }

/-- One granule is copied under the watermark, poisoned if it holds poison (R365, R405). -/
def execMigrationGranule (s : State) : Out :=
  .next (
    let m := s.mm.mig
    if !m.busy then s
    else
      let b := m.new.toNat + m.mw
      let a := m.old.toNat + m.mw
      let s1 := departConflicts none b 64 true (readLines a 64 0 (departConflicts none a 64 false s))
      let t := touchLines b 64 0 none (s1.setMem (copyGranule a b s1.mm))
      let s2 := if poisoned s1.mm true a 64 then t.setMem (taintSectors t.mm b 64) else t
      let m1 := { m with mw := m.mw + 64 }
      s2.setMem { s2.mm with mig := if m.bytes ≤ m1.mw then m1.finish else m1 })

/-- A write of rtmig: END, then SIZE, then GO; a GO while BUSY changes nothing. A migration in progress goes by rtold, rtnew and SIZE
as they stand (R405, R413; assumption 79, DESIGN CHOICE). -/
def writeRtmig (v : Word) (s : State) : State :=
  let m := s.mm.mig
  let m1 := if v.getLsbD 62 then { m with busy := false, done := false } else m
  if v.getLsbD 63 && m1.busy then s
  else
    let m2 := { m1 with size := BitVec.ofNat 3 (bits v 53 3) }
    s.setMem { s.mm with mig := if v.getLsbD 63 then { m2 with busy := true, done := false, mw := 0 } else m2 }

/-- rtmig as it reads. -/
def Migration.word (m : Migration) : Word :=
  BitVec.ofNat 64 ((if m.busy then 2 ^ 61 else 0) + (if m.done then 2 ^ 60 else 0) + m.size.toNat * 2 ^ 53 + m.mw % 2 ^ 35)

/-! ## Error logs (R403) -/

/-- The log that elsel selects. -/
def State.logAt (s : State) : ErrorLog := if hl : bits s.elsel 0 4 < 10 then s.logs[bits s.elsel 0 4] else ⟨[], 0⟩

/-- The entry that elsel selects. -/
def State.logEntry (s : State) : Option LogEntry := s.logAt.entries[bits s.elsel 8 6]?

/-- eloga (R403). -/
def LogEntry.worda (e : LogEntry) : Word := e.addr.setWidth 64 ||| (1#64 <<< 63)

/-- elogb (R403). -/
def LogEntry.wordb (e : LogEntry) : Word :=
  BitVec.ofNat 64 (e.type % 16 * 2 ^ 60 + e.ctx % 4096 * 2 ^ 48 + e.src % 65536 * 2 ^ 32 + e.count % 65536 * 2 ^ 16 + e.syn % 65536)

/-- elstat (R403). -/
def ErrorLog.stat (l : ErrorLog) : Word := BitVec.ofNat 64 (l.ovf % 65536 * 2 ^ 8 + l.entries.length % 128)

/-- A write of elstat (R403). -/
def writeElstat (v : Word) (s : State) : State :=
  if hl : bits s.elsel 0 4 < 10 then
    if v.getLsbD 63 then { s with logs := s.logs.set (bits s.elsel 0 4) ⟨[], 0⟩ } else s
  else s

/-! ## Sample and trace records (R409 to R411) -/

/-- SAMPLE_RECORD_WRITE (R409, R411). -/
def execSampleRecordWrite (h : Nat) (s : State) : Out := .next (writeSample h s)

/-- TRACE_RECORD_WRITE (R410, R411). -/
def execTraceRecordWrite (h : Nat) (s : State) : Out := .next (writeTrace h s)

/-- A write of smpcfg or trcfg over its old value; keep holds the bits that follow the write only while EN is 0 (R413). -/
def ringCfg (old v keep free : Word) : Word :=
  let en := old.getLsbD 63
  let on := v.getLsbD 63
  (if on then 1#64 <<< 63 else 0) ||| (v &&& free) ||| ((if en then old else v) &&& keep) |||
    (if on && !en then 0 else old &&& 0xFFFFFFFF#64)

/-- A write of smpcfg (R413). -/
def Hart.writeSmpcfg (H : Hart) (v : Word) : Hart :=
  let start := v.getLsbD 63 && !H.obs.smpcfg.getLsbD 63
  { H with obs := { H.obs with
    smpcfg := ringCfg H.obs.smpcfg v 0x03E0FFFF00000000#64 0
    smpCnt := if start then 0 else H.obs.smpCnt } }

/-- A write of trcfg (R413). -/
def Hart.writeTrcfg (H : Hart) (v : Word) : Hart :=
  { H with obs := { H.obs with trcfg := ringCfg H.obs.trcfg v 0x03E0000000000000#64 0x4000000000000000#64 } }

/-! ## Stops (R412) -/

/-- The stop of a hart fires: its instance stands dispatched at the named instruction and element (R412). -/
def execStopFire (h : Nat) (s : State) : Out :=
  .next (
    let H := s.hart h
    let V := H.vec
    if H.alive && V.inst.isSome && V.armed && H.stopUnit (V.liveUnits H.obs.prot) == some V.estart.toNat then
      stopTrap h V.estart.toNat s
    else s)

/-! ## Cores (R393, R394) -/

/-- rtcore: a core that holds no launch stops counting as usable at once, another when its launch has left (R394). -/
def retireCore (c : Nat) (s : State) : State :=
  if c < 256 then
    match (s.launchOn c).bind s.launchAt with
    | none => s.setCore c { s.core c with retired := true }
    | some L => s.setCore c { s.core c with retiring := some L.order }
  else s

/-- A write of rtcore: the decision is the host's when it recovers errors; its event has bit 63 of the detail set, over the
core; with a full event queue the write waits (R394, R421, R422; assumption 58). -/
def writeRtcore (c : Nat) (s : State) : State :=
  if s.handsOver 4 then wantRoom (wantHost 5 (BitVec.ofNat 192 (2 ^ 63 + c)) s) else retireCore c s

/-- prot: the registers' upper halves read as zero after a change, and len is granted again (R399). -/
def Hart.writeProt (H : Hart) (b : Bool) : Hart :=
  if b = H.obs.prot then H
  else
    let V := H.vec
    let V1 := { V with v := V.v.map (fun r => r &&& BitVec.ofNat 16384 (2 ^ 8192 - 1)) }
    { H with
      obs := { H.obs with prot := b }
      vec := if V.fmt.getLsbD 63 then V1 else { V1 with len := (V1.regrant b).len } }

end Sys2Proof.Machine
end

