-- ==== Sys2Proof/Machine/System.lean ====
section
/-!
DEFINITION. The sys and group instructions with their events: traps, return, halt and retirement, idle, barriers (R93,
R127, R326 to R330, R339 to R341, R343).
-/
namespace Sys2Proof.Machine

/-! ## sys (R127) -/

/-- trap: cause 0x0C with the code; tpc is the next instruction (R127). -/
def execTrap (c : BitVec 20) (s : State) : Out :=
  .next (onScalar (trapWord c) s (fun h => scalarTrap h 0x0C (c.setWidth 64) true s))

/-- brk: cause 0x0D at its own address (R127). -/
def execBrk (s : State) : Out :=
  .next (onScalar brkWord s (fun h => scalarTrap h 0x0D (s.hart h).pc false s))

/-- Faults of the hart's tasks that were found while it was parked are delivered now, in posting order (R301, R332). -/
def tellTasks (h order : Nat) (s : State) : State :=
  (List.range 4).foldl (fun t q =>
    let Q := t.scheduler q
    let new := Q.tasks.filter (fun T => T.hart == h && T.launch == order && T.flt && !T.told)
    let H := t.hart h
    let t1 := t.setScheduler q { Q with tasks := Q.tasks.map (fun T =>
      if T.hart = h ∧ T.launch = order ∧ T.flt then { T with told := true } else T) }
    t1.setHart h { H with taskFaults := H.taskFaults ++ new.map (fun T => (T.cause, q * 2 ^ 32 + T.seq, T.tval)) }) s

/-- What the trap that the hart returns from was for, as tinfo names it: a source, and n bits of its detail (R354). -/
def TrapRegs.tracked (T : TrapRegs) (src n : Nat) : Option Nat :=
  if T.ts && bits T.tinfo 60 4 == src then some (bits T.tinfo 0 n) else none

/-- What tret releases: a faulted task becomes ready again, a faulted channel goes on, a restored context runs and learns
of the faults found meanwhile (R251, R301, R350). -/
def releaseTrap (h : Nat) (T : TrapRegs) (s : State) : State :=
  let s1 := match T.tracked 4 34 with
    | none => s
    | some hd =>
      let q := hd / 2 ^ 32 % 4
      let Q := s.scheduler q
      s.setScheduler q { Q with tasks := Q.tasks.map (fun U =>
        if U.seq = hd % 2 ^ 32 ∧ U.flt then { U with flt := false, issued := false } else U) }
  let s2 := match T.tracked 3 5 with
    | none => s1
    | some c =>
      let H := s1.hart h
      if hc : c < 32 then s1.setHart h { H with chans := H.chans.set c { H.chans[c] with flt := false } } else s1
  if T.loaded then
    match s2.launchAt (s2.hart h).place.launch with
    | none => s2
    | some L => tellTasks h L.order (s2.setLaunch (s2.hart h).place.launch { L with parked := L.parked.filter (· != h) })
  else s2

/-- The effect of tret: the trap record, the frozen set, and what the trap held up (R339, R410). -/
def tretEffect (h : Nat) (s : State) : State :=
  let H := s.hart h
  let H1 := (H.trace 4 H.pc H.trap.tpc 0).leave
  releaseTrap h H.trap (s.setHart h { H1 with trap := { H1.trap with loaded := false } })

/-- The target of a tret that lies off a word: tpc, or the tvpc of the instance that it would resume (R9, R339;
assumption 15, DEDUCED for tvpc). -/
def Hart.tretTarget (H : Hart) : Option Word :=
  if H.trap.tpc.toNat % 4 ≠ 0 then some H.trap.tpc
  else if H.trap.vf && H.vec.frozen.isSome && H.trap.tvpc.toNat % 4 != 0 then some H.trap.tvpc
  else none

/-- A tret whose target lies off a word: in a trap only the record changes and the handler starts again (R9, R340). -/
def tretMisaligned (h : Nat) (target : Word) (s : State) : State :=
  let H := s.hart h
  if H.trap.ts then
    s.setHart h { H with
      pc := H.trap.tvec
      trap := { H.trap with tcause := 0x04, tval := target, tinfo := trapInfo 0 0 } }
  else scalarTrap h 0x04 target false s

/-- tret (R339). -/
def execTret (s : State) : Out :=
  .next (onScalar tretWord s (fun h =>
    let H := s.hart h
    gated h (H.confirmed.and ((H.kernelGate tretWord).and (Gate.until H.vectorIdle))) s
      (match H.tretTarget with
       | none => tretEffect h s
       | some a => tretMisaligned h a s)))

/-! ## halt (R93) -/

/-- A hart may retire: its queue is done, its copies, its tasks, its stores and its atomics are complete, no arrival is pending, no
event update, no replay (R93, R279, R327). -/
def mayRetire (h : Nat) (s : State) : Bool :=
  let H := s.hart h
  H.vectorIdle && !H.trap.vf && H.chans.toList.all (fun c => c.copies.isEmpty) &&
    !s.hasTask (fun T => T.hart == h && T.launch == s.orderOf h) &&
    !H.owes (fun p => p.kind != .load) && H.group.pend.toList.all (fun p => p.isNone) && H.updates.isEmpty &&
    H.loop.st != 3

/-- halt: retire, or wait until that is possible (R92, R93, R127); on a near-bank thread the thread ends (R263). -/
def execHalt (s : State) : Out :=
  .next (match s.agent with
  | .scalar h =>
    let H := s.hart h
    gated h H.confirmed s
      (if mayRetire h s then retireHart h s else s.setHart h { H with status := .waiting .halt })
  | .nearBank u x =>
    onJob u x s (fun J => s.putJob u (J.setThread x { J.thread x with halted := true }))
  | _ => wrongClass haltWord s)

/-- A waiting halt retires (R93). -/
def execHartRetire (h : Nat) (s : State) : Out :=
  .next (if (s.hart h).status = .waiting .halt ∧ mayRetire h s then retireHart h s else s)

/-! ## idle and yield (R127) -/

/-- cyc has reached swake. -/
def woken (h : Nat) (s : State) : Bool := decide ((s.hart h).swake.toNat ≤ (s.cyc h).toNat)

/-- idle waits until cyc reaches swake or a pre-emption request reaches the hart (R127). -/
def execIdle (s : State) : Out :=
  .next (onScalar idleWord s (fun h =>
    let H := s.hart h
    gated h H.confirmed s
      (if woken h s || H.trap.prq then s.setHart h H.advance else s.setHart h { H with status := .waiting .idle })))

/-- cyc reaches swake and a waiting hart goes on (R127). -/
def execIdleWake (h : Nat) (s : State) : Out :=
  .next (if (s.hart h).status = .waiting .idle ∧ woken h s then s.setHart h (s.hart h).advance else s)

/-- yield takes a pending pre-emption here, with tpc behind it; a replay departs first (R127, R343). -/
def execYield (s : State) : Out :=
  .next (onScalar yieldWord s (fun h =>
    let H := s.hart h
    gated h H.confirmed s
      (if H.trap.prq && !H.trap.ts then
        if !H.mayPreempt || H.trapWaits then s
        else takeTrap h 0x11 0 (trapInfo 6 0) true (s.setHart h H.forPreempt)
      else s.setHart h H.advance)))

/-- The pending asynchronous cause of highest priority is taken at the boundary (R332, R333, R337). -/
def execTrapEntry (h : Nat) (s : State) : Out :=
  .next (
    let H := s.hart h
    match H.status with
    | .idle => s
    | .retired => s
    | _ =>
      match H.pendingAsync with
      | none => s
      | some a => takeAsync h a s)

/-! ## Groups (R326 to R330) -/

/-- The membership of the hart in group n, if it is a member (R88, R97). -/
def Hart.membership (H : Hart) (n : Nat) : Option Nat :=
  (List.range 4).find? (fun i => H.place.gmem.getLsbD (32 + i) && bits H.place.gmem (8 * i) 8 == n)

/-- The group of a hart's launch. -/
def State.group (s : State) (h n : Nat) : Option Group := (s.launchOf h).bind (fun L => tfind L.groups n)

/-- The hart has arrived in the current generation of the group. -/
def State.hasArrived (s : State) (h n : Nat) : Bool :=
  match s.group h n with
  | some G => G.arr.getLsbD (s.hart h).place.lvh.toNat
  | none => false

/-- The pending arrival of membership i. -/
def Hart.pendAt (H : Hart) (i : Nat) : Option PendArrival := if hi : i < 4 then H.group.pend[i] else none

/-- Set the pending arrival of membership i. -/
def Hart.setPend (H : Hart) (i : Nat) (p : Option PendArrival) : Hart :=
  if hi : i < 4 then { H with group := { H.group with pend := H.group.pend.set i p } } else H

/-- A new arrival, that waits for the hart's older accesses (R328). -/
def Hart.newArrival (H : Hart) (i scope : Nat) : Hart := H.setPend i (some ⟨scope, H.position, H.nextId⟩)

/-- The wait of gwait and gsync: over when no arrival is pending and none counts in the current generation (R328). -/
def groupWait (h i n : Nat) (s : State) : State :=
  let H := s.hart h
  if (H.pendAt i).isNone && !s.hasArrived h n then
    s.setHart h { H with group := { H.group with sent := false } }.advance
  else s.setHart h { H with status := .waiting .group }

/-- A group instruction: the check of the group, then the wait for an earlier arrival, then its own effect (R328). -/
def groupOp (word : Nat) (g : BitVec 8) (s : State) (k : Nat → Nat → State) : State :=
  onScalar word s (fun h =>
    let H := s.hart h
    gated h H.confirmed s
      (match H.membership g.toNat with
       | none => scalarTrap h 0x07 (g.setWidth 64) false s
       | some i => k h i))

/-- gsync: arrive, unless the arrival is sent or resumed, and wait (R328, R330). -/
def execGsync (c : BitVec 3) (g : BitVec 8) (s : State) : Out :=
  .next (groupOp (gsyncWord c g) g s (fun h i =>
    let H := s.hart h
    if H.group.sent then groupWait h i g.toNat s
    else if (H.pendAt i).isSome then s
    else if H.group.wo then
      groupWait h i g.toNat (s.setHart h { H with group := { H.group with wo := false, sent := true } })
    else
      let H1 := H.newArrival i c.toNat
      s.setHart h { H1 with group := { H1.group with sent := true }, status := .waiting .group }))

/-- garrive: the arrival leaves later, the stream goes on (R328). -/
def execGarrive (c : BitVec 3) (g : BitVec 8) (s : State) : Out :=
  .next (groupOp (garriveWord c g) g s (fun h i =>
    let H := s.hart h
    if (H.pendAt i).isSome then s else s.setHart h (H.newArrival i c.toNat).advance))

/-- gwait waits for the generation of the latest arrival (R328). An arrival that is still pending is waited for as part
of running. -/
def execGwait (c : BitVec 3) (g : BitVec 8) (s : State) : Out :=
  .next (groupOp (gwaitWord c g) g s (fun h i =>
    if ((s.hart h).pendAt i).isSome then s else groupWait h i g.toNat s))

/-- The pending arrival of membership m is sent once its older accesses are performed (R326, R328). -/
def execGroupArrivalSend (h m : Nat) (s : State) : Out :=
  .next (
    match (s.hart h).pendAt m with
    | none => s
    | some p =>
      if !(s.hart h).trap.loaded && (s.hart h).reached p.ticket && !(s.hart h).owes (fun q => decide (q.id < p.older)) then
        let s1 := forceEntries h p.ticket (forceLoads h (fun q => decide (q.id < p.older)) s)
        let H := s1.hart h
        let s2 := s1.setHart h (H.setPend m none)
        match s2.launchAt H.place.launch with
        | none => s2
        | some L =>
          let n := bits H.place.gmem (8 * m) 8
          match tfind L.groups n with
          | none => s2
          | some G => s2.setLaunch H.place.launch { L with groups := tput L.groups n (G.arrive H.place.lvh.toNat) }
      else s)

end Sys2Proof.Machine
end

