-- ==== Sys2Proof/Machine/Registers.lean ====
section
/-!
DEFINITION. The control registers: their levels, their reads and writes, crd and cwr, and the events that are writes of
one register (R27, R97, R99, R126, R155, R158, R259, R289, R314, R331, R354, R356, R391, R413, R425).
-/
namespace Sys2Proof.Machine

/-! ## Which numbers are assigned, and the levels of a read and of a write -/

/-- Ranges of assigned numbers with the minimum levels of a read and of a write. -/
def regRanges : List (Nat × Nat × Nat × Nat) :=
  [(0x000, 0x005, 0, 0), (0x010, 0x012, 0, 0), (0x080, 0x086, 0, 0), (0x090, 0x090, 0, 1), (0x0C0, 0x0FF, 1, 1),
   (0x100, 0x104, 0, 1), (0x105, 0x105, 0, 0), (0x106, 0x107, 1, 1), (0x108, 0x108, 0, 0), (0x180, 0x182, 0, 0),
   (0x200, 0x203, 0, 1), (0x204, 0x204, 0, 0), (0x280, 0x280, 0, 1), (0x281, 0x282, 1, 1), (0x283, 0x283, 0, 0),
   (0x284, 0x284, 1, 1), (0x300, 0x300, 0, 1), (0x301, 0x302, 1, 1), (0x380, 0x395, 1, 1), (0x400, 0x400, 0, 0),
   (0x401, 0x401, 1, 1), (0x410, 0x41F, 0, 0), (0x420, 0x42F, 2, 2), (0x430, 0x432, 1, 1), (0x433, 0x435, 0, 0),
   (0x438, 0x43B, 1, 1), (0x43C, 0x43C, 0, 0), (0x43D, 0x43D, 2, 2), (0x440, 0x441, 0, 0)] ++
  [(0x480, 0x480, 0, 1), (0x481, 0x481, 1, 1), (0x482, 0x482, 2, 2), (0x483, 0x487, 1, 1), (0x489, 0x48E, 2, 2),
   (0x490, 0x493, 1, 1), (0x4A0, 0x4A0, 0, 1), (0x4A1, 0x4A1, 0, 0), (0x4A8, 0x4AF, 0, 1), (0x4C0, 0x4C1, 1, 1),
   (0x4C8, 0x4D0, 2, 2), (0x4E0, 0x4E1, 1, 1), (0x4E8, 0x4EB, 1, 1), (0x4F0, 0x4F1, 1, 1), (0x500, 0x501, 2, 2),
   (0x502, 0x502, 1, 1), (0x503, 0x503, 2, 2)]

/-- The minimum levels of a read and of a write of a register; none for an unassigned number (R27). -/
def regLevels (n : Nat) : Option (Nat × Nat) :=
  (regRanges.find? (fun e => decide (e.1 ≤ n) && decide (n ≤ e.2.1))).map (fun e => (e.2.2.1, e.2.2.2))

/-! ## Reads -/

/-- A Boolean at a bit of a register. -/
def flagAt (i : Nat) (b : Bool) : Nat := if b then 2 ^ i else 0

/-- The halfword of the grade: 0x4256, or 0x4240 when fuses disable the cores of that grade, with the stepping of the part (R1, R99). -/
def State.dpart (s : State) : Word :=
  BitVec.ofNat 64 ((if s.launch.fused40 then 0x4240 else 0x4256) + Config.stepping.toNat * 2 ^ 16)

/-- 0x000 to 0x07F (R99). -/
def readScalarReg (n h : Nat) (s : State) : Word :=
  let H := s.hart h
  match n with
  | 0x000 => H.frm.setWidth 64
  | 0x001 => H.regs.fst.setWidth 64
  | 0x002 => H.srkey
  | 0x003 => H.regs.srctr
  | 0x004 => s.cyc h
  | 0x005 => H.swake
  | 0x010 => s.dpart
  | 0x011 => BitVec.ofNat 64 (h % 4)
  | 0x012 => H.plev.setWidth 64
  | _ => 0

/-- 0x080 to 0x0FF (R97). -/
def readPlaceReg (n h : Nat) (s : State) : Word :=
  let P := (s.hart h).place
  match n with
  | 0x080 => P.lvh.setWidth 64
  | 0x081 => BitVec.ofNat 64 (coreOf h)
  | 0x082 => P.lgrid.setWidth 64
  | 0x083 => P.lctx.setWidth 64
  | 0x084 => P.lprio.setWidth 64
  | 0x085 => P.ltag.setWidth 64
  | 0x086 => P.gmem
  | 0x090 => (s.core (coreOf h)).hshare.setWidth 64
  | _ => if 0x0C0 ≤ n then (s.queueAt (n - 0x0C0)).cfg else 0

/-- The offcuts and the spilled entries of the running instance, or of the frozen one. -/
def VecState.voff (V : VecState) : Word :=
  match V.inst, V.frozen with
  | some b, _ => BitVec.ofNat 64 (b.offcut.length + b.spilled % 256 * 256)
  | none, some b => BitVec.ofNat 64 (b.offcut.length + b.spilled % 256 * 256)
  | none, none => 0

/-- 0x100 to 0x17F (R155). In the middle of a block instance vst, vdirty, vpc and estart read as they then stand (R158;
assumption 66, DESIGN CHOICE). -/
def readVectorReg (n h : Nat) (s : State) : Word :=
  let V := (s.hart h).vec
  match n with
  | 0x100 => V.len
  | 0x101 => V.rows
  | 0x102 => V.fmt
  | 0x103 => V.estart
  | 0x104 => V.vpc
  | 0x105 => V.vst.setWidth 64
  | 0x106 => V.vdirty
  | 0x107 => V.voff
  | 0x108 => BitVec.ofNat 64 V.queue.length
  | _ => 0

/-- Bit i of a word for each index below n of which f holds. -/
def bitMap (n : Nat) (f : Nat → Bool) : Nat := (List.range n).foldl (fun v i => v + flagAt i (f i)) 0

/-- 0x180 to 0x1FF (R259). -/
def readEngineReg (n h : Nat) (s : State) : Word :=
  let H := s.hart h
  match n with
  | 0x180 => BitVec.ofNat 64 (bitMap 16 (fun q => (H.stream q).bound) + 2 ^ 16 * bitMap 16 (fun q => (H.stream q).pattern.isSome))
  | 0x181 => BitVec.ofNat 64 (bitMap 32 (fun c => !(H.chan c).copies.isEmpty))
  | 0x182 => BitVec.ofNat 64 (bitMap 32 (fun c => (H.chan c).flt))
  | _ => 0

/-- 0x200 to 0x27F (R289). -/
def readLoopReg (n h : Nat) (s : State) : Word :=
  let L := (s.hart h).loop
  match n with
  | 0x200 => L.lpi
  | 0x201 => L.lpst
  | 0x202 => L.lpn
  | 0x203 => L.lpre
  | 0x204 => L.lpwm
  | _ => 0

/-- Tasks a scheduler holds, and its overflow entries (R303, R307, R314). -/
def Scheduler.occupancy (Q : Scheduler) : Word :=
  BitVec.ofNat 64 (Q.tasks.length % 2 ^ 13 + (Q.waiters.filter (fun w => w.spilled)).length % 2 ^ 13 * 2 ^ 16)

/-- 0x280 to 0x2FF (R314). -/
def readTaskReg (n h : Nat) (s : State) : Word :=
  let Q := s.scheduler (quarterOf (coreOf h))
  match n with
  | 0x280 => Q.tkage.setWidth 64
  | 0x281 => s.evsel.setWidth 64
  | 0x282 => s.eventBase s.evsel.toNat
  | 0x283 => Q.occupancy
  | 0x284 => (s.core (coreOf h)).accpsn.setWidth 64
  | _ => 0

/-- The three bits of membership i in gstate (R331). -/
def memberBits (h i : Nat) (s : State) : Nat :=
  let H := s.hart h
  let m := H.place.lvh.toNat
  if H.place.gmem.getLsbD (32 + i) then
    match s.group h (bits H.place.gmem (8 * i) 8) with
    | some G => flagAt 0 (G.arr.getLsbD m) + flagAt 1 (H.pendAt i).isSome + flagAt 2 (G.held.getLsbD m)
    | none => 0
  else 0

/-- gstate (R331). -/
def State.gstate (s : State) (h : Nat) : Word :=
  BitVec.ofNat 64 (memberBits h 0 s + 2 ^ 8 * memberBits h 1 s + 2 ^ 16 * memberBits h 2 s + 2 ^ 24 * memberBits h 3 s +
    flagAt 32 (s.hart h).group.wo)

/-- Members in a set of virtual harts. -/
def countOf (v : BitVec 1024) : Nat := (List.range 1024).foldl (fun n i => if v.getLsbD i then n + 1 else n) 0

/-- ginfo (R331). -/
def State.ginfo (s : State) (h : Nat) : Word :=
  match s.group h (s.hart h).group.gsel.toNat with
  | none => 0
  | some G => BitVec.ofNat 64 (2 ^ 63 + G.gen.toNat * 2 ^ 32 + countOf G.arr % 2 ^ 11 * 2 ^ 16 + countOf G.members % 2 ^ 11)

/-- 0x300 to 0x37F (R331). -/
def readGroupReg (n h : Nat) (s : State) : Word :=
  match n with
  | 0x300 => s.gstate h
  | 0x301 => (s.hart h).group.gsel.setWidth 64
  | 0x302 => s.ginfo h
  | _ => 0

/-- tstat (R354). -/
def TrapRegs.tstat (T : TrapRegs) : Word :=
  BitVec.ofNat 64 (T.ppl.toNat + flagAt 3 T.ts + flagAt 8 T.tva + flagAt 9 T.vf + flagAt 11 T.prq)

/-- 0x380 to 0x3FF; preq reads as zero (R354). -/
def readTrapReg (n h : Nat) (s : State) : Word :=
  let T := (s.hart h).trap
  match n with
  | 0x380 => T.tvec
  | 0x381 => T.tpc
  | 0x382 => T.tvpc
  | 0x383 => T.telem
  | 0x384 => T.tcause.setWidth 64
  | 0x385 => T.tval
  | 0x386 => T.tinfo
  | 0x387 => T.tstat
  | 0x388 => T.tfe.setWidth 64
  | 0x389 => T.tscratch
  | 0x392 => T.ximg
  | 0x393 => T.xld
  | 0x395 => BitVec.ofNat 64 (flagAt 0 (s.core (coreOf h)).cpark)
  | _ => if hg : 0x38A ≤ n ∧ n ≤ 0x391 then T.tg[n - 0x38A] else 0

/-- lkst (R391). -/
def Port.status (P : Port) : Word :=
  BitVec.ofNat 64 (flagAt 63 P.up + flagAt 62 P.authf + P.peer.toNat * 2 ^ 32 + P.lanes % 16 * 2 ^ 28 + min P.retry 65535)

/-- 0x400 to 0x47F (R391). -/
def readLinkReg (n h : Nat) (s : State) : Word :=
  let U := s.journal
  let J := s.journalAt U.sel.toNat
  match n with
  | 0x400 => s.links.lkid.setWidth 64
  | 0x401 => s.links.lklive.setWidth 64
  | 0x430 => U.sel.setWidth 64
  | 0x431 => J.cfg
  | 0x432 => J.base
  | 0x433 => BitVec.ofNat 64 J.fin
  | 0x434 => BitVec.ofNat 64 J.dw
  | 0x435 => BitVec.ofNat 64 J.tr
  | 0x43C => U.part
  | 0x43D => U.jrmbase
  | 0x440 => (s.hart h).place.plh
  | 0x441 => (s.hart h).place.plstg.setWidth 64
  | _ =>
    if n < 0x420 then (s.port (n - 0x410)).status
    else if n < 0x430 then (s.port (n - 0x420)).lkinb
    else if hc : 0x438 ≤ n ∧ n ≤ 0x43B then U.cand[n - 0x438]
    else 0

/-- 0x480 to 0x49F; lterm and rtcore read as zero (R403, R413). -/
def readErrorReg (n h : Nat) (s : State) : Word :=
  let R := s.retire
  match n with
  | 0x480 => BitVec.ofNat 64 (flagAt 0 (s.hart h).obs.prot)
  | 0x484 => R.rtthr.setWidth 64
  | 0x485 => s.mm.mig.old
  | 0x486 => s.mm.mig.new
  | 0x487 => s.mm.mig.word
  | 0x490 => s.elsel
  | 0x491 => (s.logEntry.map LogEntry.worda).getD 0
  | 0x492 => (s.logEntry.map LogEntry.wordb).getD 0
  | 0x493 => s.logAt.stat
  | _ => if hs : 0x489 ≤ n ∧ n ≤ 0x48E then (R.scrub[n - 0x489]).setWidth 64 else 0

/-- 0x4A0 to 0x4FF, but for the counts (R413). -/
def readObserveReg (n h : Nat) (s : State) : Word :=
  let O := (s.hart h).obs
  let E := s.energy
  match n with
  | 0x4A0 => (s.core (coreOf h)).pmsel
  | 0x4A1 => (s.core (coreOf h)).pmovf.setWidth 64
  | 0x4C0 => E.ensel.setWidth 64
  | 0x4D0 => E.enstat.setWidth 64
  | 0x4E0 => O.smpcfg
  | 0x4E1 => O.smpbase
  | 0x4E8 => O.trcfg
  | 0x4E9 => O.trbase
  | 0x4EA => O.trdly.setWidth 64
  | 0x4EB => O.trdrop.setWidth 64
  | 0x4F0 => O.stpa
  | 0x4F1 => O.stpe
  | _ => if hw : 0x4C8 ≤ n ∧ n ≤ 0x4CF then (E.enwt[n - 0x4C8]).setWidth 64 else 0

/-- bstate (R423). -/
def TrustState.bstate (T : TrustState) : Word :=
  BitVec.ofNat 64 (T.bstSt.toNat + T.trained.toNat * 2 ^ 8 + T.failed.toNat * 2 ^ 16)

/-- 0x500 to 0x57F (R425). -/
def readTrustReg (n : Nat) (s : State) : Word :=
  match n with
  | 0x500 => s.trust.ctxbase
  | 0x501 => s.trust.modes
  | 0x502 => s.trust.bstate
  | 0x503 => s.trust.pwlim.setWidth 64
  | _ => 0

/-- The value of a register as hart h reads it. Reading rtq pops it; a counter that counts holds a free value. -/
def readReg (n h : Nat) (s : State) : Word × State :=
  if n = 0x483 then popRtq s
  else if n = 0x4C1 then readEnergy s
  else if 0x4A8 ≤ n ∧ n ≤ 0x4AF then readPmc (coreOf h) (n - 0x4A8) s
  else if n < 0x080 then (readScalarReg n h s, s)
  else if n < 0x100 then (readPlaceReg n h s, s)
  else if n < 0x180 then (readVectorReg n h s, s)
  else if n < 0x200 then (readEngineReg n h s, s)
  else if n < 0x280 then (readLoopReg n h s, s)
  else if n < 0x300 then (readTaskReg n h s, s)
  else if n < 0x380 then (readGroupReg n h s, s)
  else if n < 0x400 then (readTrapReg n h s, s)
  else if n < 0x480 then (readLinkReg n h s, s)
  else if n < 0x4A0 then (readErrorReg n h s, s)
  else if n < 0x500 then (readObserveReg n h s, s)
  else (readTrustReg n s, s)

/-! ## Writes -/

/-- A write of fst or vst over its old value: W1C, or while the hart is in a trap and at kernel level the restore write,
which sets each flag to its bit (R100, R157, R356). -/
def Hart.writeFlags (H : Hart) (old : BitVec 5) (v : Word) : BitVec 5 :=
  flagWrite (H.trap.ts && decide (1 ≤ H.plev.toNat)) old v

/-- 0x000 to 0x07F (R99, R100). -/
def Hart.writeScalarReg (H : Hart) (n : Nat) (v : Word) : Hart :=
  match n with
  | 0x000 => if bits v 0 3 ≤ 4 then { H with frm := v.setWidth 3 } else H
  | 0x001 => { H with regs := { H.regs with fst := H.writeFlags H.regs.fst v } }
  | 0x002 => { H with srkey := v }
  | 0x003 => { H with regs := { H.regs with srctr := v } }
  | 0x005 => { H with swake := v }
  | _ => H

/-- 0x100 to 0x106, the shape as written, without a re-grant (R155, R156, R158). -/
def VecState.writeShape (V : VecState) (n : Nat) (v : Word) : VecState :=
  match n with
  | 0x100 => { V with len := v }
  | 0x101 => { V with rows := v }
  | 0x102 => { V with fmt := v &&& 0x8000000000001FFF#64 }
  | 0x103 => { V with estart := v }
  | 0x104 => { V with vpc := v }
  | 0x106 => { V with vdirty := v &&& 0x8000007FFFFFFFFF#64 }
  | _ => V

/-- 0x200 to 0x203: nothing changes while a replay runs, and ST takes no value from 3 to 7 (R289). -/
def MarkedLoop.writeReg (L : MarkedLoop) (n : Nat) (v : Word) : MarkedLoop :=
  if L.st = 3 then L
  else
    match n with
    | 0x200 => { L with lpi := v }
    | 0x201 =>
      let st := if bits v 0 3 ≤ 2 then bits v 0 3 else L.st
      { L with lpst := setBits (v &&& 0xFFFFFFFF0000FF0F#64) 0 3 st }
    | 0x202 => { L with lpn := v }
    | 0x203 => { L with lpre := v }
    | _ => L

/-- The write of a loop register; one that takes ST out of 1 ends the demonstration, and a verdict that is awaited answers 0 (R281,
R289; assumption 24, DEDUCED). -/
def Hart.writeLoop (H : Hart) (n : Nat) (v : Word) : Hart :=
  let L := H.loop.writeReg n v
  if H.loop.st = 1 && L.st != 1 then
    { H.dropVerdict with loop := { L with verdict := none, cur := [], iters := [], ends := [] } }
  else { H with loop := L }

/-- 0x280 to 0x284 (R314). -/
def writeTaskReg (n : Nat) (v : Word) (h : Nat) (s : State) : State :=
  let q := quarterOf (coreOf h)
  let c := coreOf h
  match n with
  | 0x280 => s.setScheduler q { s.scheduler q with tkage := v.setWidth 16 }
  | 0x281 => { s with evsel := v.setWidth 12 }
  | 0x282 => { s with evbase := tput s.evbase s.evsel.toNat (v &&& 0x00FFFFFFFFFC0001#64) }
  | 0x284 => s.setCore c { s.core c with accpsn := v.setWidth 4 }
  | _ => s

/-- The registers of a frozen instance are ignored while none is frozen (R354). -/
def TrapRegs.writeFrozen (T : TrapRegs) (f : TrapRegs → TrapRegs) : TrapRegs := if T.tva then f T else T

/-- 0x380 to 0x391 (R354). -/
def TrapRegs.writeReg (T : TrapRegs) (n : Nat) (v : Word) : TrapRegs :=
  match n with
  | 0x380 => { T with tvec := v &&& 0xFFFFFFFFFFFFFFFC#64 }
  | 0x381 => { T with tpc := v }
  | 0x382 => T.writeFrozen (fun U => { U with tvpc := v })
  | 0x383 => T.writeFrozen (fun U => { U with telem := v })
  | 0x384 => { T with tcause := v.setWidth 8 }
  | 0x385 => { T with tval := v }
  | 0x386 => { T with tinfo := v &&& 0xF00000FFFFFFFFFF#64 }
  | 0x387 => if bits v 0 2 = 3 then T else { T with ppl := v.setWidth 2 }
  | 0x388 => { T with tfe := v.setWidth 40 &&& 0xFEFFFFFFFE#40 }
  | 0x389 => { T with tscratch := v }
  | _ => if hg : 0x38A ≤ n ∧ n ≤ 0x391 then T.writeFrozen (fun U => { U with tg := U.tg.set (n - 0x38A) v }) else T

/-- 0x400 to 0x47F (R391); AUTHF is cleared by a privileged write of 1 (R6). -/
def writeLinkReg (n : Nat) (v : Word) (h : Nat) (s : State) : State :=
  let j := s.journal.sel.toNat
  match n with
  | 0x401 => { s with links := { s.links with lklive := v.setWidth 24 } }
  | 0x430 => { s with journal := { s.journal with sel := v.setWidth 4 } }
  | 0x431 => writeJrcfg v s
  | 0x432 => s.setJournal j { s.journalAt j with base := v &&& 0x00FFFFFFFFFFFFC0#64 }
  | 0x43D => { s with journal := { s.journal with jrmbase := v &&& 0x000FFFFFFFFFFFC1#64 } }
  | _ =>
    if 0x410 ≤ n ∧ n < 0x420 then
      let P := s.port (n - 0x410)
      if v.getLsbD 62 && decide (1 ≤ (s.hart h).plev.toNat) then s.setPort (n - 0x410) { P with authf := false } else s
    else if 0x420 ≤ n ∧ n < 0x430 then
      s.setPort (n - 0x420) { s.port (n - 0x420) with lkinb := v &&& 0x800FFFFFC03FFFFF#64 }
    else if 0x438 ≤ n ∧ n ≤ 0x43B then writeJrcand (n - 0x438) v s
    else s

/-- 0x480 to 0x49F, but for prot (R402 to R405, R413). -/
def writeErrorReg (n : Nat) (v : Word) (s : State) : State :=
  let R := s.retire
  match n with
  | 0x481 => terminateCore (bits v 0 16) s
  | 0x482 => writeRtcore (bits v 0 16) s
  | 0x484 => { s with retire := { R with rtthr := v.setWidth 16 } }
  | 0x485 => s.setMem { s.mm with mig := { s.mm.mig with old := v &&& 0x000FFFFFFFFFF000#64 } }
  | 0x486 => s.setMem { s.mm with mig := { s.mm.mig with new := v &&& 0x000FFFFFFFFFF000#64 } }
  | 0x487 => writeRtmig v s
  | 0x490 => { s with elsel := v &&& 0x3F0F#64 }
  | 0x493 => writeElstat v s
  | _ =>
    if hs : 0x489 ≤ n ∧ n ≤ 0x48E then { s with retire := { R with scrub := R.scrub.set (n - 0x489) (v.setWidth 24) } }
    else s

/-- The hart's own observation registers (R413). -/
def Hart.writeObserve (H : Hart) (n : Nat) (v : Word) : Hart :=
  let O := H.obs
  match n with
  | 0x4E0 => H.writeSmpcfg v
  | 0x4E1 => { H with obs := { O with smpbase := v &&& 0x00FFFFFFFFFFF000#64 } }
  | 0x4E8 => H.writeTrcfg v
  | 0x4E9 => { H with obs := { O with trbase := v &&& 0x00FFFFFFFFFFF000#64 } }
  | 0x4EA => { H with obs := { O with trdly := v.setWidth 48 } }
  | 0x4EB => { H with obs := { O with trdrop := v.setWidth 48 } }
  | 0x4F0 => { H with obs := { O with stpa := v &&& 0x80FFFFFFFFFFFFFC#64 } }
  | 0x4F1 => { H with obs := { O with stpe := v &&& 0xFFFF#64 } }
  | _ => H

/-- 0x4A0 to 0x4FF (R406, R408, R413). -/
def writeObserveReg (n : Nat) (v : Word) (h : Nat) (s : State) : State :=
  let c := coreOf h
  if n = 0x4A0 then writePmsel c v s
  else if n = 0x4A1 then s.setCore c { s.core c with pmovf := (s.core c).pmovf &&& ~~~(v.setWidth 8) }
  else if 0x4A8 ≤ n ∧ n ≤ 0x4AF then writePmc c (n - 0x4A8) v s
  else if n = 0x4C0 then { s with energy := { s.energy with ensel := v.setWidth 12 } }
  else if n = 0x4C1 then writeEnergy v s
  else if hw : 0x4C8 ≤ n ∧ n ≤ 0x4CF then
    reweigh (fun E => { E with enwt := E.enwt.set (n - 0x4C8) (v.setWidth 16) }) s
  else if n = 0x4D0 then reweigh (fun E => { E with enstat := v.setWidth 16 }) s
  else s.setHart h ((s.hart h).writeObserve n v)

/-- 0x500 to 0x57F (R212, R421, R425, R426). -/
def writeTrustReg (n : Nat) (v : Word) (s : State) : State :=
  let T := s.trust
  match n with
  | 0x500 => { s with trust := { T with ctxbase := v &&& 0x000FFFFFFFFFF000#64 } }
  | 0x501 => { s with trust := { T with modes := v &&& 0x1F#64 } }
  | 0x503 => { s with trust := { T with pwlim := v.setWidth 16 } }
  | _ => s

/-- The registers of the vector stream but vst, and prot, are written only while the vector stream is idle; otherwise cause 0x07 (R158,
R399). -/
def needsIdle (n : Nat) : Bool := (decide (0x100 ≤ n ∧ n ≤ 0x108) && n != 0x105) || n == 0x480

/-- The write of a value to a register by hart h, whose level has been checked; a register that is read only keeps its
value (R6, R126). -/
def writeReg (n : Nat) (v : Word) (h : Nat) (s : State) : Res Unit :=
  let H := s.hart h
  if needsIdle n && !H.vectorIdle then .trap 0x07 (BitVec.ofNat 64 n) s
  else
    .ok () (
      if n < 0x080 then s.setHart h (H.writeScalarReg n v)
      else if n = 0x090 then s.setCore (coreOf h) { s.core (coreOf h) with hshare := v.setWidth 16 }
      else if n < 0x0C0 then s
      else if n < 0x100 then writeLqcfg (n - 0x0C0) v s
      else if n = 0x105 then s.setHart h { H with vec := { H.vec with vst := H.writeFlags H.vec.vst v } }
      else if n < 0x180 then s.setHart h { H with vec := H.vec.writeShape n v }
      else if n < 0x200 then s
      else if n < 0x280 then s.setHart h (H.writeLoop n v)
      else if n < 0x300 then writeTaskReg n v h s
      else if n = 0x300 then s.setHart h { H with group := { H.group with wo := v.getLsbD 32 } }
      else if n = 0x301 then s.setHart h { H with group := { H.group with gsel := v.setWidth 8 } }
      else if n < 0x380 then s
      else if n = 0x392 then saveImage h v s
      else if n = 0x393 then loadImage h v s
      else if n = 0x394 then writePreq h v s
      else if n = 0x395 then writeCpark (coreOf h) v s
      else if n < 0x400 then s.setHart h { H with trap := H.trap.writeReg n v }
      else if n < 0x480 then writeLinkReg n v h s
      else if n = 0x480 then s.setHart h (H.writeProt (v.getLsbD 0))
      else if n < 0x4A0 then writeErrorReg n v s
      else if n < 0x500 then writeObserveReg n v h s
      else writeTrustReg n v s)

/-! ## crd and cwr (R27, R126) -/

/-- The check of an access at a level: an unassigned number is illegal, one above the hart's level a privilege trap; both
name the word (R27). -/
def regGate (n word : Nat) (write : Bool) (H : Hart) : Gate :=
  match regLevels n with
  | none => .trap 0x01 (BitVec.ofNat 64 word)
  | some (r, w) => Gate.need (decide ((if write then w else r) ≤ H.plev.toNat)) 0x13 (BitVec.ofNat 64 word)

/-- An access to srkey or srctr waits until the vector queue is done, and is not speculated (R104, R106); nor is a pop; a
save of an image waits for accesses that a peer has not answered and for the event updates before it (R311, R348). -/
def regWaits (n : Nat) (write : Bool) (H : Hart) : Gate :=
  Gate.until ((!(n == 2 || n == 3) || (H.vectorIdle && H.settled)) && (n != 0x483 || H.settled) &&
    (!(write && n == 0x392) || (!H.owes (fun _ => true) && !H.updates.any (fun u => H.reached u.ticket))))

/-- crd (R126). -/
def execCrd (n : BitVec 12) (d : BitVec 5) (s : State) : Out :=
  .next (onScalar (crdWord n d) s (fun h =>
    let H := s.hart h
    gated h ((regGate n.toNat (crdWord n d) false H).and ((H.dstS d).and (regWaits n.toNat false H))) s
      (let (v, s1) := readReg n.toNat h s
       s1.setHart h ((s1.hart h).putS d v).advance)))

/-- The end of a cwr of register n: the old value to s[d], unless the write has ended the hart (R126, R393). Its entry of the
replay queue holds the control register too (R396). -/
def finishCwr (h n : Nat) (d : BitVec 5) (old : Word) (s : State) : State :=
  let H := s.hart h
  if H.alive then s.setHart h { H with regs := (H.regs.writeS d old).note [48 + n, d.toNat] }.advance else s

/-- cwr (R126). -/
def execCwr (n : BitVec 12) (x : BitVec 1) (a d : BitVec 5) (s : State) : Out :=
  .next (onScalar (cwrWord n x a d) s (fun h =>
    let H := s.hart h
    gated h ((regGate n.toNat (cwrWord n x a d) true H).and
        (H.confirmed.and ((H.srcS a x).and ((H.dstS d).and (regWaits n.toNat true H))))) s
      (let (old, s1) := readReg n.toNat h s
       match writeReg n.toNat (H.regs.readS a) h s1 with
       | .ok _ s2 => finishCwr h n.toNat d old s2
       | .trap c t _ => scalarTrap h c t false s)))

/-! ## The events that are a write of one register -/

/-- The write that a cwr of the hart makes, by itself: the trap of a busy vector stream is taken, and nothing happens where
the hart may not name the register, or the cwr would wait (R27, R126, R158). -/
def regEvent (h n : Nat) (v : Word) (s : State) : State :=
  let H := s.hart h
  match regGate n 0 true H, regWaits n true H with
  | .go, .go =>
    match writeReg n v h s with
    | .ok _ t => t
    | .trap c t _ => scalarTrap h c t false s
  | _, _ => s

/-- A write of lqcfg l (R79). -/
def execLqcfgWrite (h l : Nat) (v : Word) (s : State) : Out := .next (if l < 64 then regEvent h (0x0C0 + l) v s else s)

/-- A request through preq (R342). -/
def execPreqRequest (h : Nat) (v : Word) (s : State) : Out := .next (regEvent h 0x394 (putBit v 63 false) s)

/-- A resumption through preq (R342). -/
def execPreqResume (h : Nat) (v : Word) (s : State) : Out := .next (regEvent h 0x394 (putBit v 63 true) s)

/-- A write of ximg (R348). -/
def execXimgSave (h : Nat) (v : Word) (s : State) : Out := .next (regEvent h 0x392 v s)

/-- A write of xld (R349). -/
def execXldLoad (h : Nat) (v : Word) (s : State) : Out := .next (regEvent h 0x393 v s)

/-- A write of cpark (R350). -/
def execCparkOffer (h : Nat) (v : Word) (s : State) : Out := .next (regEvent h 0x395 v s)

/-- A write of fst or vst (R356). -/
def execFlagRestoreWrite (h n : Nat) (v : Word) (s : State) : Out :=
  .next (if n = 0x001 ∨ n = 0x105 then regEvent h n v s else s)

/-- A write of a shape register, or the trap where the vector stream is not idle (R158). -/
def execVectorShapeWrite (h n : Nat) (v : Word) (s : State) : Out :=
  .next (if (0x100 ≤ n ∧ n ≤ 0x104) ∨ n = 0x106 then regEvent h n v s else s)

/-- A write of prot (R399). -/
def execProtWrite (h : Nat) (v : Word) (s : State) : Out := .next (regEvent h 0x480 v s)

/-- A write of evbase (R314). -/
def execEvbaseWrite (h : Nat) (v : Word) (s : State) : Out := .next (regEvent h 0x282 v s)

/-- A write of accpsn (R291). -/
def execAccpsnWrite (h : Nat) (v : Word) (s : State) : Out := .next (regEvent h 0x284 v s)

/-- A write of jrcfg (R391). -/
def execJrcfgWrite (h : Nat) (v : Word) (s : State) : Out := .next (regEvent h 0x431 v s)

/-- A write of a candidate (R386). -/
def execJrcandWrite (h n : Nat) (v : Word) (s : State) : Out := .next (if n < 4 then regEvent h (0x438 + n) v s else s)

/-- A write of lterm (R393). -/
def execLtermWrite (h : Nat) (v : Word) (s : State) : Out := .next (regEvent h 0x481 v s)

/-- A write of rtcore (R394). -/
def execRtcoreWrite (h : Nat) (v : Word) (s : State) : Out := .next (regEvent h 0x482 v s)

/-- A read of rtq (R404). -/
def execRtqPop (h : Nat) (s : State) : Out :=
  .next (if regGate 0x483 0 false (s.hart h) = .go then (popRtq s).2 else s)

/-- A write of rtmig with GO (R405). -/
def execRtmigGo (h : Nat) (v : Word) (s : State) : Out := .next (regEvent h 0x487 (putBit v 63 true) s)

/-- A write of rtmig with END (R405). -/
def execRtmigEnd (h : Nat) (v : Word) (s : State) : Out := .next (regEvent h 0x487 (putBit v 62 true) s)

/-- A write of elstat (R403). -/
def execElstatClear (h : Nat) (v : Word) (s : State) : Out := .next (regEvent h 0x493 v s)

/-- A write of a counter (R407). -/
def execPmcWrite (h n : Nat) (v : Word) (s : State) : Out := .next (if n < 8 then regEvent h (0x4A8 + n) v s else s)

/-- A write of energy (R408). -/
def execEnergyWrite (h : Nat) (v : Word) (s : State) : Out := .next (regEvent h 0x4C1 v s)

/-- A write of smpcfg or trcfg (R413). -/
def execSmpcfgWrite (h n : Nat) (v : Word) (s : State) : Out :=
  .next (if n = 0x4E0 ∨ n = 0x4E8 then regEvent h n v s else s)

/-- A read of smpcfg or trcfg orders the records below NEXT, which memory already holds (R411). -/
def execSampleTraceAcquireRead (_h _n : Nat) (s : State) : Out := .next s

/-- A write of any other register (R126). -/
def execGenericRegisterWrite (h n : Nat) (v : Word) (s : State) : Out := .next (regEvent h n v s)

end Sys2Proof.Machine
end

