-- ==== Sys2Proof/Machine/Trust.lean ====
section
/-!
DEFINITION. Trust and bring-up: the ROM, the measurements, the mailbox, keys, host-assisted events, stack training, full
service and throttling (R414 to R426). What the world outside supplies to an event is an argument of it.
-/
namespace Sys2Proof.Machine

/-! ## The ROM and the measurements (R414, R415) -/

/-- The first n bytes of a list, zeros where it is shorter. -/
def exactly (n : Nat) (d : List Byte) : List Byte := d.take n ++ List.replicate (n - d.length) 0

/-- Measurement register i. -/
def TrustState.measure (T : TrustState) (i : Nat) : BitVec 256 := if hi : i < 8 then T.meas[i] else 0

/-- Extend measurement i: SHA3-256 of it and 32 bytes (R415). -/
def TrustState.extend (T : TrustState) (i : Nat) (d : List Byte) : TrustState :=
  if hi : i < 8 then
    { T with meas := T.meas.set i (BitVec.ofNat 256 (bytesToNat (sha3 (bytesOf 32 (T.measure i).toNat ++ exactly 32 d)))) }
  else T

/-- An image passes the ROM's checks: its digest is that of its body, its signature of 2,420 bytes verifies under the vendor
key whose digest is fused, its version is not below the fused minimum, and it names this part (R414). -/
def romAccepts (m : FirmwareImage) : Bool :=
  m.digest == sha3 m.body && sha3 m.key == Config.vendorKey && m.signature.length == 2420 &&
    Config.mldsaVerify m.key m.digest m.signature && decide (Config.minSvn.toNat ≤ m.svn.toNat) && Config.namesPart m.part

/-- The ROM takes the images from number i on: it extends each that passes, and halts at the first that fails; behind the
last the reduced service begins (R414, R423). -/
def romRun : Nat → List FirmwareImage → TrustState → TrustState
  | _, [], T => { T with bstSt := 2 }
  | i, m :: rest, T =>
    if romAccepts m then romRun (i + 1) rest (T.extend i m.digest)
    else { T with halted := true, status := BitVec.ofNat 64 (0xDEAD0000 + i) }

/-- The device is reset, and the ROM runs over the four images in their order; the link engine's firmware sets the node
identifier (R391, R414, R423). Fuses and failed slices stay. -/
def execPowerOnReset (k n v r : FirmwareImage) (s : State) : Out :=
  .next (
    let R := State.reset
    let T := romRun 0 [k, n, v, r] { R.trust with svn := k.svn }
    { R with
      agent := s.agent
      agenda := s.agenda
      free := s.free
      launch := { R.launch with disabled := s.launch.disabled, failed := s.launch.failed }
      links := { R.links with lkid := if T.halted then 0 else v.node }
      trust := T })

/-! ## Bring-up (R423, R424, R426) -/

/-- An MSI-X message goes to the host. -/
def sendMsix (v : Nat) (s : State) : State := { s with trust := { s.trust with msix := v :: s.trust.msix } }

/-- Stack x ends its training: trained, or failed at its fourth attempt; with the last of the eight the full service begins,
and the launch unit waits until quarter 0 has drained (R423, R424). -/
def execStackTraining (x k : Nat) (s : State) : Out :=
  .next (
    let T := s.trust
    if T.bstSt ≠ 2 ∨ T.trained.getLsbD x ∨ T.failed.getLsbD x then s
    else if k = 1 then
      let all := putBit T.trained x true
      { s with trust := { T with
        trained := all
        bstSt := if all = 0xFF then 3 else 2
        draining := all == 0xFF } }
    else
      let (a, s1) := drawWord { s with trust := { T with failed := putBit T.failed x true } }
      sendMsix 1 (logError s1 6 ⟨a.setWidth 56, 1, 0, x, 1, 0⟩))

/-- Quarter 0 holds no resident launch any more: the launch unit goes on, in full service (R423). -/
def execFullServiceEntry (s : State) : Out :=
  .next (
    let busy := s.launch.resident.any (fun L => L.2.cores.any (fun c => quarterOf c.2 == 0))
    if s.trust.bstSt = 3 && s.trust.draining && !busy then { s with trust := { s.trust with draining := false } } else s)

/-- The quarters begin to insert idle cycles: timing only (R426). -/
def execPowerThrottle (s : State) : Out := .next { s with trust := { s.trust with throttle := true } }

/-- The quarters stop inserting idle cycles (R426). -/
def execDrawBelowLimit (s : State) : Out := .next { s with trust := { s.trust with throttle := false } }

/-! ## The mailbox (R417) -/

/-- Bytes written into the data area at an offset from its start. -/
def putData (o : Nat) (d : List Byte) (area : List Byte) : List Byte :=
  exactly o area ++ d ++ area.drop (o + d.length)

/-- The host puts bytes into the data area. -/
def hostPuts (o : Nat) (d : List Byte) (s : State) : State :=
  { s with trust := { s.trust with data := putData o d s.trust.data } }

/-- A command runs (R417). -/
def TrustState.runs (T : TrustState) : Bool := T.job.isSome

/-- A command ends with a STATUS code; bit 62 stays as a write while it ran has left it (R417). -/
def endCommand (code : Nat) (s : State) : State :=
  { s with trust := { s.trust with status := (s.trust.status &&& (1#64 <<< 62)) ||| BitVec.ofNat 64 code, job := none } }

/-- A command ends with data at offset 0x100. -/
def endWith (d : List Byte) (s : State) : State := endCommand 0 (hostPuts 0 d s)

/-- The host puts data and writes CMD: once the ROM is done the command starts, with its data read; while one runs the write is
dropped and sets STATUS bit 62 (R414, R417). -/
def onMailbox (code : Word) (d : List Byte) (j : MailboxJob) (s : State) : Out :=
  .next (
    if s.trust.bstSt = 1 then s
    else
      let s1 := if d.isEmpty then s else hostPuts 0 d s
      if s.trust.runs then { s1 with trust := { s1.trust with status := s1.trust.status ||| (1#64 <<< 62) } }
      else { s1 with trust := { s1.trust with cmd := code, status := 1#64 <<< 63, job := some j } })

/-! ## Quotes and keys (R416 to R420) -/

/-- The version number as 4 bytes. -/
def TrustState.svnBytes (T : TrustState) : List Byte := bytesOf 4 T.svn.toNat

/-- The seed of the identity key (R416). -/
def TrustState.identitySeed (T : TrustState) : List Byte := sha3 (Config.fusedSeed ++ T.svnBytes)

/-- The seed of the key-transport key (R416). -/
def TrustState.transportSeed (T : TrustState) : List Byte := sha3x (Config.fusedSeed ++ [0x4B] ++ T.svnBytes)

/-- The first 296 bytes of a quote (R418). -/
def quoteBody (nonce : List Byte) (s : State) : List Byte :=
  let T := s.trust
  exactly 32 nonce ++ (List.range 8).flatMap (fun i => bytesOf 32 (T.measure i).toNat) ++
    bytesOf 8 (bits s.dpart 0 24 + T.svn.toNat * 2 ^ 24)

/-- QUOTE over the nonce r (R418). -/
def endQuote (r : List Byte) (s : State) : State :=
  let b := quoteBody r s
  let sig := Config.mldsaSign s.trust.identitySeed (sha3 b) s.free
  endWith (b ++ exactly 2420 sig) { s with free := s.free + 1 }

/-- PUBKEYS (R416, R417). -/
def endPubkeys (s : State) : State :=
  endWith (exactly 1312 (Config.mldsaPublic s.trust.identitySeed) ++ exactly 1184 (Config.mlkemPublic s.trust.transportSeed)) s

/-- EXTEND of an index, which is 4 to 7, with a digest (R415, R417). -/
def endExtend (v : Word) (r : List Byte) (s : State) : State :=
  if 4 ≤ v.toNat ∧ v.toNat ≤ 7 then endCommand 0 { s with trust := s.trust.extend v.toNat r } else endCommand 2 s

/-- A location has a page of a key slot. -/
def Loc.underSlot (l : Loc) (slot : Nat) : Bool := l.slot == slot || l.slot2 == slot

/-- A vector access has an element to do under a slot. -/
def VecAccess.underSlot (A : VecAccess) (slot : Nat) : Bool := A.todo.any (fun e => e.loc.underSlot slot)

/-- The pending accesses of a hart that hold a slot's key are performed, with the older ones of their streams (R122, R420). -/
def forceSlot (slot h : Nat) (s : State) : State :=
  let ls := (s.hart h).loads.filter (fun p => p.loc.underSlot slot)
  forceVaccs h (fun A => A.underSlot slot) (forceLoads h (fun q => ls.any (fun p => p.upTo q)) s)

/-- Before a command changes a slot: the accesses that hold its key are performed, and every L2 line tagged with it is
written back and dropped (R420; what copies and tasks have checked they check again, Loc.stale). -/
def dropSlot (slot : Nat) (s : State) : State :=
  let s1 := s.harts.foldl (fun t e => forceSlot slot e.1 t) s
  (s1.mm.l2.filter (fun e => e.2.slot == slot)).foldl (fun t e => evictLine e.1 e.2 t) s1

/-- An event update that holds a slot's key is still to be applied, or a speculative access that holds it would make a replay depart:
the command waits for it (R107, R311, R420). -/
def slotAwaited (slot : Nat) (s : State) : Bool :=
  s.harts.any (fun e => e.2.updates.any (fun u => u.loc.underSlot slot) ||
    e.2.specConflict e.1 (fun q => e.2.loads.any (fun p => p.loc.underSlot slot && p.upTo q)) s)

/-- The key that a KEYLOAD brings: none when its tag fails (R419). -/
def loadedKey (ct box : List Byte) (T : TrustState) : Option (BitVec 256) :=
  Config.gcmOpen (Config.mlkemShared T.transportSeed (exactly 1088 ct)) (exactly 48 box)

/-- A key command waits, running, while its slot is awaited; slot 0 never holds a key (R417, R419, R420). -/
def onSlot (slot : Nat) (s : State) (k : State → State) : State :=
  if slot = 0 then endCommand 2 s else if slotAwaited slot s then s else k (dropSlot slot s)

/-- KEYLOAD: the slot in v, the ciphertext w, the key under the shared secret r (R419, R420). -/
def endKeyload (v : Word) (w r : List Byte) (s : State) : State :=
  let slot := bits v 0 10
  onSlot slot s (fun s2 =>
    match loadedKey w r s2.trust with
    | none => endCommand 3 s2
    | some k => endCommand 0 { s2 with trust := { s2.trust with keys := tput s2.trust.keys slot (k.setWidth 512) } })

/-- KEYCLR of the slot in v (R420). -/
def endKeyclr (v : Word) (s : State) : State :=
  let slot := bits v 0 10
  onSlot slot s (fun s2 => endCommand 0 { s2 with trust := { s2.trust with keys := tdrop s2.trust.keys slot } })

/-! ## Host-assisted events (R421, R422) -/

/-- The first event of a kind, and the list without it. -/
def takeEvent (k : Nat) : List HostEvent → Option (HostEvent × List HostEvent)
  | [] => none
  | e :: t => if e.kind = k then some (e, t) else (takeEvent k t).map (fun p => (p.1, e :: p.2))

/-- The oldest event of kind k that waits is raised: it gets a tag, and the host a message, while the queue has room
(R422). -/
def execHostAssistEvent (k : Nat) (s : State) : Out :=
  .next (
    let T := s.trust
    if 64 ≤ T.hostq.length then s
    else
      match takeEvent k T.waiting with
      | none => s
      | some (e, rest) =>
        sendMsix 0 { s with trust := { T with
          waiting := rest
          hostq := T.hostq ++ [{ e with tag := T.nextTag }]
          nextTag := T.nextTag + 1 } })

/-- An event as EVENT returns it (R422). -/
def HostEvent.bytes (e : HostEvent) : List Byte :=
  bytesOf 32 (e.kind % 256 + e.tag.toNat * 2 ^ 16 + e.detail.toNat * 2 ^ 64)

/-- EVENT returns the oldest pending event; what it returns when there is none is open (R422). -/
def endEvent (s : State) : State :=
  match s.trust.hostq with
  | e :: _ => endWith e.bytes s
  | [] =>
    let (a, s1) := drawWord s
    let (b, s2) := drawWord s1
    let (c, s3) := drawWord s2
    let (d, s4) := drawWord s3
    endWith (bytesOf 8 a.toNat ++ bytesOf 8 b.toNat ++ bytesOf 8 c.toNat ++ bytesOf 8 d.toNat) s4

/-- An answer that an event's kind accepts: 0 or a cause; clusters of the device; up to three words that order a migration
step; otherwise any (R422). -/
def answerOk (kind : Nat) (a : List Word) : Bool :=
  match kind with
  | 1 => decide ((a.headD 0).toNat ≤ 0x15)
  | 2 => a.all (fun w => decide (w.toNat < 32))
  | 3 => a.length == 0 || a.length == 1 || a.length == 3
  | _ => true

/-- A translation fault is answered: the agent walks again, or takes the cause (R422). -/
def answerFault (e : HostEvent) (c : Nat) (s : State) : State :=
  let agent := bits e.detail 128 64
  let T := s.trust
  if c = 0 then { s with trust := { T with assists := T.assists.filter (fun a => a.agent != agent) } }
  else { s with trust := { T with assists := T.assists.map (fun a => if a.agent = agent then { a with cause := some c } else a) } }

/-- A placement is answered for the head of the queue that asked (R422). -/
def answerPlacement (e : HostEvent) (cls : List Nat) (s : State) : State :=
  let n := bits e.detail 64 64
  let Q := s.queueAt n
  match Q.entries with
  | q :: rest =>
    if q.asked && q.clusters.isNone && q.addr == BitVec.ofNat 64 (bits e.detail 0 64) then
      s.setQueue n { Q with entries := { q with clusters := some cls } :: rest }
    else s
  | [] => s

/-- A retirement is answered with the migration steps that the host orders: values of rtold, rtnew and rtmig (R404,
R422). -/
def answerRetirement (a : List Word) (s : State) : State :=
  match a with
  | [o, n, m] => writeErrorReg 0x487 m (writeErrorReg 0x486 n (writeErrorReg 0x485 o s))
  | [m] => writeErrorReg 0x487 m s
  | _ => s

/-- An error is answered: with bit 16 the launch on core [15:0] is terminated, with bit 48 core [47:32] is retired
(R422). -/
def answerError (w : Word) (s : State) : State :=
  let s1 := if w.getLsbD 16 then terminateCore (bits w 0 16) s else s
  if w.getLsbD 48 then retireCore (bits w 32 16) s1 else s1

/-- What an accepted answer does (R422). -/
def answerEvent (e : HostEvent) (a : List Word) (s : State) : State :=
  match e.kind with
  | 1 => answerFault e (a.headD 0).toNat s
  | 2 => answerPlacement e (a.map (fun w => w.toNat)) s
  | 3 => answerRetirement a s
  | 4 => acknowledge (bits e.detail 0 64) (a.headD 0).toNat s
  | _ => answerError (a.headD 0) s

/-- An answer leaves its event pending: one that orders a step of a retirement, but the last, which ends the migration
(R404, R422; assumption 68). -/
def staysPending (e : HostEvent) (a : List Word) : Bool := e.kind == 3 && !a.isEmpty && !(a.getLastD 0).getLsbD 62

/-- REPLY to the event with tag n (R422). -/
def endReply (n : Nat) (a : List Word) (s : State) : State :=
  match s.trust.hostq.find? (fun e => e.tag.toNat == n) with
  | none => endCommand 4 s
  | some e =>
    if !answerOk e.kind a then endCommand 2 s
    else
      let q := if staysPending e a then s.trust.hostq else s.trust.hostq.filter (fun f => f.tag != e.tag)
      endCommand 0 (answerEvent e a { s with trust := { s.trust with hostq := q } })

/-! ## The commands (R417 to R422) -/

/-- The command that runs ends, or waits on (R417). -/
def mailboxTurn (s : State) : State :=
  match s.trust.job with
  | none => s
  | some (.quote r) => endQuote r s
  | some .pubkeys => endPubkeys s
  | some (.keyload v w r) => endKeyload v w r s
  | some (.keyclr v) => endKeyclr v s
  | some (.extend v r) => endExtend v r s
  | some .event => endEvent s
  | some (.reply n a) => endReply n a s
  | some .state => endWith (bytesOf 8 s.trust.bstate.toNat) s
  | some .unknown => endCommand 1 s

/-- QUOTE over the nonce r (R418). -/
def execQuote (r : List Byte) (s : State) : Out := onMailbox 1 (exactly 32 r) (.quote r) s

/-- PUBKEYS (R416, R417). -/
def execPubkeys (s : State) : Out := onMailbox 2 [] .pubkeys s

/-- KEYLOAD: the slot in v, the ciphertext w, the key under the shared secret r (R419). -/
def execKeyload (v : Word) (w r : List Byte) (s : State) : Out :=
  onMailbox 3 (bytesOf 8 v.toNat ++ exactly 1088 w ++ exactly 48 r) (.keyload v w r) s

/-- KEYCLR of the slot in v (R420). -/
def execKeyclr (v : Word) (s : State) : Out := onMailbox 4 (bytesOf 8 v.toNat) (.keyclr v) s

/-- EXTEND of the measurement v with the digest r (R415). -/
def execExtend (v : Word) (r : List Byte) (s : State) : Out :=
  onMailbox 5 (bytesOf 8 v.toNat ++ exactly 32 r) (.extend v r) s

/-- EVENT (R422). -/
def execEvent (s : State) : Out := onMailbox 6 [] .event s

/-- REPLY to the event with tag n; its words go into the data area as doublewords (R422; assumption 68). -/
def execReply (n : Nat) (a : List Word) (s : State) : Out :=
  onMailbox 7 (bytesOf 8 n ++ a.flatMap (fun w => bytesOf 8 w.toNat)) (.reply n a) s

/-- STATE (R417, R424). -/
def execState (s : State) : Out := onMailbox 8 [] .state s

/-- A command code that names no command (R417). -/
def execUnknownMailboxCode (v : Word) (s : State) : Out :=
  if 1 ≤ bits v 0 8 ∧ bits v 0 8 ≤ 8 then .next s else onMailbox v [] .unknown s

end Sys2Proof.Machine
end

