-- ==== Sys2Proof/Machine/VectorMem.lean ====
section
/-!
DEFINITION. The vector memory instructions (R35, R209, R211, R218 to R223, R227 to R234, R249,
R285, R364, R400, R409).
-/
namespace Sys2Proof.Machine

/-- A vector memory function: its number, its stride class (R409), what it does, the formats it takes, its fields, its
further dispatch checks, the address of unit i, and the pieces that unit i touches: address and bytes. -/
structure MemForm where
  fn      : Nat
  scls    : Nat
  kind    : MemKind
  accepts : Nat → Bool
  fields  : VecFields
  ok      : VecState → Bool
  addr    : Hart → Vector VReg 32 → Nat → Word
  touch   : Hart → Vector VReg 32 → Nat → List (Nat × Nat)

/-- The kind of access. -/
def MemKind.acc : MemKind → Acc
  | .load => .read
  | .store => .write
  | .add => .amo

/-! ## One access (R229, R234) -/

/-- The checks of one access of n bytes at a on stream q, in the order of R332, and the answer of a peer (R364). What is to be read is
looked at behind what comes before it (R152, R222). -/
def unitAccess (h q : Nat) (k : MemKind) (aligned : Bool) (a : Word) (n : Nat) (s : State) : Res Loc :=
  if aligned && a.toNat % n != 0 then .trap 0x04 a s
  else
    match access (s.who h) a.toNat n k.acc s with
    | .trap c t s1 => .trap c t s1
    | .ok l s1 =>
      if k = .add && (spaceOf a.toNat == .lane || l.peer.isSome || (l.uncached && isHostPa l.key)) then .trap 0x07 a s1
      else
        let (err, s2) := peerError l (if k = .store then s1 else readyToRead h q l s1)
        let (bad, s3) := if k = .store then (false, s2) else peerPoison l s2
        if err then .trap 0x07 a s3
        else if bad || (k ≠ .store && poisonedLoc l s3) then .trap 0x0E a s3
        else .ok l s3

/-! ## The units an instruction touches -/

/-- The active units from i0 on. -/
def Hart.activeFrom (H : Hart) (m : BitVec 3) (i0 : Nat) : List Nat :=
  (H.vec.activeList (H.vec.geo H.obs.prot) m).filter (fun i => decide (i0 ≤ i))

/-- The lowest active unit of the tile. -/
def Hart.lowestActive (H : Hart) (m : BitVec 3) : Option Nat := (H.activeFrom m 0).head?

/-- A unit waits (R249, R285). -/
def unitStalls (h : Nat) (f : MemForm) (H : Hart) (R : Vector VReg 32) (i : Nat) (s : State) : Bool :=
  (f.touch H R i).any (fun p => vectorStalls h p.1 p.2 f.kind.acc s)

/-! ## Sampling (R409) -/

/-- The distinct numbers of a list. -/
def distinct (l : List Nat) : Nat := (l.foldl ninsert []).length

/-- The page of a translated address: of a translation that the instruction holds, or the smallest page. -/
def Hart.pageOf (H : Hart) (a : Nat) : Option Nat :=
  if spaceOf a = .translated then
    some (((H.vec.xlats.find? (fun e => e.covers H.place.lctx.toNat a)).map (fun e => e.base)).getD (a / 4096 * 4096))
  else none

/-- The instruction dispatches: it is counted, and each N-th is watched. -/
def watchStart (h : Nat) (f : MemForm) (s : State) : State :=
  let H := s.hart h
  if H.obs.watch.isSome then s
  else if H.obs.smpcfg.getLsbD 63 then
    let take := decide (bits H.obs.smpcfg 32 16 ≤ H.obs.smpCnt)
    let (w, s1) := drawWord s
    s1.setHart h { H with obs := { H.obs with
      smpCnt := if take then 0 else H.obs.smpCnt + 1
      watch := some ⟨take, H.vec.vpc, H.vec.estart.toNat, 0, 0, 0, f.fn, f.scls, w⟩ } }
  else s

/-- The pages and lines that the units from the dispatch up to but not including unit i touch. -/
def watchTo (h : Nat) (f : MemForm) (m : BitVec 3) (R : Vector VReg 32) (i : Nat) (s : State) : State :=
  let H := s.hart h
  match H.obs.watch with
  | none => s
  | some w =>
    if !w.sampled then s
    else
      let ps := ((H.activeFrom m w.elem).filter (fun j => decide (j < i))).flatMap (f.touch H R)
      let pages := distinct (ps.flatMap (fun p => (H.pageOf p.1).toList ++ (H.pageOf (p.1 + p.2 - 1)).toList))
      let lines := distinct (ps.flatMap (fun p => [p.1 / 64, (p.1 + p.2 - 1) / 64]))
      s.setHart h { H with obs := { H.obs with watch := some { w with pages := pages, lines := lines } } }

/-- The instruction completes. -/
def watchEnd (h : Nat) (s : State) : State := s.setHart h (s.hart h).endWatch

/-! ## The sweep of a vector memory instruction (R228) -/

/-- The fault that emitting the destination meets in unit i, if an element in its bytes cannot be stored (R239). -/
def MemForm.sinkFault (f : MemForm) (H : Hart) (df : List (Binding × Nat × Nat × Word)) (i : Nat) :
    Option (Binding × Nat × Nat × Word) :=
  df.find? (fun x => (sameBytes f.fields.dst.toList H i).any (x.1.emits x.2.1))

/-- What surrounds the effect of one unit: the faults of bound sources, then of what is emitted, then the unit itself. -/
def memStep (h : Nat) (f : MemForm) (H : Hart) (R : Vector VReg 32) (df : List (Binding × Nat × Nat × Word))
    (unit : Nat → State → Res Unit) (i : Nat) (t : State) : Res Unit :=
  match (sameReads f.fields.srcs H R i).findSome? H.bytesFault with
  | some (c, a) => .trap c a t
  | none =>
    match f.sinkFault H df i with
    | some (b, j, c, a) =>
      .trap c a (meetFault h b j c (emit h f.fields.dst (some (b.before j (sameBytes f.fields.dst.toList H i))) t))
    | none => unit i t

/-- Set the vector state of a hart. -/
def withVec (h : Nat) (g : VecState → VecState) (s : State) : State :=
  s.setHart h { s.hart h with vec := g (s.hart h).vec }

/-- The effect of unit i at its location, on stream q: a load reads now, and may read again; a store or add is to be performed
(R222, R228). -/
def memEffect (h q : Nat) (k : MemKind) (V : Nat) (H : Hart) (R : Vector VReg 32) (i : Nat) (l : Loc) (t : State) : State :=
  let g := H.vec.geo H.obs.prot
  let (r, u) := H.vec.rowOf g i
  let x := readUnit R g H.vec.gf V r u
  match k with
  | .load =>
    loadedElem h q l (unitReg g H.vec.gf V r u) (u % g.per * g.unit)
      (withVec h (fun W => W.putUnit g H.obs.prot V r u (readLoc l t)) (fillLoc l t))
  | .store => storeElem h q l x t
  | .add => pushElems h q .add H.vec.ew [⟨l, x, 0, 0⟩] t

/-- Unit i at its address: the checks, then the effect. -/
def memUnit (h q : Nat) (k : MemKind) (aligned : Bool) (V : Nat) (H : Hart) (R : Vector VReg 32) (addr : Nat → Word)
    (i : Nat) (t : State) : Res Unit :=
  match unitAccess h q k aligned (addr i) (H.vec.geo H.obs.prot).unit t with
  | .trap c a t1 => .trap c a t1
  | .ok l t1 => .ok () (memEffect h q k V H R i l t1)

/-- What a vector memory instruction, watched or not, leaves behind at its completion. -/
def memFin (h : Nat) (f : MemForm) (watched : Bool) (t : State) : State :=
  emit h f.fields.dst none (closeVacc h (if watched then watchEnd h t else t))

/-- No fault ends the instruction without a trap. -/
def noCut (_ : Nat) (_ : Hart) (_ : Nat) (_ : Nat) (_ : State) : Option State := none

/-- A vector memory instruction, with the effect of a unit given. pre is a trap of the whole instruction at dispatch, cut
says which fault of a unit ends it without a trap (R233). -/
def memOp (word : Nat) (f : MemForm) (m : BitVec 3) (q : BitVec 4)
    (pre : Hart → Option (Nat × Word)) (cut : Nat → Hart → Nat → Nat → State → Option State)
    (unit : Nat → Nat → Hart → Vector VReg 32 → (Nat → Word) → Nat → State → Res Unit) (s : State) : State :=
  onVector word s (fun h =>
    let H0 := s.hart h
    dispatch h word f.fields (f.accepts H0.vec.ew && f.ok H0.vec && !(H0.stream q.toNat).bound) s (fun s1 =>
      let H := s1.hart h
      let R := H.sourceRegs f.fields.srcs
      match pre H with
      | some (c, t) => vectorTrap h c t s1
      | none =>
        if (H.activeFrom m H.vec.estart.toNat).any (fun i => unitStalls h f H R i s1) then s
        else
          let s2 := watchStart h f s1
          let watched := (s2.hart h).obs.watch.isSome
          let (df, s3) := destFaults h f.fields.dst s2
          sweepNoting (fun i t => if watched then watchTo h f m R i t else t)
            (fun i c t => if (f.sinkFault H df i).isSome then none else cut h H i c t) h
            (H.vec.units (H.vec.geo H.obs.prot)) f.fields.srcs (fun i => H.vec.active m i)
            (memStep h f H R df (unit h q.toNat H R (f.addr H R))) (memFin h f watched) s3))

/-- No trap of the whole instruction. -/
def noPre (_ : Hart) : Option (Nat × Word) := none

/-! ## The forms (R227, R228) -/

/-- A g register. -/
def Hart.gWord (H : Hart) (g : BitVec 3) : Word := H.vec.g[g.toNat]

/-- Unit stride: elements, or cells of e4m3b, one after the other. -/
def unitAddr (g : BitVec 3) (H : Hart) (_ : Vector VReg 32) (i : Nat) : Word :=
  H.gWord g + BitVec.ofNat 64 (i * (H.vec.geo H.obs.prot).unit)

/-- A stride in a g register. -/
def strideAddr (g x : BitVec 3) (H : Hart) (_ : Vector VReg 32) (i : Nat) : Word :=
  H.gWord g + BitVec.ofNat 64 i * H.gWord x

/-- An index in a vector register, signed and scaled by the element (R228, R230). -/
def indexAddr (g : BitVec 3) (x : BitVec 5) (H : Hart) (R : Vector VReg 32) (i : Nat) : Word :=
  let geo := H.vec.geo H.obs.prot
  let (r, u) := H.vec.rowOf geo i
  H.gWord g + BitVec.ofInt 64 (asInt (8 * geo.unit) (readUnit R geo H.vec.gf x.toNat r u) * geo.unit)

/-- A cell of a q4n super-block (R231). -/
def cellAddr (g : BitVec 3) (H : Hart) (i : Nat) : Word :=
  let v := H.gWord g
  BitVec.ofNat 64 (bits v 0 56 + 4 + 33 * (bits v 56 8 + i))

/-- Unit stride, or the cells of a super-block. -/
def plainAddr (g : BitVec 3) (H : Hart) (R : Vector VReg 32) (i : Nat) : Word :=
  if H.vec.ew = 14 then cellAddr g H i else unitAddr g H R i

/-- The fields of a load. -/
def loadFields (v : BitVec 5) (srcs : List (Nat × Bool)) : VecFields := ⟨some v.toNat, .same, srcs⟩

/-- The fields of a store or add. -/
def storeFields (v : BitVec 5) (srcs : List (Nat × Bool)) : VecFields := ⟨none, .same, (v.toNat, true) :: srcs⟩

def anyEw (ew : Nat) : Bool := decide (ew < 16)
def plainEw (ew : Nat) : Bool := decide (ew < 14)
def addEw (ew : Nat) : Bool := [2, 3, 6, 7, 12, 13].contains ew

/-- The data and index footprints are equal or disjoint (R227). -/
def indexOk (v x : BitVec 5) (V : VecState) : Bool := V.overlapOk .same v.toNat x.toNat

def noCheck (_ : VecState) : Bool := true

/-- The checks of a q4n super-block at dispatch (R231). -/
def superPre (g : BitVec 3) (H : Hart) : Option (Nat × Word) :=
  let v := H.gWord g
  if H.vec.ew = 14 && (bits v 0 56 % 4 != 0 ||
      decide (256 < bits v 56 8 + H.vec.units (H.vec.geo H.obs.prot))) then some (0x04, v)
  else none

/-- The register that holds unit i of a field. -/
def Hart.regOf (H : Hart) (F i : Nat) : Nat :=
  let g := H.vec.geo H.obs.prot
  let (r, u) := H.vec.rowOf g i
  unitReg g H.vec.gf F r u

/-- A unit touches its own bytes at its address. -/
def touchAt (addr : Hart → Vector VReg 32 → Nat → Word) (H : Hart) (R : Vector VReg 32) (i : Nat) : List (Nat × Nat) :=
  [((addr H R i).toNat, (H.vec.geo H.obs.prot).unit)]

/-- The address of the super scale of a super-block (R231). -/
def Hart.superAddr (H : Hart) (g : BitVec 3) : Word := BitVec.ofNat 64 (bits (H.gWord g) 0 56)

/-- The lowest active cell of a super-block touches its super scale as well (R231). -/
def touchPlain (m g : BitVec 3) (H : Hart) (R : Vector VReg 32) (i : Nat) : List (Nat × Nat) :=
  (if H.vec.ew = 14 ∧ H.lowestActive m = some i then [((H.superAddr g).toNat, 4)] else []) ++ touchAt (plainAddr g) H R i

/-- The super scale of a load comes with the lowest active cell; every register that receives a cell takes it (R231). -/
def loadScale (h _q : Nat) (v : BitVec 5) (H : Hart) (low i : Nat) (l : Option Loc) (t : State) : State :=
  match l with
  | some l => withVec h (fun W => W.setSide (H.regOf v.toNat i) (BitVec.ofNat 32 (readLoc l t))) (fillLoc l t)
  | none => withVec h (fun W => W.setSide (H.regOf v.toNat i) (W.sideAt (H.regOf v.toNat low))) t

/-- The super scale of a store goes with the lowest active cell; a cell under another side word sets NV (R231). -/
def storeScale (h q : Nat) (v : BitVec 5) (H : Hart) (low i : Nat) (l : Option Loc) (t : State) : State :=
  let side := H.vec.sideAt (H.regOf v.toNat i)
  match l with
  | some l => storeElem h q l side.toNat t
  | none => if side = H.vec.sideAt (H.regOf v.toNat low) then t else withVec h (fun W => W.raise FFlags.invalid) t

/-- The super scale's access, part of the access of the lowest active cell: its fault is reported at that cell, with the
cell's address (R219, R231; assumption 66, DEDUCED). -/
def scaleAccess (h q : Nat) (k : MemKind) (g : BitVec 3) (H : Hart) (low i : Nat) (cell : Word) (t : State) : Res (Option Loc) :=
  if i = low then
    match unitAccess h q k false (H.superAddr g) 4 t with
    | .trap c _ t1 => .trap c cell t1
    | .ok l t1 => .ok (some l) t1
  else .ok none t

/-- The rank of a cause among those of one memory element at an address (R332). -/
def elementRank (c : Nat) (a : Word) : Nat :=
  if c = 0x04 then 1
  else if c = 0x07 then (if spaceOf a.toNat = .outside ∨ spaceOf a.toNat = .hole then 2 else 6)
  else if c = 0x05 then 3
  else if c = 0x06 then 5
  else c

/-- The cell of unit i has met a cause: one of the super scale that comes with it is taken first if it ranks higher (R231, R332). -/
def scaleFault (h q : Nat) (k : MemKind) (g : BitVec 3) (H : Hart) (low i c : Nat) (cell a : Word) (t : State) : Res Unit :=
  match scaleAccess h q k g H low i cell t with
  | .trap c2 _ t2 => if elementRank c2 (H.superAddr g) < elementRank c cell then .trap c2 cell t2 else .trap c a t
  | .ok _ _ => .trap c a t

/-- A unit of ld or st: for q4n the checks of the cell and of the super scale come before either is written (R219). -/
def scaledUnit (scale : Nat → Nat → BitVec 5 → Hart → Nat → Nat → Option Loc → State → State) (k : MemKind)
    (m g : BitVec 3) (v : BitVec 5) (h q : Nat) (H : Hart) (R : Vector VReg 32) (addr : Nat → Word) (i : Nat)
    (t : State) : Res Unit :=
  if H.vec.ew = 14 then
    let low := (H.lowestActive m).getD i
    match unitAccess h q k false (addr i) 33 t with
    | .trap c a t1 => scaleFault h q k g H low i c (addr i) a t1
    | .ok l t1 =>
      match scaleAccess h q k g H low i (addr i) t1 with
      | .trap c a t2 => .trap c a t2
      | .ok ls t2 => .ok () (memEffect h q k v.toNat H R i l (scale h q v H low i ls t2))
  else memUnit h q k (!ewBlocked H.vec.ew) v.toNat H R addr i t

def execVmemLd (h : BitVec 1) (m : BitVec 3) (fs : BitVec 4) (g : BitVec 3) (v : BitVec 5) (s : State) : Out :=
  .next (memOp (vmemLdWord h m fs g v) ⟨0, 0, .load, anyEw, loadFields v [], noCheck, plainAddr g, touchPlain m g⟩ m fs (superPre g) noCut
    (scaledUnit loadScale .load m g v) s)
def execVmemSt (h : BitVec 1) (m : BitVec 3) (fs : BitVec 4) (g : BitVec 3) (v : BitVec 5) (s : State) : Out :=
  .next (memOp (vmemStWord h m fs g v) ⟨1, 0, .store, anyEw, storeFields v [], noCheck, plainAddr g, touchPlain m g⟩ m fs (superPre g) noCut
    (scaledUnit storeScale .store m g v) s)
def execVmemLds (h : BitVec 1) (m : BitVec 3) (fs : BitVec 4) (x g : BitVec 3) (v : BitVec 5) (s : State) : Out :=
  .next (memOp (vmemLdsWord h m fs x g v) ⟨2, 1, .load, plainEw, loadFields v [], noCheck, strideAddr g x, touchAt (strideAddr g x)⟩ m fs noPre noCut
    (fun h q => memUnit h q .load true v.toNat) s)
def execVmemSts (h : BitVec 1) (m : BitVec 3) (fs : BitVec 4) (x g : BitVec 3) (v : BitVec 5) (s : State) : Out :=
  .next (memOp (vmemStsWord h m fs x g v) ⟨3, 1, .store, plainEw, storeFields v [], noCheck, strideAddr g x, touchAt (strideAddr g x)⟩ m fs noPre noCut
    (fun h q => memUnit h q .store true v.toNat) s)
def execVmemLdx (h : BitVec 1) (m : BitVec 3) (fs : BitVec 4) (x : BitVec 5) (g : BitVec 3) (v : BitVec 5) (s : State) :
    Out :=
  .next (memOp (vmemLdxWord h m fs x g v)
    ⟨4, 2, .load, plainEw, loadFields v [(x.toNat, true)], indexOk v x, indexAddr g x, touchAt (indexAddr g x)⟩ m fs noPre noCut
    (fun h q => memUnit h q .load true v.toNat) s)
def execVmemStx (h : BitVec 1) (m : BitVec 3) (fs : BitVec 4) (x : BitVec 5) (g : BitVec 3) (v : BitVec 5) (s : State) :
    Out :=
  .next (memOp (vmemStxWord h m fs x g v)
    ⟨5, 2, .store, plainEw, storeFields v [(x.toNat, true)], indexOk v x, indexAddr g x, touchAt (indexAddr g x)⟩ m fs noPre noCut
    (fun h q => memUnit h q .store true v.toNat) s)
def execVmemAmoadd (h : BitVec 1) (m : BitVec 3) (fs : BitVec 4) (x : BitVec 5) (g : BitVec 3) (v : BitVec 5)
    (s : State) : Out :=
  .next (memOp (vmemAmoaddWord h m fs x g v)
    ⟨9, 2, .add, addEw, storeFields v [(x.toNat, true)], indexOk v x, indexAddr g x, touchAt (indexAddr g x)⟩ m fs noPre noCut
    (fun h q => memUnit h q .add true v.toNat) s)

/-! ## ldl and stl (R232) -/

/-- The lanes that hold a register's bytes: in protected mode the other lanes hold their mirrors (R160, R400). -/
def laneCount (prot : Bool) : Nat := if prot then 16 else 32

/-- The slice offset of a byte of the footprint: register k, byte o (R232, R400). -/
def sliceOffset (prot : Bool) (base k o : Nat) : Nat := base + 16 * (4 * k + o / 16 / laneCount prot) + o % 16

/-- Its lane window offset (R200, R232). -/
def sliceWindow (prot : Bool) (base k o : Nat) : Nat :=
  let sl := sliceOffset prot base k o
  sl / 16 * 512 + 16 * (o / 16 % laneCount prot) + sl % 16

/-- The register of the footprint and the first byte of unit i. -/
def Hart.unitAt (H : Hart) (i : Nat) : Nat × Nat :=
  let g := H.vec.geo H.obs.prot
  let (r, u) := H.vec.rowOf g i
  (r * H.vec.gf + u / g.per, u % g.per * g.unit)

/-- The address of unit i of ldl and stl: the lane window address of its first byte. -/
def laneAddr (g : BitVec 3) (H : Hart) (_ : Vector VReg 32) (i : Nat) : Word :=
  let (k, o) := H.unitAt i
  BitVec.ofNat 64 (0xFFF00000000000 + sliceWindow H.obs.prot (H.gWord g).toNat k o)

/-- The window offsets of n bytes of register k from byte o on: a piece for each element group; f bounds the pieces. -/
def lanePieces (prot : Bool) (base k : Nat) : Nat → Nat → Nat → List (Nat × Nat)
  | 0, _, _ => []
  | f + 1, o, n =>
    if n = 0 then []
    else
      let p := min n (16 - o % 16)
      (sliceWindow prot base k o, p) :: lanePieces prot base k f (o + p) (n - p)

/-- The window offsets of unit i. -/
def laneOffsets (g : BitVec 3) (H : Hart) (i : Nat) : List (Nat × Nat) :=
  let (k, o) := H.unitAt i
  lanePieces H.obs.prot (H.gWord g).toNat k 10 o (H.vec.geo H.obs.prot).unit

/-- The pieces that unit i touches. -/
def laneTouch (g : BitVec 3) (H : Hart) (_ : Vector VReg 32) (i : Nat) : List (Nat × Nat) :=
  (laneOffsets g H i).map (fun p => (0xFFF00000000000 + p.1, p.2))

/-- Where the bytes of unit i lie in the core's lane slices, piece by piece, each with the bytes of the unit before it. -/
def laneLocs (h : Nat) (g : BitVec 3) (H : Hart) (i : Nat) : List (Loc × Nat) :=
  (((laneOffsets g H i).foldl (fun (a : List (Loc × Nat) × Nat) p =>
    (a.1 ++ [(.window (laneKey (coreOf h) p.1) p.2, a.2)], a.2 + p.2)) ([], 0))).1

/-- The unit reaches past the end of the slices. -/
def pastSlice (g : BitVec 3) (H : Hart) (i : Nat) : Bool :=
  let (k, o) := H.unitAt i
  decide (8191 < sliceOffset H.obs.prot (H.gWord g).toNat k (o + (H.vec.geo H.obs.prot).unit - 1))

/-- The base of ldl and stl is a multiple of 16 (R232). -/
def slicePre (g : BitVec 3) (H : Hart) : Option (Nat × Word) :=
  if (H.gWord g).toNat % 16 = 0 then none else some (0x04, H.gWord g)

/-- A unit of ldl. -/
def laneLoad (g : BitVec 3) (v : BitVec 5) (h q : Nat) (H : Hart) (_ : Vector VReg 32) (addr : Nat → Word) (i : Nat)
    (t : State) : Res Unit :=
  let geo := H.vec.geo H.obs.prot
  let (r, u) := H.vec.rowOf geo i
  let ls := laneLocs h g H i
  let t1 := ls.foldl (fun t p => readyToRead h q p.1 t) t
  if pastSlice g H i then .trap 0x05 (addr i) t
  else if ls.any (fun p => poisonedLoc p.1 t1) then .trap 0x0E (addr i) t1
  else
    let x := ls.foldl (fun n p => n + readLoc p.1 t1 * 256 ^ p.2) 0
    .ok () (ls.foldl (fun t p => loadedElem h q p.1 (unitReg geo H.vec.gf v.toNat r u) (u % geo.per * geo.unit + p.2) t)
      (withVec h (fun W => W.putUnit geo H.obs.prot v.toNat r u x) t1))

/-- A unit of stl. -/
def laneStore (g : BitVec 3) (v : BitVec 5) (h q : Nat) (H : Hart) (R : Vector VReg 32) (addr : Nat → Word) (i : Nat)
    (t : State) : Res Unit :=
  let geo := H.vec.geo H.obs.prot
  let (r, u) := H.vec.rowOf geo i
  let x := readUnit R geo H.vec.gf v.toNat r u
  if pastSlice g H i then .trap 0x05 (addr i) t
  else .ok () ((laneLocs h g H i).foldl (fun t p => storeElem h q p.1 (x / 256 ^ p.2 % 256 ^ p.1.size) t) t)

def execVmemLdl (h : BitVec 1) (m : BitVec 3) (fs : BitVec 4) (g : BitVec 3) (v : BitVec 5) (s : State) : Out :=
  .next (memOp (vmemLdlWord h m fs g v) ⟨6, 3, .load, anyEw, loadFields v [], noCheck, laneAddr g, laneTouch g⟩ m fs
    (slicePre g) noCut (laneLoad g v) s)
def execVmemStl (h : BitVec 1) (m : BitVec 3) (fs : BitVec 4) (g : BitVec 3) (v : BitVec 5) (s : State) : Out :=
  .next (memOp (vmemStlWord h m fs g v) ⟨7, 3, .store, anyEw, storeFields v [], noCheck, laneAddr g, laneTouch g⟩ m fs
    (slicePre g) noCut (laneStore g v) s)

/-! ## ldff (R233) -/

/-- The fault is one that ldff turns into a shorter load. -/
def softCause (c : Nat) : Bool := c == 0x06 || c == 0x07 || c == 0x0E

/-- Bits i to n − 1 of the governing mask clear. -/
def cutMask (h : Nat) (m : BitVec 3) (i n : Nat) (s : State) : State :=
  withVec h (fun W => W.setMask m (W.maskAt m &&& ~~~(firstBits n &&& ~~~(firstBits i))) i (n - i)) s

/-- A soft fault above the first active unit of the dispatch ends the load there: the units before it have been loaded, and
the instruction completes (R233). -/
def firstFault (h : Nat) (m : BitVec 3) (H : Hart) (i c : Nat) (s : State) : Option State :=
  if softCause c && (H.activeFrom m H.vec.estart.toNat).head? != some i then
    some (cutMask h m i (H.vec.units (H.vec.geo H.obs.prot)) s)
  else none

/-- ldff performs its units in one sweep, so that its first active unit is that of its dispatch (R233). -/
def execVmemLdff (h : BitVec 1) (m : BitVec 3) (fs : BitVec 4) (g : BitVec 3) (v : BitVec 5) (s : State) : Out :=
  .next (memOp (vmemLdffWord h m fs g v)
    ⟨8, 0, .load, plainEw, loadFields v [], noCheck, unitAddr g, touchAt (unitAddr g)⟩ m fs noPre
    (fun h => firstFault h m)
    (fun h q => memUnit h q .load true v.toNat) { s with limit := none })

end Sys2Proof.Machine
end

