-- ==== Sys2Proof/Machine/Dispatch.lean ====
section
/-!
DEFINITION. The one dispatch: one arm per instruction and event, each calling its own meaning.
-/
namespace Sys2Proof.Machine

def exec (i : Instr) (s : State) : Host.Outcome State Fault Refusal :=
  match i with
  | .add y x b a d => Sys2Proof.Machine.execAdd y x b a d s
  | .sub y x b a d => Sys2Proof.Machine.execSub y x b a d s
  | .and y x b a d => Sys2Proof.Machine.execAnd y x b a d s
  | .or y x b a d => Sys2Proof.Machine.execOr y x b a d s
  | .xor y x b a d => Sys2Proof.Machine.execXor y x b a d s
  | .sll y x b a d => Sys2Proof.Machine.execSll y x b a d s
  | .srl y x b a d => Sys2Proof.Machine.execSrl y x b a d s
  | .sra y x b a d => Sys2Proof.Machine.execSra y x b a d s
  | .mul y x b a d => Sys2Proof.Machine.execMul y x b a d s
  | .mulh y x b a d => Sys2Proof.Machine.execMulh y x b a d s
  | .mulhu y x b a d => Sys2Proof.Machine.execMulhu y x b a d s
  | .div y x b a d => Sys2Proof.Machine.execDiv y x b a d s
  | .divu y x b a d => Sys2Proof.Machine.execDivu y x b a d s
  | .rem y x b a d => Sys2Proof.Machine.execRem y x b a d s
  | .remu y x b a d => Sys2Proof.Machine.execRemu y x b a d s
  | .min y x b a d => Sys2Proof.Machine.execMin y x b a d s
  | .max y x b a d => Sys2Proof.Machine.execMax y x b a d s
  | .minu y x b a d => Sys2Proof.Machine.execMinu y x b a d s
  | .maxu y x b a d => Sys2Proof.Machine.execMaxu y x b a d s
  | .clz x a d => Sys2Proof.Machine.execClz x a d s
  | .ctz x a d => Sys2Proof.Machine.execCtz x a d s
  | .pop x a d => Sys2Proof.Machine.execPop x a d s
  | .rng y x b a d => Sys2Proof.Machine.execRng y x b a d s
  | .addi im x a d => Sys2Proof.Machine.execAddi im x a d s
  | .andi im x a d => Sys2Proof.Machine.execAndi im x a d s
  | .ori im x a d => Sys2Proof.Machine.execOri im x a d s
  | .xori im x a d => Sys2Proof.Machine.execXori im x a d s
  | .slli fs x a d => Sys2Proof.Machine.execSlli fs x a d s
  | .srli fs x a d => Sys2Proof.Machine.execSrli fs x a d s
  | .srai fs x a d => Sys2Proof.Machine.execSrai fs x a d s
  | .lui im d => Sys2Proof.Machine.execLui im d s
  | .adr im d => Sys2Proof.Machine.execAdr im d s
  | .cmpEq y x b a k => Sys2Proof.Machine.execCmpEq y x b a k s
  | .cmpNe y x b a k => Sys2Proof.Machine.execCmpNe y x b a k s
  | .cmpLt y x b a k => Sys2Proof.Machine.execCmpLt y x b a k s
  | .cmpLtu y x b a k => Sys2Proof.Machine.execCmpLtu y x b a k s
  | .feqD y x b a k => Sys2Proof.Machine.execFeqD y x b a k s
  | .fltD y x b a k => Sys2Proof.Machine.execFltD y x b a k s
  | .fleD y x b a k => Sys2Proof.Machine.execFleD y x b a k s
  | .funD y x b a k => Sys2Proof.Machine.execFunD y x b a k s
  | .feqS y x b a k => Sys2Proof.Machine.execFeqS y x b a k s
  | .fltS y x b a k => Sys2Proof.Machine.execFltS y x b a k s
  | .fleS y x b a k => Sys2Proof.Machine.execFleS y x b a k s
  | .funS y x b a k => Sys2Proof.Machine.execFunS y x b a k s
  | .cmpiEq im x a k => Sys2Proof.Machine.execCmpiEq im x a k s
  | .cmpiNe im x a k => Sys2Proof.Machine.execCmpiNe im x a k s
  | .cmpiLt im x a k => Sys2Proof.Machine.execCmpiLt im x a k s
  | .cmpiLtu im x a k => Sys2Proof.Machine.execCmpiLtu im x a k s
  | .kand y x b a d => Sys2Proof.Machine.execKand y x b a d s
  | .kor y x b a d => Sys2Proof.Machine.execKor y x b a d s
  | .kxor y x b a d => Sys2Proof.Machine.execKxor y x b a d s
  | .kset x a d => Sys2Proof.Machine.execKset x a d s
  | .kget x a d => Sys2Proof.Machine.execKget x a d s
  | .faddD y x b a d => Sys2Proof.Machine.execFaddD y x b a d s
  | .fsubD y x b a d => Sys2Proof.Machine.execFsubD y x b a d s
  | .fmulD y x b a d => Sys2Proof.Machine.execFmulD y x b a d s
  | .fdivD y x b a d => Sys2Proof.Machine.execFdivD y x b a d s
  | .fsqrtD x a d => Sys2Proof.Machine.execFsqrtD x a d s
  | .fminD y x b a d => Sys2Proof.Machine.execFminD y x b a d s
  | .fmaxD y x b a d => Sys2Proof.Machine.execFmaxD y x b a d s
  | .faddS y x b a d => Sys2Proof.Machine.execFaddS y x b a d s
  | .fsubS y x b a d => Sys2Proof.Machine.execFsubS y x b a d s
  | .fmulS y x b a d => Sys2Proof.Machine.execFmulS y x b a d s
  | .fdivS y x b a d => Sys2Proof.Machine.execFdivS y x b a d s
  | .fsqrtS x a d => Sys2Proof.Machine.execFsqrtS x a d s
  | .fminS y x b a d => Sys2Proof.Machine.execFminS y x b a d s
  | .fmaxS y x b a d => Sys2Proof.Machine.execFmaxS y x b a d s
  | .cvtDL x a d => Sys2Proof.Machine.execCvtDL x a d s
  | .cvtLD x a d => Sys2Proof.Machine.execCvtLD x a d s
  | .cvtSL x a d => Sys2Proof.Machine.execCvtSL x a d s
  | .cvtLS x a d => Sys2Proof.Machine.execCvtLS x a d s
  | .cvtDS x a d => Sys2Proof.Machine.execCvtDS x a d s
  | .cvtSD x a d => Sys2Proof.Machine.execCvtSD x a d s
  | .fmaddD c b a d => Sys2Proof.Machine.execFmaddD c b a d s
  | .fmsubD c b a d => Sys2Proof.Machine.execFmsubD c b a d s
  | .fmaddS c b a d => Sys2Proof.Machine.execFmaddS c b a d s
  | .fmsubS c b a d => Sys2Proof.Machine.execFmsubS c b a d s
  | .bK o p k => Sys2Proof.Machine.execBK o p k s
  | .bNk o p k => Sys2Proof.Machine.execBNk o p k s
  | .branchConfirm h => Sys2Proof.Machine.execBranchConfirm h s
  | .jal im d => Sys2Proof.Machine.execJal im d s
  | .jalr im x a d => Sys2Proof.Machine.execJalr im x a d s
  | .ldB im fs x a d => Sys2Proof.Machine.execLdB im fs x a d s
  | .ldBu im fs x a d => Sys2Proof.Machine.execLdBu im fs x a d s
  | .ldH im fs x a d => Sys2Proof.Machine.execLdH im fs x a d s
  | .ldHu im fs x a d => Sys2Proof.Machine.execLdHu im fs x a d s
  | .ldW im fs x a d => Sys2Proof.Machine.execLdW im fs x a d s
  | .ldWu im fs x a d => Sys2Proof.Machine.execLdWu im fs x a d s
  | .ldD im fs x a d => Sys2Proof.Machine.execLdD im fs x a d s
  | .loadDataReturn h n => Sys2Proof.Machine.execLoadDataReturn h n s
  | .stB im fs x a d => Sys2Proof.Machine.execStB im fs x a d s
  | .stH im fs x a d => Sys2Proof.Machine.execStH im fs x a d s
  | .stW im fs x a d => Sys2Proof.Machine.execStW im fs x a d s
  | .stD im fs x a d => Sys2Proof.Machine.execStD im fs x a d s
  | .amoAddW c y x b a d => Sys2Proof.Machine.execAmoAddW c y x b a d s
  | .amoAddD c y x b a d => Sys2Proof.Machine.execAmoAddD c y x b a d s
  | .amoMinD c y x b a d => Sys2Proof.Machine.execAmoMinD c y x b a d s
  | .amoMaxD c y x b a d => Sys2Proof.Machine.execAmoMaxD c y x b a d s
  | .amoMinuD c y x b a d => Sys2Proof.Machine.execAmoMinuD c y x b a d s
  | .amoMaxuD c y x b a d => Sys2Proof.Machine.execAmoMaxuD c y x b a d s
  | .amoSwapD c y x b a d => Sys2Proof.Machine.execAmoSwapD c y x b a d s
  | .amoCasD c y x b a d => Sys2Proof.Machine.execAmoCasD c y x b a d s
  | .amoFaddS c y x b a d => Sys2Proof.Machine.execAmoFaddS c y x b a d s
  | .amoFaddD c y x b a d => Sys2Proof.Machine.execAmoFaddD c y x b a d s
  | .amoReturn h n => Sys2Proof.Machine.execAmoReturn h n s
  | .sbar c m => Sys2Proof.Machine.execSbar c m s
  | .fence c => Sys2Proof.Machine.execFence c s
  | .gsync c g => Sys2Proof.Machine.execGsync c g s
  | .garrive c g => Sys2Proof.Machine.execGarrive c g s
  | .gwait c g => Sys2Proof.Machine.execGwait c g s
  | .groupArrivalSend h m => Sys2Proof.Machine.execGroupArrivalSend h m s
  | .crd n d => Sys2Proof.Machine.execCrd n d s
  | .cwr n x a d => Sys2Proof.Machine.execCwr n x a d s
  | .trap c => Sys2Proof.Machine.execTrap c s
  | .tret => Sys2Proof.Machine.execTret s
  | .halt => Sys2Proof.Machine.execHalt s
  | .idle => Sys2Proof.Machine.execIdle s
  | .brk => Sys2Proof.Machine.execBrk s
  | .yield => Sys2Proof.Machine.execYield s
  | .idleWake h => Sys2Proof.Machine.execIdleWake h s
  | .hartRetire h => Sys2Proof.Machine.execHartRetire h s
  | .l1inv x a => Sys2Proof.Machine.execL1inv x a s
  | .l2wb x a => Sys2Proof.Machine.execL2wb x a s
  | .tlbinv x a => Sys2Proof.Machine.execTlbinv x a s
  | .tlbsync => Sys2Proof.Machine.execTlbsync s
  | .setlen y x b a d => Sys2Proof.Machine.execSetlen y x b a d s
  | .setrows x a d => Sys2Proof.Machine.execSetrows x a d s
  | .setfmt x a d => Sys2Proof.Machine.execSetfmt x a d s
  | .vdrain => Sys2Proof.Machine.execVdrain s
  | .vstat d => Sys2Proof.Machine.execVstat d s
  | .hwpub y x b a => Sys2Proof.Machine.execHwpub y x b a s
  | .setfmti im d => Sys2Proof.Machine.execSetfmti im d s
  | .vblk im => Sys2Proof.Machine.execVblk im s
  | .blockInstanceBegin h => Sys2Proof.Machine.execBlockInstanceBegin h s
  | .vbind x k a d => Sys2Proof.Machine.execVbind x k a d s
  | .vunbind d => Sys2Proof.Machine.execVunbind d s
  | .qpat x a q => Sys2Proof.Machine.execQpat x a q s
  | .qstat q d => Sys2Proof.Machine.execQstat q d s
  | .streamChunkArrive h q => Sys2Proof.Machine.execStreamChunkArrive h q s
  | .vintAdd y x m b a d => Sys2Proof.Machine.execVintAdd y x m b a d s
  | .vintSub y x m b a d => Sys2Proof.Machine.execVintSub y x m b a d s
  | .vintMul y x m b a d => Sys2Proof.Machine.execVintMul y x m b a d s
  | .vintMulh y x m b a d => Sys2Proof.Machine.execVintMulh y x m b a d s
  | .vintMulhu y x m b a d => Sys2Proof.Machine.execVintMulhu y x m b a d s
  | .vintMin y x m b a d => Sys2Proof.Machine.execVintMin y x m b a d s
  | .vintMax y x m b a d => Sys2Proof.Machine.execVintMax y x m b a d s
  | .vintMinu y x m b a d => Sys2Proof.Machine.execVintMinu y x m b a d s
  | .vintMaxu y x m b a d => Sys2Proof.Machine.execVintMaxu y x m b a d s
  | .vintAnd y x m b a d => Sys2Proof.Machine.execVintAnd y x m b a d s
  | .vintOr y x m b a d => Sys2Proof.Machine.execVintOr y x m b a d s
  | .vintXor y x m b a d => Sys2Proof.Machine.execVintXor y x m b a d s
  | .vintSll y x m b a d => Sys2Proof.Machine.execVintSll y x m b a d s
  | .vintSrl y x m b a d => Sys2Proof.Machine.execVintSrl y x m b a d s
  | .vintSra y x m b a d => Sys2Proof.Machine.execVintSra y x m b a d s
  | .vintAdds y x m b a d => Sys2Proof.Machine.execVintAdds y x m b a d s
  | .vintSubs y x m b a d => Sys2Proof.Machine.execVintSubs y x m b a d s
  | .vintAddsu y x m b a d => Sys2Proof.Machine.execVintAddsu y x m b a d s
  | .vintSubsu y x m b a d => Sys2Proof.Machine.execVintSubsu y x m b a d s
  | .vintMov y m b d => Sys2Proof.Machine.execVintMov y m b d s
  | .vintGAdd y x m b a d => Sys2Proof.Machine.execVintGAdd y x m b a d s
  | .vintGSub y x m b a d => Sys2Proof.Machine.execVintGSub y x m b a d s
  | .vintGMul y x m b a d => Sys2Proof.Machine.execVintGMul y x m b a d s
  | .vintGMulh y x m b a d => Sys2Proof.Machine.execVintGMulh y x m b a d s
  | .vintGMulhu y x m b a d => Sys2Proof.Machine.execVintGMulhu y x m b a d s
  | .vintGMin y x m b a d => Sys2Proof.Machine.execVintGMin y x m b a d s
  | .vintGMax y x m b a d => Sys2Proof.Machine.execVintGMax y x m b a d s
  | .vintGMinu y x m b a d => Sys2Proof.Machine.execVintGMinu y x m b a d s
  | .vintGMaxu y x m b a d => Sys2Proof.Machine.execVintGMaxu y x m b a d s
  | .vintGAnd y x m b a d => Sys2Proof.Machine.execVintGAnd y x m b a d s
  | .vintGOr y x m b a d => Sys2Proof.Machine.execVintGOr y x m b a d s
  | .vintGXor y x m b a d => Sys2Proof.Machine.execVintGXor y x m b a d s
  | .vintGSll y x m b a d => Sys2Proof.Machine.execVintGSll y x m b a d s
  | .vintGSrl y x m b a d => Sys2Proof.Machine.execVintGSrl y x m b a d s
  | .vintGSra y x m b a d => Sys2Proof.Machine.execVintGSra y x m b a d s
  | .vintGAdds y x m b a d => Sys2Proof.Machine.execVintGAdds y x m b a d s
  | .vintGSubs y x m b a d => Sys2Proof.Machine.execVintGSubs y x m b a d s
  | .vintGAddsu y x m b a d => Sys2Proof.Machine.execVintGAddsu y x m b a d s
  | .vintGSubsu y x m b a d => Sys2Proof.Machine.execVintGSubsu y x m b a d s
  | .vintGMov y m b d => Sys2Proof.Machine.execVintGMov y m b d s
  | .vintIAdd y x m im a d => Sys2Proof.Machine.execVintIAdd y x m im a d s
  | .vintISub y x m im a d => Sys2Proof.Machine.execVintISub y x m im a d s
  | .vintIMul y x m im a d => Sys2Proof.Machine.execVintIMul y x m im a d s
  | .vintIMulh y x m im a d => Sys2Proof.Machine.execVintIMulh y x m im a d s
  | .vintIMulhu y x m im a d => Sys2Proof.Machine.execVintIMulhu y x m im a d s
  | .vintIMin y x m im a d => Sys2Proof.Machine.execVintIMin y x m im a d s
  | .vintIMax y x m im a d => Sys2Proof.Machine.execVintIMax y x m im a d s
  | .vintIMinu y x m im a d => Sys2Proof.Machine.execVintIMinu y x m im a d s
  | .vintIMaxu y x m im a d => Sys2Proof.Machine.execVintIMaxu y x m im a d s
  | .vintIAnd y x m im a d => Sys2Proof.Machine.execVintIAnd y x m im a d s
  | .vintIOr y x m im a d => Sys2Proof.Machine.execVintIOr y x m im a d s
  | .vintIXor y x m im a d => Sys2Proof.Machine.execVintIXor y x m im a d s
  | .vintISll y x m im a d => Sys2Proof.Machine.execVintISll y x m im a d s
  | .vintISrl y x m im a d => Sys2Proof.Machine.execVintISrl y x m im a d s
  | .vintISra y x m im a d => Sys2Proof.Machine.execVintISra y x m im a d s
  | .vintIAdds y x m im a d => Sys2Proof.Machine.execVintIAdds y x m im a d s
  | .vintISubs y x m im a d => Sys2Proof.Machine.execVintISubs y x m im a d s
  | .vintIAddsu y x m im a d => Sys2Proof.Machine.execVintIAddsu y x m im a d s
  | .vintISubsu y x m im a d => Sys2Proof.Machine.execVintISubsu y x m im a d s
  | .vintIMov y m im d => Sys2Proof.Machine.execVintIMov y m im d s
  | .vfpFadd y x m b a d => Sys2Proof.Machine.execVfpFadd y x m b a d s
  | .vfpFsub y x m b a d => Sys2Proof.Machine.execVfpFsub y x m b a d s
  | .vfpFmul y x m b a d => Sys2Proof.Machine.execVfpFmul y x m b a d s
  | .vfpFdiv y x m b a d => Sys2Proof.Machine.execVfpFdiv y x m b a d s
  | .vfpFsqrt x m a d => Sys2Proof.Machine.execVfpFsqrt x m a d s
  | .vfpFmin y x m b a d => Sys2Proof.Machine.execVfpFmin y x m b a d s
  | .vfpFmax y x m b a d => Sys2Proof.Machine.execVfpFmax y x m b a d s
  | .vfpFabs x m a d => Sys2Proof.Machine.execVfpFabs x m a d s
  | .vfpFneg x m a d => Sys2Proof.Machine.execVfpFneg x m a d s
  | .vfpFsgn y x m b a d => Sys2Proof.Machine.execVfpFsgn y x m b a d s
  | .vfpFrcp x m a d => Sys2Proof.Machine.execVfpFrcp x m a d s
  | .vfpFrsq x m a d => Sys2Proof.Machine.execVfpFrsq x m a d s
  | .vfpFexp2 x m a d => Sys2Proof.Machine.execVfpFexp2 x m a d s
  | .vfpGFadd y x m b a d => Sys2Proof.Machine.execVfpGFadd y x m b a d s
  | .vfpGFsub y x m b a d => Sys2Proof.Machine.execVfpGFsub y x m b a d s
  | .vfpGFmul y x m b a d => Sys2Proof.Machine.execVfpGFmul y x m b a d s
  | .vfpGFdiv y x m b a d => Sys2Proof.Machine.execVfpGFdiv y x m b a d s
  | .vfpGFsqrt x m a d => Sys2Proof.Machine.execVfpGFsqrt x m a d s
  | .vfpGFmin y x m b a d => Sys2Proof.Machine.execVfpGFmin y x m b a d s
  | .vfpGFmax y x m b a d => Sys2Proof.Machine.execVfpGFmax y x m b a d s
  | .vfpGFabs x m a d => Sys2Proof.Machine.execVfpGFabs x m a d s
  | .vfpGFneg x m a d => Sys2Proof.Machine.execVfpGFneg x m a d s
  | .vfpGFsgn y x m b a d => Sys2Proof.Machine.execVfpGFsgn y x m b a d s
  | .vfpGFrcp x m a d => Sys2Proof.Machine.execVfpGFrcp x m a d s
  | .vfpGFrsq x m a d => Sys2Proof.Machine.execVfpGFrsq x m a d s
  | .vfpGFexp2 x m a d => Sys2Proof.Machine.execVfpGFexp2 x m a d s
  | .vfmaFmadd m c b a d => Sys2Proof.Machine.execVfmaFmadd m c b a d s
  | .vfmaFmsub m c b a d => Sys2Proof.Machine.execVfmaFmsub m c b a d s
  | .vfmaFnmadd m c b a d => Sys2Proof.Machine.execVfmaFnmadd m c b a d s
  | .vfmaImadd m c b a d => Sys2Proof.Machine.execVfmaImadd m c b a d s
  | .vcmpEq y x m b a d => Sys2Proof.Machine.execVcmpEq y x m b a d s
  | .vcmpNe y x m b a d => Sys2Proof.Machine.execVcmpNe y x m b a d s
  | .vcmpLt y x m b a d => Sys2Proof.Machine.execVcmpLt y x m b a d s
  | .vcmpLe y x m b a d => Sys2Proof.Machine.execVcmpLe y x m b a d s
  | .vcmpLtu y x m b a d => Sys2Proof.Machine.execVcmpLtu y x m b a d s
  | .vcmpLeu y x m b a d => Sys2Proof.Machine.execVcmpLeu y x m b a d s
  | .vcmpFeq y x m b a d => Sys2Proof.Machine.execVcmpFeq y x m b a d s
  | .vcmpFlt y x m b a d => Sys2Proof.Machine.execVcmpFlt y x m b a d s
  | .vcmpFle y x m b a d => Sys2Proof.Machine.execVcmpFle y x m b a d s
  | .vcmpFun y x m b a d => Sys2Proof.Machine.execVcmpFun y x m b a d s
  | .vcmpGEq y x m b a d => Sys2Proof.Machine.execVcmpGEq y x m b a d s
  | .vcmpGNe y x m b a d => Sys2Proof.Machine.execVcmpGNe y x m b a d s
  | .vcmpGLt y x m b a d => Sys2Proof.Machine.execVcmpGLt y x m b a d s
  | .vcmpGLe y x m b a d => Sys2Proof.Machine.execVcmpGLe y x m b a d s
  | .vcmpGLtu y x m b a d => Sys2Proof.Machine.execVcmpGLtu y x m b a d s
  | .vcmpGLeu y x m b a d => Sys2Proof.Machine.execVcmpGLeu y x m b a d s
  | .vcmpGFeq y x m b a d => Sys2Proof.Machine.execVcmpGFeq y x m b a d s
  | .vcmpGFlt y x m b a d => Sys2Proof.Machine.execVcmpGFlt y x m b a d s
  | .vcmpGFle y x m b a d => Sys2Proof.Machine.execVcmpGFle y x m b a d s
  | .vcmpGFun y x m b a d => Sys2Proof.Machine.execVcmpGFun y x m b a d s
  | .mand y x b a d => Sys2Proof.Machine.execMand y x b a d s
  | .mor y x b a d => Sys2Proof.Machine.execMor y x b a d s
  | .mxor y x b a d => Sys2Proof.Machine.execMxor y x b a d s
  | .mnot x a d => Sys2Proof.Machine.execMnot x a d s
  | .mset d => Sys2Proof.Machine.execMset d s
  | .mclr d => Sys2Proof.Machine.execMclr d s
  | .mpop x a d => Sys2Proof.Machine.execMpop x a d s
  | .mfirst x a d => Sys2Proof.Machine.execMfirst x a d s
  | .rsum x m a d => Sys2Proof.Machine.execRsum x m a d s
  | .rmin x m a d => Sys2Proof.Machine.execRmin x m a d s
  | .rmax x m a d => Sys2Proof.Machine.execRmax x m a d s
  | .rand x m a d => Sys2Proof.Machine.execRand x m a d s
  | .ror x m a d => Sys2Proof.Machine.execRor x m a d s
  | .rxor x m a d => Sys2Proof.Machine.execRxor x m a d s
  | .rfsum x m a d => Sys2Proof.Machine.execRfsum x m a d s
  | .rfmin x m a d => Sys2Proof.Machine.execRfmin x m a d s
  | .rfmax x m a d => Sys2Proof.Machine.execRfmax x m a d s
  | .rany x m a d => Sys2Proof.Machine.execRany x m a d s
  | .rall x m a d => Sys2Proof.Machine.execRall x m a d s
  | .vcvt z fs r h x m b a d => Sys2Proof.Machine.execVcvt z fs r h x m b a d s
  | .slideup y x m b a d => Sys2Proof.Machine.execSlideup y x m b a d s
  | .slidedn y x m b a d => Sys2Proof.Machine.execSlidedn y x m b a d s
  | .perm y x m b a d => Sys2Proof.Machine.execPerm y x m b a d s
  | .compress x m a d => Sys2Proof.Machine.execCompress x m a d s
  | .expand x m a d => Sys2Proof.Machine.execExpand x m a d s
  | .zip y x m b a d => Sys2Proof.Machine.execZip y x m b a d s
  | .bcast y x m b a d => Sys2Proof.Machine.execBcast y x m b a d s
  | .merge y x m b a d => Sys2Proof.Machine.execMerge y x m b a d s
  | .trn x m a d => Sys2Proof.Machine.execTrn x m a d s
  | .vmemLd h m fs g v => Sys2Proof.Machine.execVmemLd h m fs g v s
  | .vmemSt h m fs g v => Sys2Proof.Machine.execVmemSt h m fs g v s
  | .vmemLds h m fs x g v => Sys2Proof.Machine.execVmemLds h m fs x g v s
  | .vmemSts h m fs x g v => Sys2Proof.Machine.execVmemSts h m fs x g v s
  | .vmemLdx h m fs x g v => Sys2Proof.Machine.execVmemLdx h m fs x g v s
  | .vmemStx h m fs x g v => Sys2Proof.Machine.execVmemStx h m fs x g v s
  | .vmemLdl h m fs g v => Sys2Proof.Machine.execVmemLdl h m fs g v s
  | .vmemStl h m fs g v => Sys2Proof.Machine.execVmemStl h m fs g v s
  | .vmemLdff h m fs g v => Sys2Proof.Machine.execVmemLdff h m fs g v s
  | .vmemAmoadd h m fs x g v => Sys2Proof.Machine.execVmemAmoadd h m fs x g v s
  | .vbr o p k => Sys2Proof.Machine.execVbr o p k s
  | .vbrNot o p k => Sys2Proof.Machine.execVbrNot o p k s
  | .vend => Sys2Proof.Machine.execVend s
  | .vjoin => Sys2Proof.Machine.execVjoin s
  | .vnop => Sys2Proof.Machine.execVnop s
  | .accRd x a d => Sys2Proof.Machine.execAccRd x a d s
  | .accWr y x b a => Sys2Proof.Machine.execAccWr y x b a s
  | .accClr x a => Sys2Proof.Machine.execAccClr x a s
  | .cpLay y x b a c => Sys2Proof.Machine.execCpLay y x b a c s
  | .cpArr y x b a c => Sys2Proof.Machine.execCpArr y x b a c s
  | .cpGo y x b a c => Sys2Proof.Machine.execCpGo y x b a c s
  | .cpWm a c => Sys2Proof.Machine.execCpWm a c s
  | .cpWait c => Sys2Proof.Machine.execCpWait c s
  | .cpStop c => Sys2Proof.Machine.execCpStop c s
  | .cpStat a c => Sys2Proof.Machine.execCpStat a c s
  | .copyAccept h c => Sys2Proof.Machine.execCopyAccept h c s
  | .copyElement h c j => Sys2Proof.Machine.execCopyElement h c j s
  | .copyComplete h c => Sys2Proof.Machine.execCopyComplete h c s
  | .tkPost x a d => Sys2Proof.Machine.execTkPost x a d s
  | .tkStat x a d => Sys2Proof.Machine.execTkStat x a d s
  | .tkCancel x a d => Sys2Proof.Machine.execTkCancel x a d s
  | .taskIssue e k => Sys2Proof.Machine.execTaskIssue e k s
  | .taskComplete q n => Sys2Proof.Machine.execTaskComplete q n s
  | .taskAging q n => Sys2Proof.Machine.execTaskAging q n s
  | .evSig y x b a d => Sys2Proof.Machine.execEvSig y x b a d s
  | .evWait y x b a d => Sys2Proof.Machine.execEvWait y x b a d s
  | .evRd x a d => Sys2Proof.Machine.execEvRd x a d s
  | .evSet y x b a d => Sys2Proof.Machine.execEvSet y x b a d s
  | .eventUpdateApply h n => Sys2Proof.Machine.execEventUpdateApply h n s
  | .nbGo x a d => Sys2Proof.Machine.execNbGo x a d s
  | .nbStat x a d => Sys2Proof.Machine.execNbStat x a d s
  | .nbStop x a => Sys2Proof.Machine.execNbStop x a s
  | .nbJobStart u => Sys2Proof.Machine.execNbJobStart u s
  | .nqPush x a q => Sys2Proof.Machine.execNqPush x a q s
  | .nqPop q d => Sys2Proof.Machine.execNqPop q d s
  | .nbSafe => Sys2Proof.Machine.execNbSafe s
  | .nbMc x b a d => Sys2Proof.Machine.execNbMc x b a d s
  | .nqLoadFill u n => Sys2Proof.Machine.execNqLoadFill u n s
  | .nbJobEnd u => Sys2Proof.Machine.execNbJobEnd u s
  | .nbProgressWatchdog u => Sys2Proof.Machine.execNbProgressWatchdog u s
  | .nbSafePointWatchdog u => Sys2Proof.Machine.execNbSafePointWatchdog u s
  | .channelResetComplete u => Sys2Proof.Machine.execChannelResetComplete u s
  | .dramRefreshDue x => Sys2Proof.Machine.execDramRefreshDue x s
  | .lpMark y x b a => Sys2Proof.Machine.execLpMark y x b a s
  | .lpIter k => Sys2Proof.Machine.execLpIter k s
  | .lpEnd d => Sys2Proof.Machine.execLpEnd d s
  | .lpStat d => Sys2Proof.Machine.execLpStat d s
  | .templateVerdict h => Sys2Proof.Machine.execTemplateVerdict h s
  | .replayIteration h => Sys2Proof.Machine.execReplayIteration h s
  | .replayDeparture h d => Sys2Proof.Machine.execReplayDeparture h d s
  | .replayComplete h => Sys2Proof.Machine.execReplayComplete h s
  | .jrRec y x b a d => Sys2Proof.Machine.execJrRec y x b a d s
  | .jrGate y x b a d => Sys2Proof.Machine.execJrGate y x b a d s
  | .jrDur x a d => Sys2Proof.Machine.execJrDur x a d s
  | .jrTrunc y x b a d => Sys2Proof.Machine.execJrTrunc y x b a d s
  | .jrRead y x b a d => Sys2Proof.Machine.execJrRead y x b a d s
  | .journalAck j n => Sys2Proof.Machine.execJournalAck j n s
  | .mirrorRecordWrite p j n r => Sys2Proof.Machine.execMirrorRecordWrite p j n r s
  | .truncationAck h j => Sys2Proof.Machine.execTruncationAck h j s
  | .plHash y x b a d => Sys2Proof.Machine.execPlHash y x b a d s
  | .plBind x a d => Sys2Proof.Machine.execPlBind x a d s
  | .plSend x a d => Sys2Proof.Machine.execPlSend x a d s
  | .plRecv x a d => Sys2Proof.Machine.execPlRecv x a d s
  | .plEnd x a d => Sys2Proof.Machine.execPlEnd x a d s
  | .plStat x a d => Sys2Proof.Machine.execPlStat x a d s
  | .go y x b a d => Sys2Proof.Machine.execGo y x b a d s
  | .gq x a d => Sys2Proof.Machine.execGq x a d s
  | .launchDoorbell l v => Sys2Proof.Machine.execLaunchDoorbell l v s
  | .dbstatWrite l v => Sys2Proof.Machine.execDbstatWrite l v s
  | .launchHeadCheck l => Sys2Proof.Machine.execLaunchHeadCheck l s
  | .placeLaunch => Sys2Proof.Machine.execPlaceLaunch s
  | .lqcfgWrite h l v => Sys2Proof.Machine.execLqcfgWrite h l v s
  | .trapEntry h => Sys2Proof.Machine.execTrapEntry h s
  | .preqRequest h v => Sys2Proof.Machine.execPreqRequest h v s
  | .preqResume h v => Sys2Proof.Machine.execPreqResume h v s
  | .ximgSave h v => Sys2Proof.Machine.execXimgSave h v s
  | .xldLoad h v => Sys2Proof.Machine.execXldLoad h v s
  | .cparkOffer h v => Sys2Proof.Machine.execCparkOffer h v s
  | .flagRestoreWrite h n v => Sys2Proof.Machine.execFlagRestoreWrite h n v s
  | .vectorShapeWrite h n v => Sys2Proof.Machine.execVectorShapeWrite h n v s
  | .protWrite h v => Sys2Proof.Machine.execProtWrite h v s
  | .evbaseWrite h v => Sys2Proof.Machine.execEvbaseWrite h v s
  | .accpsnWrite h v => Sys2Proof.Machine.execAccpsnWrite h v s
  | .jrcfgWrite h v => Sys2Proof.Machine.execJrcfgWrite h v s
  | .jrcandWrite h n v => Sys2Proof.Machine.execJrcandWrite h n v s
  | .ltermWrite h v => Sys2Proof.Machine.execLtermWrite h v s
  | .rtcoreWrite h v => Sys2Proof.Machine.execRtcoreWrite h v s
  | .rtqPop h => Sys2Proof.Machine.execRtqPop h s
  | .rtmigGo h v => Sys2Proof.Machine.execRtmigGo h v s
  | .rtmigEnd h v => Sys2Proof.Machine.execRtmigEnd h v s
  | .migrationGranule => Sys2Proof.Machine.execMigrationGranule s
  | .elstatClear h v => Sys2Proof.Machine.execElstatClear h v s
  | .pmcWrite h n v => Sys2Proof.Machine.execPmcWrite h n v s
  | .energyWrite h v => Sys2Proof.Machine.execEnergyWrite h v s
  | .smpcfgWrite h n v => Sys2Proof.Machine.execSmpcfgWrite h n v s
  | .sampleTraceAcquireRead h n => Sys2Proof.Machine.execSampleTraceAcquireRead h n s
  | .sampleRecordWrite h => Sys2Proof.Machine.execSampleRecordWrite h s
  | .traceRecordWrite h => Sys2Proof.Machine.execTraceRecordWrite h s
  | .stopFire h => Sys2Proof.Machine.execStopFire h s
  | .genericRegisterWrite h n v => Sys2Proof.Machine.execGenericRegisterWrite h n v s
  | .registerParityReplay h r => Sys2Proof.Machine.execRegisterParityReplay h r s
  | .laneReexecute h r e => Sys2Proof.Machine.execLaneReexecute h r e s
  | .protectedModeMismatch h e => Sys2Proof.Machine.execProtectedModeMismatch h e s
  | .scrubRead l a => Sys2Proof.Machine.execScrubRead l a s
  | .l2EvictionPoison a => Sys2Proof.Machine.execL2EvictionPoison a s
  | .cxlMemRequest a w n => Sys2Proof.Machine.execCxlMemRequest a w n s
  | .hostSnoop a => Sys2Proof.Machine.execHostSnoop a s
  | .cxlIdeFailure => Sys2Proof.Machine.execCxlIdeFailure s
  | .flitReceive p r => Sys2Proof.Machine.execFlitReceive p r s
  | .peerMessageReceive p k x y z r => Sys2Proof.Machine.execPeerMessageReceive p k x y z r s
  | .keyEpochChange p => Sys2Proof.Machine.execKeyEpochChange p s
  | .idleFlitSend p => Sys2Proof.Machine.execIdleFlitSend p s
  | .portLivenessExpiry p => Sys2Proof.Machine.execPortLivenessExpiry p s
  | .portTrainUp p n w => Sys2Proof.Machine.execPortTrainUp p n w s
  | .inboundRequest p k a n r => Sys2Proof.Machine.execInboundRequest p k a n r s
  | .remoteResponse h n k => Sys2Proof.Machine.execRemoteResponse h n k s
  | .powerOnReset k n v r => Sys2Proof.Machine.execPowerOnReset k n v r s
  | .stackTraining x k => Sys2Proof.Machine.execStackTraining x k s
  | .fullServiceEntry => Sys2Proof.Machine.execFullServiceEntry s
  | .quote r => Sys2Proof.Machine.execQuote r s
  | .pubkeys => Sys2Proof.Machine.execPubkeys s
  | .keyload v w r => Sys2Proof.Machine.execKeyload v w r s
  | .keyclr v => Sys2Proof.Machine.execKeyclr v s
  | .extend v r => Sys2Proof.Machine.execExtend v r s
  | .event => Sys2Proof.Machine.execEvent s
  | .reply n a => Sys2Proof.Machine.execReply n a s
  | .state => Sys2Proof.Machine.execState s
  | .hostAssistEvent k => Sys2Proof.Machine.execHostAssistEvent k s
  | .powerThrottle => Sys2Proof.Machine.execPowerThrottle s
  | .tlbInvalidationComplete n => Sys2Proof.Machine.execTlbInvalidationComplete n s
  | .hostLinkTrained w => Sys2Proof.Machine.execHostLinkTrained w s
  | .unknownMailboxCode v => Sys2Proof.Machine.execUnknownMailboxCode v s
  | .counterOverflow c n => Sys2Proof.Machine.execCounterOverflow c n s
  | .drawBelowLimit => Sys2Proof.Machine.execDrawBelowLimit s

end Sys2Proof.Machine
end

