-- ==== Sys2Proof/Machine/Fetch.lean ====
section
/-!
DEFINITION. What an agent does before it executes: it takes a pending asynchronous cause, or it fetches its next word
(R92, R103, R152, R262, R333, R429).
-/
namespace Sys2Proof.Machine

/-- What an agent does next: it rests in a state, or it runs a word. -/
inductive Ready where
  | rest (s : State)
  | run (w : BitVec 32) (s : State)

/-- A demonstrating hart executes nothing beyond an unconfirmed branch in this model: speculation is never forced, and
what a wrong path executes belongs to no iteration (R106, R281; assumption 24). -/
def Hart.demoHolds (H : Hart) (w : Nat) : Bool :=
  H.loop.st == 1 && !H.checks.isEmpty && !(w % 128 == 0x20 || w % 128 == 0x21 || w % 128 == 0x22)

/-- A stream of a hart whose fault the host serves rests until it has answered, and takes the cause answered; one at vpc, of an
instruction that has not been dispatched, is a fault of the vector fetch (R422, R429). -/
def served (h k : Nat) (s : State) (go : Ready) : Ready :=
  serveHost (streamAgent h k) s (.rest s)
    (fun c v t => .rest (
      if (s.hart h).trapWaits then s
      else
        let t1 := takeTrap h c v (trapInfo k 0) false t
        if k = 1 ∧ v = (s.hart h).vec.vpc ∧ (s.hart h).vec.begun = none then noElement h s t1 else t1)) go

/-- The scalar stream of a hart: an asynchronous cause at the boundary, or the word at pc. A waiting hart stands at the
instruction it waits in, and tries it again (R92, R333, R429). On an unconfirmed path a fetch that would mark a page table
entry, or make a replay depart, waits (R107). -/
def prepareScalar (h : Nat) (s : State) : Ready :=
  let H := s.hart h
  match H.status with
  | .idle => .rest s
  | .retired => .rest s
  | _ =>
    match H.pendingAsync with
    | some a => .rest (takeAsync h a s)
    | none => served h 0 s <|
      if H.pc.toNat % 4 ≠ 0 then .rest (scalarTrap h 0x04 H.pc false s)
      else
        match fetchWord h H.pc s with
        | .trap c t s1 => if H.settled then .rest (scalarTrap h c t false s1) else .rest s
        | .ok w s1 =>
          if H.demoHolds w || (!H.settled && (s1.mm.cells != s.mm.cells || s1.walkConflicts)) then .rest s else .run (BitVec.ofNat 32 w) s1

/-- The block instance of a hart: the word that stands dispatched with elements still to do, or the word at vpc, which lies at a
multiple of 4 (R9, R152, R159, R429). While the hart owes a machine check its vector stream is held (R397, R398). -/
def prepareVector (h : Nat) (s : State) : Ready :=
  let V := (s.hart h).vec
  if V.inst.isNone || (s.hart h).mcheck.isSome then .rest s
  else served h 1 s <|
    match V.begun with
    | some w => .run w s
    | none =>
      if V.vpc.toNat % 4 ≠ 0 then .rest (dispatchTrap h 0x04 V.vpc s)
      else
        match fetchWord h V.vpc s with
        | .trap c t s1 => .rest (dispatchTrap h c t s1)
        | .ok w s1 => .run (BitVec.ofNat 32 w) s1

/-- The word is a vblk (R31, R164). -/
def isVblk (w : BitVec 32) : Bool := bits w 0 7 == 0x3E

/-- The queue of a hart: the class Q entry at its head (R104, R152). A vblk at the head begins by an event. While the hart owes a
machine check its queue is held (R398). -/
def prepareQueue (h : Nat) (s : State) : Ready :=
  let H := s.hart h
  match H.headEntry with
  | none => .rest s
  | some e => if H.vec.inst.isSome || isVblk e.word || H.mcheck.isSome then .rest s else served h 2 s (.run e.word s)

/-- A thread of the running job of a near-bank unit: its next word; a thread that runs past its code ends the job
(R262, R263). -/
def prepareNear (u : Nat) (x : Bool) (s : State) : Ready :=
  match (s.unit u).running with
  | none => .rest s
  | some J =>
    if (J.thread x).halted then .rest s
    else if (s.assistOf (nearAgent u)).isSome then
      .rest (serveHost (nearAgent u) s s (fun c _ t => nearEnd u c t) s)
    else
      match J.code[(J.thread x).pc]? with
      | none => .rest (nearEnd u 0x01 s)
      | some w => .run w s

/-- What an agent does next. -/
def prepare (a : Agent) (s : State) : Ready :=
  match a with
  | .scalar h => prepareScalar h s
  | .vector h => prepareVector h s
  | .queue h => prepareQueue h s
  | .nearBank u x => prepareNear u x s

/-- The device has the agent: 1,024 harts and 512 near-bank units (R2). -/
def Agent.present : Agent → Bool
  | .scalar h => decide (h < 1024)
  | .vector h => decide (h < 1024)
  | .queue h => decide (h < 1024)
  | .nearBank u _ => decide (u < 512)

end Sys2Proof.Machine
end

