-- ==== Sys2Proof/Machine/Step.lean ====
section
/-!
DEFINITION. One step of the machine: the next turn of the agenda, or the acting agent's next word (assumption 1).
-/
namespace Sys2Proof.Machine

/-- A vector instruction that has come to further elements and has not completed stands dispatched: its word is not fetched again
(R153, R175, R179). -/
def noteBegun (h : Nat) (w : BitVec 32) (s t : State) : State :=
  let V := (s.hart h).vec
  let K := t.hart h
  if K.vec.inst.isSome && K.vec.vpc == V.vpc && K.vec.estart != V.estart then
    t.setHart h { K with vec := { K.vec with begun := some w } }
  else t

/-- Behind a word of an agent, s1 being the state before it: a demonstrating hart notes what it has executed, and a vector
instruction whether it has begun (R175, R281). -/
def afterWord (a : Agent) (w : BitVec 32) (s1 : State) (o : Host.Outcome State Fault Refusal) :
    Host.Outcome State Fault Refusal :=
  match a, o with
  | .scalar h, .next t => .next (noteDemo h w.toNat s1 t)
  | .vector h, .next t => .next (noteBegun h w s1 t)
  | _, _ => o

/-- Behind every step that began in s: replays depart that the walkers and fetches of the step have conflicted with (R286), mirror
entries whose V has been cleared may be written again (R392), and what the harts have done is counted (R406, R408). -/
def afterStep (s : State) (o : Host.Outcome State Fault Refusal) : Host.Outcome State Fault Refusal :=
  match o with
  | .next t => .next (countStep s (reopenMirrors (departWalked t)))
  | _ => o

/-- An agent prepares and runs its next word; a word that is no instruction is illegal (R42). Before the ROM is done no agent
acts (R414). -/
noncomputable def runAgent (a : Agent) (s : State) : Host.Outcome State Fault Refusal :=
  if !a.present then .fault .noSuchAgent
  else if s.trust.bstSt = 1 then .next s
  else
    match prepare a s with
    | .rest s1 => .next s1
    | .run w s1 =>
      match decode w with
      | .error _ => .next (wrongClass w.toNat s1)
      | .ok i => afterWord a w s1 (exec i s1)

/-- The event that runs the ROM (R414). -/
def isReset : Instr → Bool
  | .powerOnReset _ _ _ _ => true
  | _ => false

/-- An event occurs, when it names agents and ranges the device has; before the ROM is done only a reset does (R414). -/
noncomputable def runEvent (i : Instr) (s : State) : Host.Outcome State Fault Refusal :=
  if i.hasWord then .fault .illFormedEvent
  else if i.wellFormed then (if s.trust.bstSt = 1 && !isReset i then .next s else exec i s)
  else .fault .illFormedEvent

/-- The state in which a turn begins. -/
def State.begins (s : State) : State :=
  { s with steps := s.steps + 1, limit := none, blocked := false, wrote := [], walked := [], agenda := s.agenda.drop 1 }

/-- The next turn of the agenda, or the acting agent. -/
noncomputable def turn (s : State) : Host.Outcome State Fault Refusal :=
  let s0 := s.begins
  match s.agenda with
  | [] => runAgent s.agent s0
  | .event i :: _ => runEvent i s0
  | .run a :: _ => runAgent a { s0 with agent := a }
  | .sweep h e :: _ => runAgent (.vector h) { s0 with agent := .vector h, limit := some e }
  | .perform h n :: _ => if h < 1024 then .next (performTurn h n s0) else .fault .noSuchAgent
  | .down p :: _ => .next (portDown p s0)
  | .element h n j :: _ => if h < 1024 then .next (elementTurn h n j s0) else .fault .noSuchAgent
  | .mailbox :: _ => .next (mailboxTurn s0)
  | .answer h n :: _ => if h < 1024 then .next (answerTurn h n s0) else .fault .noSuchAgent

/-- A turn that has met a bank of a channel in reset, a slot that a key command changes, or an exception that waits for older
producers: what acts waits, and the turn has passed (R273, R334, R420; assumption 21). -/
def waitBanks (s : State) (o : Host.Outcome State Fault Refusal) : Host.Outcome State Fault Refusal :=
  match o with
  | .next t => .next (if t.blocked then { s.begins with agent := t.agent, free := t.free } else t)
  | _ => o

/-- One step. -/
noncomputable def step (s : State) : Host.Outcome State Fault Refusal := afterStep s (waitBanks s (turn s))

/-! ## A state whose next step fetches a given word -/

/-- The context table and the page tables of context 0, with one 4 KiB page at virtual address 0x10000, readable,
writable and executable, at physical address 0x200000 (R212, R213), and the word there. -/
def fetchCells (v : Nat) (cells : List Host.Cell) : List Host.Cell :=
  [ (0x100000, 0x101000), (0x100008, 1), (0x100010, 0), (0x100018, 0),
    (0x101000, 0x102001), (0x102000, 0x103001), (0x103000, 0x104001), (0x104000, 0x105001),
    (0x105080, 0x20003B) ].foldl (fun (c : List Host.Cell) (e : Nat × Nat) => writeLE c e.1 8 e.2) (writeLE cells 0x200000 4 v)

/-- A launch of one hart, on slot 0 of core 0, whose code is memory as it stands (R103). -/
def fetchLaunch (cells : List Host.Cell) : Launch where
  record := 0
  ctx := 0
  level := 1
  cores := [(0, 0)]
  harts := [0]
  live := [0]
  groups := []
  slots := []
  parked := []
  order := 0
  ending := false
  queue := 0
  owed := []
  causes := []
  pipe := none
  code := cells
  codeSeals := []

/-- The hart that stands at the word: running, with nothing pending that it would take first. -/
def Hart.atWord (H : Hart) : Hart :=
  { H with
    status := .running
    pc := 0x10000
    checks := []
    loadTraps := []
    mcheck := none
    taskFaults := []
    handBack := none
    trap := { H.trap with prq := false }
    place := { H.place with lctx := 0, launch := 0 } }

/-- Its block instance at the word, every element on the path. -/
def Hart.instanceAtWord (H : Hart) : Hart :=
  { H with vec := { H.vec with
    vpc := 0x10000
    estart := 0
    inst := some ⟨BitVec.allOnes 16384, [], 0, 0, 0, [], none⟩ } }

/-- A near-bank job whose address thread stands at the word. -/
def jobAtWord (v : Nat) : NbJob where
  desc := 0
  seq := 0
  ctx := 0
  level := 0
  hart := 0
  launch := 0
  ticket := ⟨0, 0⟩
  started := true
  parked := false
  code := [BitVec.ofNat 32 v]
  a := { regs := ScalarRegs.initial, pc := 0, halted := false }
  x := { regs := ScalarRegs.initial, pc := 0, halted := false }
  w := Vector.replicate 16 0
  fmt := 0
  flags := 0
  loads := []
  stores := []
  pushed := 0
  stop := false
  endCode := none

/-- Memory, launch 0 and hart 0 around a word at the virtual address 0x10000, in full service. -/
def State.placeWord (s : State) (v : Nat) : State :=
  let cells := fetchCells v s.mm.cells
  let s1 := { s with
    agent := .scalar 0
    agenda := []
    mm := { s.mm with cells := cells, tlb := [], ptrs := [], ctxs := [] }
    launch := { s.launch with resident := tput s.launch.resident 0 (fetchLaunch cells) }
    trust := { s.trust with ctxbase := 0x100000, bstSt := 3 } }
  s1.setHart 0 (s1.hart 0).atWord

/-- s with the instruction w where its next step fetches: by a hart's scalar stream, by its block instance for a class V
word, by a near-bank thread for a class N word (R18). -/
noncomputable def State.withFetchWord (s : State) (nbits w : Nat) : State :=
  let v := w % 2 ^ nbits
  let s1 := s.placeWord v
  match decode (BitVec.ofNat 32 v) with
  | .error _ => s1
  | .ok i =>
    match i.cls with
    | .V => { s1.setHart 0 (s1.hart 0).instanceAtWord with agent := .vector 0 }
    | .N => { s1.setUnit 0 { s1.unit 0 with jobs := [jobAtWord v] } with agent := .nearBank 0 false }
    | _ => s1

end Sys2Proof.Machine
end

