-- ==== Sys2Proof/Safety.lean ====
section
/-!
DEFINITION. What counts as a safe run, and the terms in which claims speak: who acts, which registers are full, what the
next state of a completed instruction is.
-/
namespace Sys2Proof.Machine

/-! ## Safe runs -/

/-- An outcome is safe when the machine goes on: it neither stops with a fault nor is refused. -/
def Safe (o : Out) : Prop := ∃ t, o = .next t

/-! ## Conditions on a hart -/

/-- The scalar registers and condition bits named are full: none waits for a producer (R101, R102). -/
def Hart.full (H : Hart) (ss : List (BitVec 5)) (ks : List (BitVec 3)) : Prop :=
  (∀ r ∈ ss, H.regs.isEmptyS r = false) ∧ ∀ k ∈ ks, H.regs.isEmptyK k = false

/-- The running job of a near-bank unit is J and its thread t has not halted (R261). -/
def State.threadOf (s : State) (u : Nat) (t : Bool) (J : NbJob) : Prop :=
  (s.unit u).running = some J ∧ (J.thread t).halted = false

/-- No other hart replays, and no channel is in reset: nothing befalls an access of hart own (R273, R286). -/
def State.undisturbed (s : State) (own : Option Nat) : Prop :=
  (∀ e ∈ s.harts, own ≠ some e.1 → e.2.loop.st ≠ 3) ∧ s.resetting = false

/-! ## Next states -/

/-- s after a scalar instruction of hart h that leaves the hart as H, standing at the next word, with one instruction more for its
counters (R406). -/
def State.moved (s : State) (h : Nat) (H : Hart) : State :=
  s.setHart h { H with pc := H.pc + 4, status := .running, regs := { H.regs with ran := H.regs.ran + 1 } }

/-- s after an instruction of thread t of job J that leaves its registers as R, standing at the next word (R262). -/
def State.threadMoved (s : State) (u : Nat) (t : Bool) (J : NbJob) (R : ScalarRegs) : State :=
  s.putJob u (J.setThread t { J.thread t with regs := R, pc := (J.thread t).pc + 1 })

end Sys2Proof.Machine
end

