-- ==== Sys2Proof/Certificates/Slice0/Obligations.lean ====
section
/-!
DEFINITION. The statements for the provers.
-/
open Sys2Proof Sys2Proof.Machine

/-! ## What an exception leaves (R332 to R341) -/

/-- What taking an exception leaves of hart H: the record of R336, level 1, the handler's address, every register full,
the block instance frozen with its vpc, estart and g; the values of the registers and the vector state as they were. A
demonstration ends on the hart with DEP 4 or 6, and a verdict it awaited answers 0 (R279, R281). -/
def Claims.Entered (H H' : Hart) (cause : Nat) (tval info tpc : Word) : Prop :=
  let D := H.breachDemo (if cause = 0x11 then 4 else 6)
  H'.pc = H.trap.tvec ∧ H'.status = .running ∧ H'.plev = 1 ∧ H'.trap.tpc = tpc ∧
  H'.trap.tcause = BitVec.ofNat 8 cause ∧ H'.trap.tval = tval ∧ H'.trap.tinfo = info ∧ H'.trap.ppl = H.plev ∧
  H'.trap.ts = true ∧ H'.trap.tfe = D.regs.empty ∧ H'.regs.empty = 0 ∧ H'.regs.s = H.regs.s ∧ H'.regs.k = D.regs.k ∧
  H'.loop = D.loop ∧
  H'.regs.fst = H.regs.fst ∧ H'.regs.srctr = H.regs.srctr ∧ H'.frm = H.frm ∧
  H'.trap.vf = (H.vec.inst.isSome || !H.vec.queue.isEmpty) ∧ H'.trap.tva = H.vec.inst.isSome ∧
  H'.vec.frozen = H.vec.inst ∧ H'.vec.inst = none ∧ H'.vec.queue = H.vec.queue ∧
  (H.vec.inst ≠ none → H'.trap.tvpc = H.vec.vpc ∧ H'.trap.telem = H.vec.estart ∧ H'.trap.tg = H.vec.g) ∧
  H'.vec.v = H.vec.v ∧ H'.vec.m = H.vec.m ∧ H'.vec.len = H.vec.len ∧ H'.vec.rows = H.vec.rows ∧ H'.vec.fmt = H.vec.fmt ∧
  H'.trap.tvec = H.trap.tvec ∧ H'.trap.tscratch = H.trap.tscratch ∧ H'.streams = H.streams ∧ H'.chans = H.chans ∧
  H'.binds = H.binds ∧ H'.mcheck = H.mcheck ∧ H'.handBack = H.handBack ∧ H'.taskFaults = H.taskFaults ∧
  H'.loadTraps = H.loadTraps ∧ H'.trap.prq = H.trap.prq

/-- The outcome o: from s hart h takes an exception, with the vector accesses that it has dispatched performed, out of the event
that it may wait in, and with nothing more asked of the host (R307, R334 to R337, R341). -/
def Claims.Enters (s : State) (h cause : Nat) (tval info tpc : Word) (o : Host.Outcome State Fault Refusal) : Prop :=
  ∃ H', o = .next ((leaveWait h s).setHart h H') ∧ Claims.Entered ((leaveWait h s).hart h) H' cause tval info tpc

/-- A hart that may take an exception now: no branch unconfirmed, nothing that entry waits for (R334), not in a trap. -/
def Claims.mayTrap (H : Hart) : Prop := H.settled = true ∧ H.trapWaits = false ∧ H.trap.ts = false

/-! ## The scalar integer instructions (R109 to R113) -/

/-- Two-source integer instructions and the function that each computes (R109). The products are taken exactly and
narrowed; a zero divisor gives all ones or the dividend. -/
def Claims.intPairs : List ((BitVec 1 → BitVec 1 → BitVec 5 → BitVec 5 → BitVec 5 → Instr) × (Word → Word → Word)) :=
  [ (.add, fun u v => u + v), (.sub, fun u v => u - v), (.and, fun u v => u &&& v), (.or, fun u v => u ||| v),
    (.xor, fun u v => u ^^^ v),
    (.sll, fun u v => u <<< (v.toNat % 64)), (.srl, fun u v => u >>> (v.toNat % 64)),
    (.sra, fun u v => u.sshiftRight (v.toNat % 64)),
    (.mul, fun u v => u * v),
    (.mulh, fun u v => BitVec.ofInt 64 (u.toInt * v.toInt / 2 ^ 64)),
    (.mulhu, fun u v => BitVec.ofInt 64 ((u.toNat : Int) * v.toNat / 2 ^ 64)),
    (.div, fun u v => if v = 0 then BitVec.allOnes 64 else BitVec.ofInt 64 (u.toInt.tdiv v.toInt)),
    (.divu, fun u v => if v = 0 then BitVec.allOnes 64 else BitVec.ofNat 64 (u.toNat / v.toNat)),
    (.rem, fun u v => if v = 0 then u else BitVec.ofInt 64 (u.toInt.tmod v.toInt)),
    (.remu, fun u v => if v = 0 then u else BitVec.ofNat 64 (u.toNat % v.toNat)),
    (.min, fun u v => if u.toInt ≤ v.toInt then u else v), (.max, fun u v => if u.toInt ≤ v.toInt then v else u),
    (.minu, fun u v => if u.toNat ≤ v.toNat then u else v), (.maxu, fun u v => if u.toNat ≤ v.toNat then v else u) ]

/-- One-source integer instructions, the immediates applied, and the function that each computes (R109, R110). -/
def Claims.intSingles (i : BitVec 14) (n : BitVec 6) :
    List ((BitVec 1 → BitVec 5 → BitVec 5 → Instr) × (Word → Word)) :=
  [ (.clz, fun u => BitVec.ofNat 64 (leadingZeros u.toNat 64)), (.ctz, fun u => BitVec.ofNat 64 (trailingZeros u.toNat 64)),
    (.pop, fun u => BitVec.ofNat 64 (onesIn u.toNat 64)),
    (.addi i, fun u => u + i.signExtend 64), (.andi i, fun u => u &&& i.signExtend 64),
    (.ori i, fun u => u ||| i.signExtend 64), (.xori i, fun u => u ^^^ i.signExtend 64),
    (.slli n, fun u => u <<< n.toNat), (.srli n, fun u => u >>> n.toNat), (.srai n, fun u => u.sshiftRight n.toNat) ]

/-- add, sub, and, or, xor, sll, srl, sra, mul, mulh, mulhu, div, divu, rem, remu, min, max, minu and maxu complete
whenever their registers are full, writing s[d] and nothing else (R109); rng likewise, with the value of limlor. On a
near-bank thread, whose registers are never empty, they complete always (R261). -/
def Claims.IntegerPairsComplete : Prop :=
  (∀ (s : State) (h : Nat) (y x : BitVec 1) (b a d : BitVec 5), s.agent = .scalar h → (s.hart h).full [a, b, d] [] →
    (∀ e ∈ Claims.intPairs, exec (e.1 y x b a d) s =
      .next (s.moved h ((s.hart h).putS d (e.2 ((s.hart h).regs.readS a) ((s.hart h).regs.readS b))))) ∧
    exec (.rng y x b a d) s =
      .next (s.moved h ((s.hart h).putS d (limlor ((s.hart h).regs.readS a) ((s.hart h).regs.readS b))))) ∧
  ∀ (s : State) (u : Nat) (t : Bool) (J : NbJob) (y x : BitVec 1) (b a d : BitVec 5), s.agent = .nearBank u t →
    s.threadOf u t J → ∀ e ∈ Claims.intPairs, exec (e.1 y x b a d) s =
      .next (s.threadMoved u t J
        ((J.thread t).regs.writeS d (e.2 ((J.thread t).regs.readS a) ((J.thread t).regs.readS b))))

/-- clz, ctz, pop, addi, andi, ori, xori, slli, srli and srai complete whenever their registers are full, writing s[d]
and nothing else; lui and adr write a shifted immediate, adr added to pc (R109 to R111). All but adr do the same on a
near-bank thread. -/
def Claims.IntegerSinglesComplete : Prop :=
  (∀ (s : State) (h : Nat) (i : BitVec 14) (n : BitVec 6) (x : BitVec 1) (a d : BitVec 5), s.agent = .scalar h →
    (s.hart h).full [a, d] [] → ∀ e ∈ Claims.intSingles i n, exec (e.1 x a d) s =
      .next (s.moved h ((s.hart h).putS d (e.2 ((s.hart h).regs.readS a))))) ∧
  (∀ (s : State) (h : Nat) (i : BitVec 20) (d : BitVec 5), s.agent = .scalar h → (s.hart h).full [d] [] →
    exec (.lui i d) s = .next (s.moved h ((s.hart h).putS d (i.signExtend 64 <<< 14))) ∧
    exec (.adr i d) s = .next (s.moved h ((s.hart h).putS d ((s.hart h).pc + i.signExtend 64 <<< 14)))) ∧
  ∀ (s : State) (u : Nat) (t : Bool) (J : NbJob) (i : BitVec 14) (n : BitVec 6) (j : BitVec 20) (x : BitVec 1)
    (a d : BitVec 5), s.agent = .nearBank u t → s.threadOf u t J →
    (∀ e ∈ Claims.intSingles i n, exec (e.1 x a d) s =
      .next (s.threadMoved u t J ((J.thread t).regs.writeS d (e.2 ((J.thread t).regs.readS a))))) ∧
    exec (.lui j d) s = .next (s.threadMoved u t J ((J.thread t).regs.writeS d (j.signExtend 64 <<< 14)))

/-- The scalar integer instructions (R109 to R111, R261). -/
def Obligations.IntegersComplete : Prop := Claims.IntegerPairsComplete ∧ Claims.IntegerSinglesComplete

/-- The relations of cmp (R112). -/
def Claims.compares : List ((BitVec 1 → BitVec 1 → BitVec 5 → BitVec 5 → BitVec 3 → Instr) × (Word → Word → Bool)) :=
  [ (.cmpEq, fun u v => u == v), (.cmpNe, fun u v => u != v), (.cmpLt, fun u v => decide (u.toInt < v.toInt)),
    (.cmpLtu, fun u v => decide (u.toNat < v.toNat)) ]

/-- The relations of cmpi, between a register and the sign-extended immediate (R112). -/
def Claims.compareImmediates : List ((BitVec 14 → BitVec 1 → BitVec 5 → BitVec 3 → Instr) × (Word → Word → Bool)) :=
  [ (.cmpiEq, fun u v => u == v), (.cmpiNe, fun u v => u != v), (.cmpiLt, fun u v => decide (u.toInt < v.toInt)),
    (.cmpiLtu, fun u v => decide (u.toNat < v.toNat)) ]

/-- The two-source condition-bit operations (R113). -/
def Claims.bitPairs : List ((BitVec 1 → BitVec 1 → BitVec 3 → BitVec 3 → BitVec 3 → Instr) × (Bool → Bool → Bool)) :=
  [ (.kand, fun u v => u && v), (.kor, fun u v => u || v), (.kxor, fun u v => u ^^ v) ]

/-- Compares and condition-bit operations complete whenever their registers are full, writing one condition bit, or s[d]
for kget, and nothing else (R112, R113); on a near-bank thread they complete always. -/
def Obligations.ConditionBitsComplete : Prop :=
  (∀ (s : State) (h : Nat) (y x : BitVec 1) (b a : BitVec 5) (k : BitVec 3) (i : BitVec 14), s.agent = .scalar h →
    (s.hart h).full [a] [k] →
    ((s.hart h).full [b] [] → ∀ e ∈ Claims.compares, exec (e.1 y x b a k) s =
      .next (s.moved h ((s.hart h).putK k (e.2 ((s.hart h).regs.readS a) ((s.hart h).regs.readS b))))) ∧
    (∀ e ∈ Claims.compareImmediates, exec (e.1 i x a k) s =
      .next (s.moved h ((s.hart h).putK k (e.2 ((s.hart h).regs.readS a) (i.signExtend 64))))) ∧
    exec (.kset x a k) s = .next (s.moved h ((s.hart h).putK k ((s.hart h).regs.readS a != 0)))) ∧
  (∀ (s : State) (h : Nat) (y x : BitVec 1) (b a d : BitVec 3) (r : BitVec 5), s.agent = .scalar h →
    ((s.hart h).full [] [a, b, d] → ∀ e ∈ Claims.bitPairs, exec (e.1 y x b a d) s =
      .next (s.moved h ((s.hart h).putK d (e.2 ((s.hart h).regs.readK a) ((s.hart h).regs.readK b))))) ∧
    ((s.hart h).full [r] [a] → exec (.kget x a r) s =
      .next (s.moved h ((s.hart h).putS r (if (s.hart h).regs.readK a then 1 else 0))))) ∧
  ∀ (s : State) (u : Nat) (t : Bool) (J : NbJob) (y x : BitVec 1) (b a r : BitVec 5) (kb ka k : BitVec 3)
    (i : BitVec 14), s.agent = .nearBank u t → s.threadOf u t J →
    let R := (J.thread t).regs
    (∀ e ∈ Claims.compares, exec (e.1 y x b a k) s = .next (s.threadMoved u t J (R.writeK k (e.2 (R.readS a) (R.readS b))))) ∧
    (∀ e ∈ Claims.compareImmediates, exec (e.1 i x a k) s =
      .next (s.threadMoved u t J (R.writeK k (e.2 (R.readS a) (i.signExtend 64))))) ∧
    (∀ e ∈ Claims.bitPairs, exec (e.1 y x kb ka k) s =
      .next (s.threadMoved u t J (R.writeK k (e.2 (R.readK ka) (R.readK kb))))) ∧
    exec (.kset x a k) s = .next (s.threadMoved u t J (R.writeK k (R.readS a != 0))) ∧
    exec (.kget x ka r) s = .next (s.threadMoved u t J (R.writeS r (if R.readK ka then 1 else 0)))

/-! ## The scalar floating-point instructions (R100, R112, R114 to R116) -/

/-- Two-source instructions in f64 (R114): what each computes with its flags, from the bits of its operands. -/
def Claims.f64Pairs : List ((BitVec 1 → BitVec 1 → BitVec 5 → BitVec 5 → BitVec 5 → Instr) ×
    (Rounding → Nat → Nat → Nat × FFlags)) :=
  [ (.faddD, faddBits fmtF64), (.fsubD, fsubBits fmtF64), (.fmulD, fmulBits fmtF64), (.fdivD, fdivBits fmtF64),
    (.fminD, fun _ => minMaxNum fmtF64 false), (.fmaxD, fun _ => minMaxNum fmtF64 true) ]

/-- Two-source instructions in f32. -/
def Claims.f32Pairs : List ((BitVec 1 → BitVec 1 → BitVec 5 → BitVec 5 → BitVec 5 → Instr) ×
    (Rounding → Nat → Nat → Nat × FFlags)) :=
  [ (.faddS, faddBits fmtF32), (.fsubS, fsubBits fmtF32), (.fmulS, fmulBits fmtF32), (.fdivS, fdivBits fmtF32),
    (.fminS, fun _ => minMaxNum fmtF32 false), (.fmaxS, fun _ => minMaxNum fmtF32 true) ]

/-- One-source instructions and conversions: what each computes from s[a], as the word s[d] takes with the flags. An f32
operand is bits [31:0]; an f32 result has bits [63:32] zero (R98, R114). -/
def Claims.floatSingles : List ((BitVec 1 → BitVec 5 → BitVec 5 → Instr) × (Rounding → Word → Nat × FFlags)) :=
  [ (.fsqrtD, fun r u => fsqrtBits fmtF64 r u.toNat), (.fsqrtS, fun r u => fsqrtBits fmtF32 r (u.toNat % 2 ^ 32)),
    (.cvtDL, fun r u => intToFloat fmtF64 r u.toInt), (.cvtSL, fun r u => intToFloat fmtF32 r u.toInt),
    (.cvtLD, fun r u => floatToInt 64 true r (unpack fmtF64 u.toNat)),
    (.cvtLS, fun r u => floatToInt 64 true r (unpack fmtF32 (u.toNat % 2 ^ 32))),
    (.cvtDS, fun r u => convertNum fmtF64 r (unpack fmtF32 (u.toNat % 2 ^ 32))),
    (.cvtSD, fun r u => convertNum fmtF32 r (unpack fmtF64 u.toNat)) ]

/-- The results that are f32: bits [63:32] zero. -/
def Claims.narrow (i : Instr) : Bool :=
  match i with
  | .fsqrtS _ _ _ => true
  | .cvtSL _ _ _ => true
  | .cvtSD _ _ _ => true
  | _ => false

/-- Fused multiply-adds, in f64 and f32 (R116). -/
def Claims.fused : List ((BitVec 5 → BitVec 5 → BitVec 5 → BitVec 5 → Instr) × FloatFmt ×
    (FloatFmt → Rounding → Nat → Nat → Nat → Nat × FFlags)) :=
  [ (.fmaddD, fmtF64, fmaddBits), (.fmsubD, fmtF64, fmsubBits), (.fmaddS, fmtF32, fmaddBits), (.fmsubS, fmtF32, fmsubBits) ]

/-- Floating-point compares (R112): the relation, and whether it raises NV. -/
def Claims.floatCompares : List ((BitVec 1 → BitVec 1 → BitVec 5 → BitVec 5 → BitVec 3 → Instr) × FloatFmt × FRel) :=
  [ (.feqD, fmtF64, .eq), (.fltD, fmtF64, .lt), (.fleD, fmtF64, .le), (.funD, fmtF64, .un),
    (.feqS, fmtF32, .eq), (.fltS, fmtF32, .lt), (.fleS, fmtF32, .le), (.funS, fmtF32, .un) ]

/-- The bits of an operand in a format: the whole register for f64, bits [31:0] for f32 (R98). -/
def Claims.operand (f : FloatFmt) (w : Word) : Nat := if f = fmtF64 then w.toNat else w.toNat % 2 ^ 32

/-- What a floating-point result leaves: s[d], the sticky flags, and srctr one higher when frm selects RSR (R100, R115); its entry
among the latest writers holds all of them (R396). -/
def Claims.floatDone (H : Hart) (d : BitVec 5) (v : Word) (f : FFlags) : Hart :=
  let R : ScalarRegs :=
    { H.regs.writeS d v with
      fst := H.regs.fst ||| f.fst
      srctr := if H.frm = 4 then H.regs.srctr + 1 else H.regs.srctr }
  { H with regs := R.note ([d.toNat, 49] ++ (if H.frm = 4 then [51] else [])) }

/-- The scalar floating-point instructions complete whenever their registers are full and, under RSR, the vector side is
idle (R104, R115): s[d] takes the result under frm, fst keeps every flag and gains those raised, and nothing else
changes. The compares write a condition bit and NV (R112). -/
def Obligations.FloatsComplete : Prop :=
  ∀ (s : State) (h : Nat) (y x : BitVec 1) (c b a d : BitVec 5) (k : BitVec 3), s.agent = .scalar h →
    let H := s.hart h
    ((H.frm = 4 → H.vectorIdle = true) → H.full [a, b, c, d] [] →
      (∀ e ∈ Claims.f64Pairs,
        let r := e.2 H.rounding (H.regs.readS a).toNat (H.regs.readS b).toNat
        exec (e.1 y x b a d) s = .next (s.moved h (Claims.floatDone H d (BitVec.ofNat 64 r.1) r.2))) ∧
      (∀ e ∈ Claims.f32Pairs,
        let r := e.2 H.rounding ((H.regs.readS a).toNat % 2 ^ 32) ((H.regs.readS b).toNat % 2 ^ 32)
        exec (e.1 y x b a d) s = .next (s.moved h (Claims.floatDone H d (BitVec.ofNat 64 (r.1 % 2 ^ 32)) r.2))) ∧
      (∀ e ∈ Claims.floatSingles,
        let r := e.2 H.rounding (H.regs.readS a)
        exec (e.1 x a d) s = .next (s.moved h (Claims.floatDone H d
          (BitVec.ofNat 64 (if Claims.narrow (e.1 x a d) then r.1 % 2 ^ 32 else r.1)) r.2))) ∧
      (∀ e ∈ Claims.fused,
        let r := e.2.2 e.2.1 H.rounding (Claims.operand e.2.1 (H.regs.readS a)) (Claims.operand e.2.1 (H.regs.readS b))
          (Claims.operand e.2.1 (H.regs.readS c))
        exec (e.1 c b a d) s = .next (s.moved h (Claims.floatDone H d
          (BitVec.ofNat 64 (if e.2.1 = fmtF64 then r.1 else r.1 % 2 ^ 32)) r.2)))) ∧
    (H.full [a, b] [k] → ∀ e ∈ Claims.floatCompares,
      let r := fcmp e.2.1 e.2.2 (Claims.operand e.2.1 (H.regs.readS a)) (Claims.operand e.2.1 (H.regs.readS b))
      exec (e.1 y x b a k) s = .next (s.moved h
        { H with regs := { H.regs.writeK k r.1 with
            fst := H.regs.fst ||| { FFlags.none with nv := r.2 }.fst }.note [32 + k.toNat, 49] }))

/-! ## Branches and jumps (R105 to R108, R117, R118, R262) -/

/-- A branch whose condition bit is full is resolved: it goes to pc + 4 × offset when the bit has the value it tests, and
to the next word when not (R117). -/
def Claims.ResolvedBranches : Prop :=
  (∀ (s : State) (h : Nat) (o : BitVec 20) (p : BitVec 1) (k : BitVec 3), s.agent = .scalar h →
    (s.hart h).full [] [k] →
    let H := s.hart h
    let target := H.pc + 4 * o.signExtend 64
    exec (.bK o p k) s = .next (if H.regs.readK k then s.setHart h (H.goTo 1 target) else s.moved h H) ∧
    exec (.bNk o p k) s = .next (if H.regs.readK k then s.moved h H else s.setHart h (H.goTo 1 target))) ∧
  ∀ (s : State) (u : Nat) (t : Bool) (J : NbJob) (o : BitVec 20) (p : BitVec 1) (k : BitVec 3), s.agent = .nearBank u t →
    s.threadOf u t J →
    let T := J.thread t
    let i : Int := (T.pc : Int) + o.toInt
    let jump := if 0 ≤ i ∧ i < (J.code.length : Int) then s.putJob u (J.setThread t { T with pc := i.toNat })
      else s.putJob u { J with endCode := some 0x01 }
    exec (.bK o p k) s = .next (if T.regs.readK k then jump else s.threadMoved u t J T.regs) ∧
    exec (.bNk o p k) s = .next (if T.regs.readK k then s.threadMoved u t J T.regs else jump)

/-- A branch whose condition bit is empty is predicted by its P bit, and waits only when four branches are unconfirmed:
the stream goes where P says, and the registers as they stand are kept for a recovery (R105, R107). -/
def Claims.PredictedBranches : Prop :=
  ∀ (s : State) (h : Nat) (o : BitVec 20) (p : BitVec 1) (k : BitVec 3), s.agent = .scalar h →
    (s.hart h).regs.isEmptyK k = true →
    let H := s.hart h
    let target := H.pc + 4 * o.signExtend 64
    let point (takenIf : Bool) : Checkpoint :=
      { branchPc := H.pc, otherPc := if p = 1 then H.pc + 4 else target, k := k, takenIf := takenIf,
        predicted := p == 1, value := none, regs := H.regs, nextId := H.nextId,
        trNum := H.obs.trNum }
    let predicted (takenIf : Bool) : State :=
      if p = 1 then s.setHart h { H.goTo 1 target with checks := H.checks ++ [point takenIf] }
      else s.moved h { H with checks := H.checks ++ [point takenIf] }
    (H.checks.length < 4 → exec (.bK o p k) s = .next (predicted true) ∧ exec (.bNk o p k) s = .next (predicted false)) ∧
    (4 ≤ H.checks.length → exec (.bK o p k) s = .next s ∧ exec (.bNk o p k) s = .next s)

/-- The oldest unconfirmed branch, once its condition bit has been written: a right prediction is confirmed and leaves;
a wrong one restores the registers kept at the branch, drops every younger branch and every load issued beyond it, and
sends the stream the other way (R105, R107). -/
def Claims.BranchConfirmation : Prop :=
  ∀ (s : State) (h : Nat) (c : Checkpoint) (rest : List Checkpoint) (v : Bool), (s.hart h).checks = c :: rest →
    c.value = some v →
    ∃ H' : Hart, exec (.branchConfirm h) s = .next (s.setHart h H') ∧
      (if (v = c.takenIf ↔ c.predicted = true) then H' = { s.hart h with checks := rest }
       else H'.pc = c.otherPc ∧ H'.checks = [] ∧ H'.regs.s = c.regs.s ∧ H'.regs.k = c.regs.k ∧
        H'.regs.empty = c.regs.empty ∧ H'.regs.fst = c.regs.fst ∧ H'.regs.srctr = c.regs.srctr ∧
        (∀ l, l ∈ H'.loads ↔ l ∈ (s.hart h).loads ∧ l.id < c.nextId) ∧ H'.vec = (s.hart h).vec ∧
        H'.trap = (s.hart h).trap ∧ H'.chans = (s.hart h).chans ∧ H'.streams = (s.hart h).streams)

/-- Branches: resolved, predicted and confirmed (R105 to R108, R117). -/
def Obligations.BranchesResolve : Prop := Claims.ResolvedBranches ∧ Claims.PredictedBranches ∧ Claims.BranchConfirmation

/-- jal writes pc + 4 to s[d] and goes to pc + 4 × immediate; jalr goes to s[a] + immediate, read before s[d] is
written, when that is a word address, and otherwise traps with cause 0x04 and the target as tval, writing nothing
(R118). Neither touches memory but for what entering the handler performs. -/
def Obligations.JumpsComplete : Prop :=
  (∀ (s : State) (h : Nat) (i : BitVec 20) (d : BitVec 5), s.agent = .scalar h → (s.hart h).full [d] [] →
    exec (.jal i d) s = .next (s.setHart h (((s.hart h).putS d ((s.hart h).pc + 4)).goTo 1
      ((s.hart h).pc + 4 * i.signExtend 64)))) ∧
  (∀ (s : State) (h : Nat) (i : BitVec 14) (x : BitVec 1) (a d : BitVec 5), s.agent = .scalar h →
    (s.hart h).full [a, d] [] → ((s.hart h).regs.readS a + i.signExtend 64).toNat % 4 = 0 →
    exec (.jalr i x a d) s = .next (s.setHart h (((s.hart h).putS d ((s.hart h).pc + 4)).goTo 2
      ((s.hart h).regs.readS a + i.signExtend 64)))) ∧
  (∀ (s : State) (h : Nat) (i : BitVec 14) (x : BitVec 1) (a d : BitVec 5), s.agent = .scalar h →
    (s.hart h).full [a, d] [] → Claims.mayTrap (s.hart h) →
    let t := (s.hart h).regs.readS a + i.signExtend 64
    t.toNat % 4 ≠ 0 → Claims.Enters s h 0x04 t 0 (s.hart h).pc (exec (.jalr i x a d) s)) ∧
  ∀ (s : State) (u : Nat) (t : Bool) (J : NbJob) (i : BitVec 20) (d : BitVec 5), s.agent = .nearBank u t →
    s.threadOf u t J →
    let T := J.thread t
    let j : Int := (T.pc : Int) + i.toInt
    0 ≤ j → j < (J.code.length : Int) → exec (.jal i d) s =
      .next (s.putJob u (J.setThread t { T with pc := j.toNat, regs := T.regs.writeS d (BitVec.ofNat 64 (T.pc + 1)) }))

/-! ## Scalar memory (R119 to R129, R206, R224 to R226, R364) -/

/-- The loads: bytes read, and whether the value is sign-extended (R22, R119). -/
def Claims.loads : List ((BitVec 10 → BitVec 2 → BitVec 1 → BitVec 5 → BitVec 5 → Instr) × Nat × Bool) :=
  [ (.ldB, 1, true), (.ldBu, 1, false), (.ldH, 2, true), (.ldHu, 2, false), (.ldW, 4, true), (.ldWu, 4, false),
    (.ldD, 8, false) ]

/-- The stores: bytes written (R23, R121). -/
def Claims.stores : List ((BitVec 10 → BitVec 2 → BitVec 1 → BitVec 5 → BitVec 5 → Instr) × Nat) :=
  [ (.stB, 1), (.stH, 2), (.stW, 4), (.stD, 8) ]

/-- The effective address of a scalar load or store: s[a] plus the immediate times the size (R119, R121). -/
def Claims.address (H : Hart) (i : BitVec 10) (a : BitVec 5) (size : Nat) : Word :=
  H.regs.readS a + i.signExtend 64 * BitVec.ofNat 64 size

/-- Nothing holds a scalar access of the hart up: no copy still owes its bytes (R249), no access of its stream waits for
a peer (R364), no replay runs (R285), and no older branch is unconfirmed (R106). -/
def Claims.freeToAccess (H : Hart) (ea : Word) (size stream : Nat) : Prop :=
  H.settled = true ∧ H.loop.st ≠ 3 ∧ H.copyStalls (fun _ => true) ea.toNat size = false ∧
    H.owes (onStream stream) = false

/-- What a scalar load that may go does to the state s1 that its checks leave: a hit of the L1, a free choice open to it
only when the line is there and free of poison and no access before it has to wait (R107), performs the older accesses of its
stream and writes s[d]; any other load empties s[d] and is pending (R101, R119, R120, R206). -/
def Claims.loadIssues (h size : Nat) (signed : Bool) (q : Nat) (ea : Word) (d : BitVec 5) (l : Loc) (s1 t : State) : Prop :=
  let may := l.cacheable && (s1.hart h).l1.contains (l.key / 64) && !poisonedLoc l s1 &&
    !(s1.hart h).specConflict h (onStream q) s1
  let pend (u : State) : State := u.moved h (((u.hart h).markS d).push (l.pending .load d ea signed q))
  let s2 := departConflicts (some h) l.key size false (forceLoads h (onStream q) (drawBool s1).2)
  if may then
    if (drawBool s1).1 then t = s2.moved h ((s2.hart h).putS d (extendLoad size signed (readLoc l s2)))
    else t = pend (drawBool s1).2
  else t = pend s1

/-- A scalar load whose address is aligned and permitted, and which nothing holds up, issues, hitting the L1 or pending
(R101, R119, R120, R206). Beyond an unconfirmed branch it issues only where its translation is cached with A set and its
data in the L1 or the home L2, or where it is of the lane window or the core scratchpad, and otherwise waits (R106,
R215). -/
def Obligations.LoadsIssue : Prop :=
  (∀ (s s1 : State) (h : Nat) (i : BitVec 10) (q : BitVec 2) (x : BitVec 1) (a d : BitVec 5) (l : Loc),
    s.agent = .scalar h → (s.hart h).full [a, d] [] → ∀ e ∈ Claims.loads,
    let ea := Claims.address (s.hart h) i a e.2.1
    ea.toNat % e.2.1 = 0 → Claims.freeToAccess (s.hart h) ea e.2.1 q.toNat →
    (access (s.who h) ea.toNat e.2.1 .read s = .ok l s1 →
      ∃ t, exec (e.1 i q x a d) s = .next t ∧ Claims.loadIssues h e.2.1 e.2.2 q.toNat ea d l s1 t)) ∧
  ∀ (s s1 : State) (h : Nat) (i : BitVec 10) (q : BitVec 2) (x : BitVec 1) (a d : BitVec 5) (l : Loc),
    s.agent = .scalar h → (s.hart h).full [a, d] [] → (s.hart h).settled = false → ∀ e ∈ Claims.loads,
    let ea := Claims.address (s.hart h) i a e.2.1
    ea.toNat % e.2.1 = 0 → (s.hart h).copyStalls (fun _ => true) ea.toNat e.2.1 = false →
    (s.hart h).owes (onStream q.toNat) = false →
    (specLoad h ea.toNat e.2.1 s = none → exec (e.1 i q x a d) s = .next s) ∧
    (specLoad h ea.toNat e.2.1 s = some (l, s1) → (s.hart h).replayHoldsLoc h l s = false →
      ∃ t, exec (e.1 i q x a d) s = .next t ∧ Claims.loadIssues h e.2.1 e.2.2 q.toNat ea d l s1 t)

/-- A scalar store whose address is aligned and permitted, and which nothing holds up, is pending with the low bytes of
s[d], here or at a peer (R121, R122, R364). A turn that performs the oldest pending access of its stream on this device
writes the store's bytes, and the store leaves (R120, R122). -/
def Obligations.StoresComplete : Prop :=
  (∀ (s s1 : State) (h : Nat) (i : BitVec 10) (q : BitVec 2) (x : BitVec 1) (a d : BitVec 5) (l : Loc),
    s.agent = .scalar h → (s.hart h).full [a, d] [] → ∀ e ∈ Claims.stores,
    let ea := Claims.address (s.hart h) i a e.2
    ea.toNat % e.2 = 0 → Claims.freeToAccess (s.hart h) ea e.2 q.toNat →
    access (s.who h) ea.toNat e.2 .write s = .ok l s1 → exec (e.1 i q x a d) s =
      .next (s1.moved h ((s1.hart h).push
        { l.pending .store 0 ea false q.toNat with data := (s.hart h).regs.readS d }))) ∧
  ∀ (s : State) (h n : Nat) (p : PendingLoad), (s.hart h).loads[n]? = some p → p.kind = .store → p.due = true →
    (∀ (m : Nat) (q : PendingLoad), (s.hart h).loads[m]? = some q → p.upTo q = true → m ≠ n →
      q.due = false ∧ q.remote = false) →
    s.undisturbed (some h) →
    let t := writeLoc (s.who h) p.loc (p.data.toNat % 256 ^ p.size) s
    performTurn h n s = t.setHart h ((t.hart h).dropLoad n)

/-- The atomics: bytes, the value s[d] takes from the old value m, and the new value from m, s[b] and s[d] (R24, R123,
R125). -/
def Claims.atomics : List ((BitVec 3 → BitVec 1 → BitVec 1 → BitVec 5 → BitVec 5 → BitVec 5 → Instr) × Nat × Nat ×
    (Nat → Word) × (Nat → Word → Word → Nat)) :=
  [ (.amoAddW, 0, 4, fun m => (BitVec.ofNat 32 m).signExtend 64, fun m b _ => (m + b.toNat) % 2 ^ 32),
    (.amoAddD, 1, 8, fun m => BitVec.ofNat 64 (m % 256 ^ 8), fun m b _ => (BitVec.ofNat 64 m + b).toNat),
    (.amoMinD, 2, 8, fun m => BitVec.ofNat 64 (m % 256 ^ 8), fun m b _ => if (BitVec.ofNat 64 m).toInt ≤ b.toInt then m else b.toNat),
    (.amoMaxD, 3, 8, fun m => BitVec.ofNat 64 (m % 256 ^ 8), fun m b _ => if (BitVec.ofNat 64 m).toInt ≤ b.toInt then b.toNat else m),
    (.amoMinuD, 4, 8, fun m => BitVec.ofNat 64 (m % 256 ^ 8), fun m b _ => if m ≤ b.toNat then m else b.toNat),
    (.amoMaxuD, 5, 8, fun m => BitVec.ofNat 64 (m % 256 ^ 8), fun m b _ => if m ≤ b.toNat then b.toNat else m),
    (.amoSwapD, 6, 8, fun m => BitVec.ofNat 64 (m % 256 ^ 8), fun _ b _ => b.toNat),
    (.amoCasD, 7, 8, fun m => BitVec.ofNat 64 (m % 256 ^ 8), fun m b c => if BitVec.ofNat 64 m = c then b.toNat else m),
    (.amoFaddS, 8, 4, fun m => BitVec.ofNat 64 (m % 256 ^ 4), fun m b _ => (faddBits fmtF32 rne m (b.toNat % 2 ^ 32)).1),
    (.amoFaddD, 9, 8, fun m => BitVec.ofNat 64 (m % 256 ^ 8), fun m b _ => (faddBits fmtF64 rne m b.toNat).1) ]

/-- An atomic whose address is aligned and permitted, and which nothing holds up, reads the old value m and writes the new one in
one step, in its place on q0; s[d] becomes empty and takes the old value when it returns (R101, R123, R124). Poison in the old
value is returned and nothing is written. At a peer it goes out and awaits the answer (R364); an uncached host page refuses it,
with cause 0x07 at its address (R209). -/
def Obligations.AtomicsIssue : Prop :=
  ∀ (s s1 : State) (h : Nat) (c : BitVec 3) (y x : BitVec 1) (b a d : BitVec 5) (l : Loc),
    s.agent = .scalar h → (s.hart h).full [a, b, d] [] → ∀ e ∈ Claims.atomics,
    let ea := (s.hart h).regs.readS a
    let size := e.2.2.1
    ea.toNat % size = 0 → Claims.freeToAccess (s.hart h) ea size 0 →
    accessBy (s.who h) ea.toNat size .amo s = .ok l s1 →
    let refused := l.uncached && isHostPa l.key
    let s2 := forceLoads h (onStream 0) s1
    let m := readLoc l s2
    let u := (s.hart h).regs.readS b
    let w := (s.hart h).regs.readS d
    let p := { l.pending .amo d ea false 0 with op := e.2.1, data := u, cmp := w }
    (refused = true → Claims.mayTrap (s1.hart h) →
      Claims.Enters s1 h 0x07 ea 0 (s1.hart h).pc (exec (e.1 c y x b a d) s)) ∧
    (refused = false → l.peer ≠ none → exec (e.1 c y x b a d) s = .next (s2.moved h (((s2.hart h).markS d).push p))) ∧
    (refused = false → l.peer = none → poisonedLoc l s2 = false →
      let s3 := writeLoc (s2.who h) l (e.2.2.2.2 m u w) s2
      exec (e.1 c y x b a d) s =
        .next (s3.moved h (((s3.hart h).markS d).push { p with value := some (e.2.2.2.1 m), poison := false }))) ∧
    (refused = false → l.peer = none → poisonedLoc l s2 = true → exec (e.1 c y x b a d) s =
      .next (s2.moved h (((s2.hart h).markS d).push { p with value := some 0, poison := true })))

/-- The data of a pending load or atomic returns, once nothing of its stream before it is at a peer: the older accesses
of its stream are performed, it leaves with the value it has, or with the one that memory holds for it behind them, its destination
takes that value in the registers and in those that a younger branch would restore, and a cached line is filled (R101, R107, R119,
R120, R206). With poison or an error it leaves a trap to be taken, once no branch before it is unconfirmed (R119, R364). -/
def Claims.DataReturns : Prop :=
  ∀ (s : State) (h n : Nat) (p : PendingLoad), (s.hart h).loads[n]? = some p → p.remote = false →
    (∀ (m : Nat) (q : PendingLoad), (s.hart h).loads[m]? = some q → (q.id = p.id → m = n) ∧ (p.upTo q = true → m ≤ n)) →
    (p.value = none → (s.hart h).owes p.upTo = false ∧ s.undisturbed (some h)) →
    ∀ e ∈ [(PendKind.load, Instr.loadDataReturn h n), (.amo, .amoReturn h n)], p.kind = e.1 →
    let s1 := forceLoads h p.upTo s
    let H1 := s1.hart h
    let r := if p.value = none then p.perform s1.mm else p
    let m := placeAfter h n s s1
    H1.loads[m]? = some r ∧
    (r.poison = false → r.err = false →
      let s2 := s1.setHart h ((H1.dropLoad m).fillS (some p.id) p.dst (r.value.getD 0))
      exec e.2 s = .next (if p.loc.cacheable && p.kind == .load then fillLine h (p.key / 64) p.loc.slot s2 else s2)) ∧
    (r.poison = true ∨ r.err = true → exec e.2 s = .next (if H1.speculative p.id then s1
      else s1.setHart h ((H1.dropLoad m).noteTrap (if r.err then 0x07 else 0x0E) r)))

/-- A peer answers a pending access, in its turn of its stream: the local accesses before it are performed first, and while
an older one is at a peer the answer waits (R120, R122, R364). Then a store's bytes are written and it leaves; a load takes
the peer's bytes as they are then, an atomic is performed, and both wait to return, poisoned if the answer says so or the atomic
finds poison, which writes nothing; an error marks them, and of a store it becomes a trap with cause 0x07 (R364). -/
def Claims.PeerAnswers : Prop :=
  ∀ (s : State) (h n : Nat) (p : PendingLoad), (s.hart h).loads[n]? = some p → p.remote = true →
    let older := (s.hart h).loads.take n
    ((∃ q ∈ older, q.stream = p.stream ∧ q.remote = true) → ∀ k, exec (.remoteResponse h n k) s = .next (finishEndings s)) ∧
    ((∀ q ∈ older, q.stream = p.stream → q.remote = false) →
      let t := forceBefore h n p.stream s
      let m := placeAfter h n s t
      let H := t.hart h
      (p.kind = .store →
        (let s1 := writeLoc (t.who h) p.loc (p.data.toNat % 256 ^ p.size) t
         ∀ k ∈ [0, 2], exec (.remoteResponse h n k) s = .next (finishEndings (s1.setHart h ((s1.hart h).dropLoad m)))) ∧
        exec (.remoteResponse h n 1) s = .next (finishEndings (t.setHart h { H.dropLoad m with
          loadTraps := H.loadTraps ++ [⟨0x07, p.ea, p.dst, H.trap.ts⟩] }))) ∧
      (p.kind = .load → ∀ k ∈ [0, 2], exec (.remoteResponse h n k) s = .next (finishEndings (t.setHart h (H.setLoad m { p with
        remote := false
        value := some (extendLoad p.size p.signed (readLoc p.loc t))
        poison := k == 2 })))) ∧
      (p.kind = .amo → ∀ k ∈ [0, 2], k = 2 ∨ poisonedLoc p.loc t = true → exec (.remoteResponse h n k) s =
        .next (finishEndings (t.setHart h (H.setLoad m { p with remote := false, poison := true, value := some 0 })))) ∧
      (p.kind = .amo → poisonedLoc p.loc t = false →
        let op := AmoOp.of p.op
        let s1 := writeLoc (t.who h) p.loc (op.new (readLoc p.loc t) p.data p.cmp) t
        exec (.remoteResponse h n 0) s = .next (finishEndings (s1.setHart h ((s1.hart h).setLoad m
          { p with remote := false, poison := false, value := some (op.old (readLoc p.loc t)) })))) ∧
      (p.kind ≠ .store → exec (.remoteResponse h n 1) s =
        .next (finishEndings (t.setHart h (H.setLoad m { p with remote := false, err := true, value := some 0 })))))

/-- The answer of a command that stands ready is delivered by a turn of its own: its destination becomes full with it, and
nothing else of the registers changes (R101). -/
def Claims.CommandAnswers : Prop :=
  ∀ (s : State) (h n : Nat) (c : PendingCmd) (v : Word), (s.hart h).cmds[n]? = some c → c.on = .ready v →
    let H := s.hart h
    ∃ K, answerTurn h n s = s.setHart h K ∧ K.cmds = H.cmds.filter (fun x => x.id != c.id) ∧
      K.regs.readS c.dst = (if c.dst = 0 then 0 else v) ∧ K.regs.isEmptyS c.dst = false ∧
      (∀ r, r ≠ c.dst → K.regs.readS r = H.regs.readS r ∧ K.regs.isEmptyS r = H.regs.isEmptyS r) ∧
      K.pc = H.pc ∧ K.vec = H.vec ∧ K.trap = H.trap

/-- The answers of pending accesses and commands (R101, R119, R364). -/
def Obligations.AnswersReturn : Prop := Claims.DataReturns ∧ Claims.PeerAnswers ∧ Claims.CommandAnswers

/-- sbar performs every older access of the streams of its mask and fence every older access, of the scalar side and of the
vector entries that have completed, before the stream goes on; both wait while such an access has not been answered by a peer
(R224 to R226). -/
def Obligations.BarriersComplete : Prop :=
  ∀ (s : State) (h : Nat) (c : BitVec 3) (m : BitVec 16), s.agent = .scalar h → (s.hart h).settled = true →
    ∀ e ∈ [(Instr.sbar c m, fun (q : Nat) => m.getLsbD q), (.fence c, fun _ => true)],
    let s1 := forceDone h (fun A => e.2 A.stream) (forceLoads h (fun p => e.2 p.stream) s)
    ((s.hart h).owes (fun p => e.2 p.stream) = false → exec e.1 s = .next (s1.moved h (s1.hart h))) ∧
    ((s.hart h).owes (fun p => e.2 p.stream) = true → exec e.1 s = .next s)

/-- Cache and translation maintenance (R128, R217): l1inv drops the line of its address from the hart's L1, l2wb cleans
it at the home L2, tlbinv starts an invalidation and tlbsync passes once none of the hart's is left, both at level 1 or
above; an invalidation completes once no access that used what it removes is outstanding and none of its context has to wait
(R107). -/
def Obligations.MaintenanceCompletes : Prop :=
  (∀ (s s1 : State) (h : Nat) (x : BitVec 1) (a : BitVec 5) (l : Loc), s.agent = .scalar h →
    (s.hart h).full [a] [] → (s.hart h).settled = true → (s.hart h).owes (onStream 0) = false →
    access (s.who h) ((s.hart h).regs.readS a).toNat 1 .read s = .ok l s1 → l.phys = true →
    let s2 := forceLoads h (onStream 0) s1
    let H2 := s2.hart h
    exec (.l1inv x a) s = .next (s2.moved h { H2 with l1 := H2.l1.filter (fun n => n != l.key / 64) }) ∧
    (∀ line, tfind s2.mm.l2 (l.key / 64) = some line →
      exec (.l2wb x a) s = .next ((s2.setMem (line.writeBack (l.key / 64) { s2.mm with
        l2 := tput s2.mm.l2 (l.key / 64) { line with dirty := 0 } })).moved h H2)) ∧
    (tfind s2.mm.l2 (l.key / 64) = none → exec (.l2wb x a) s = .next (s2.moved h H2))) ∧
  (∀ (s : State) (h : Nat) (x : BitVec 1) (a : BitVec 5), s.agent = .scalar h → (s.hart h).settled = true →
    1 ≤ (s.hart h).plev.toNat →
    let H := s.hart h
    let v := H.regs.readS a
    (H.full [a] [] → exec (.tlbinv x a) s = .next ((s.setMem { s.mm with
      invs := s.mm.invs ++ [⟨s.mm.nextInv, h, bits v 0 12, bits v 12 44 * 4096⟩]
      nextInv := s.mm.nextInv + 1 }).moved h { H with invs := H.invs ++ [s.mm.nextInv] })) ∧
    (H.invs = [] → exec .tlbsync s = .next (s.moved h H)) ∧
    (H.invs ≠ [] → exec .tlbsync s = .next s)) ∧
  ∀ (s : State) (n : Nat) (i : Invalidation), s.mm.invs[n]? = some i →
    (i.outstanding s = true ∨ s.specWaits i.ctx = true → exec (.tlbInvalidationComplete n) s = .next s) ∧
    (i.outstanding s = false → s.specWaits i.ctx = false →
    let s1 := forceCtx i.ctx s
    let m := dropTranslations i.ctx i.va s1.mm
    ∃ t, exec (.tlbInvalidationComplete n) s = .next t ∧ t.mm = { m with invs := s1.mm.invs.eraseIdx n } ∧
      (t.hart i.hart).invs = (s1.hart i.hart).invs.filter (fun k => k != i.id) ∧
      ∀ e ∈ t.mm.tlb, ¬(e.ctx = i.ctx ∧ e.base ≤ i.va ∧ i.va < e.base + e.size))

/-! ## Exceptions, return, halting (R93, R127, R332 to R343) -/

/-- trap and brk take their exceptions: trap with cause 0x0C, its code as tval and tpc behind it, brk with cause 0x0D, its
address as tval and tpc on itself (R127, R336, R337). -/
def Obligations.TrapAndBreakEnter : Prop :=
  ∀ (s : State) (h : Nat) (c : BitVec 20), s.agent = .scalar h → Claims.mayTrap (s.hart h) →
    Claims.Enters s h 0x0C (c.setWidth 64) 0 ((s.hart h).pc + 4) (exec (.trap c) s) ∧
    Claims.Enters s h 0x0D (s.hart h).pc 0 (s.hart h).pc (exec .brk s)

/-- A pending asynchronous cause is taken at the boundary before pc, by a hart that runs or waits (R332, R333, R337, R341): a
machine check first, then pre-emption, which ends a replay, then the hand-back of a replay, behind the vector queue, a copy fault, a
task fault, the trap of a returned access, each with its cause, its tval and its source in tinfo. tpc is the instruction at pc, but
for a hand-back, which resumes at the re-entry address, and under pre-emption, which leaves an idle that the hart waits in, and a
yield it stands at, behind it. The cause is pending no more. -/
def Obligations.AsynchronousEntry : Prop :=
  ∀ (s : State) (h : Nat), (s.hart h).status ≠ .idle → (s.hart h).status ≠ .retired → Claims.mayTrap (s.hart h) →
    let H := s.hart h
    let takes (K : Hart) (cause : Nat) (tval : Word) (info : Nat) (tpc : Word) : Prop :=
      Claims.Enters (s.setHart h K) h cause tval (BitVec.ofNat 64 info) tpc (exec (.trapEntry h) s)
    (∀ t, H.mcheck = some t → takes { H with mcheck := none } 0x12 t (6 * 2 ^ 60) H.pc) ∧
    (H.mcheck = none → H.mayPreempt = true →
      takes H.forPreempt 0x11 0 (6 * 2 ^ 60) (if resumesBehind h s then H.pc + 4 else H.pc) ∧ H.forPreempt.trap.prq = false ∧
      (H.status = .waiting .idle → takes H.forPreempt 0x11 0 (6 * 2 ^ 60) (H.pc + 4))) ∧
    (H.mcheck = none → H.mayPreempt = false → ∀ c k, H.handBack = some (c, k) → H.vectorIdle = true →
      (H.handedBack k).trapWaits = false →
      (c ≠ 0x11 → takes (H.handedBack k) 0x0F k (5 * 2 ^ 60) H.loop.lpre) ∧
      (c = 0x11 → takes { H.handedBack k with trap := { H.trap with prq := false } } 0x11 0 (6 * 2 ^ 60) H.loop.lpre)) ∧
    (H.mcheck = none → H.mayPreempt = false → H.handBack = none →
      (∀ c cause t, firstCopyFault H = some (c, cause, t) →
        takes (H.clearCopyFault c) cause t (3 * 2 ^ 60 + c % 2 ^ 40) H.pc) ∧
      (firstCopyFault H = none → ∀ cause k t rest, H.taskFaults = (cause, k, t) :: rest →
        takes { H with taskFaults := rest } cause t (4 * 2 ^ 60 + k % 2 ^ 34 % 2 ^ 40) H.pc) ∧
      (firstCopyFault H = none → H.taskFaults = [] → ∀ (f : LoadTrap) (rest : List LoadTrap), H.loadTraps = f :: rest →
        takes { H with loadTraps := rest } f.cause f.ea (if f.cause = 0x0E then 32 + f.dst.toNat else 0) H.pc))

/-- tret at level 1 or above, with the vector side idle and its targets on a word, returns (R339): pc and the level come from
tpc and PPL, TS clears, of the registers with their tfe bit set exactly those are empty whose producer is in the frozen set,
and the frozen instance runs on with the vpc, estart and g saved. With tpc off a word, in a trap, the record takes cause
0x04 and the handler starts again (R340); so it does with tvpc off a word where a frozen instance would resume there, which
is the model's reading of R9 (assumption 15, DEDUCED). -/
def Obligations.TrapReturnRestores : Prop :=
  ∀ (s : State) (h : Nat), s.agent = .scalar h → (s.hart h).settled = true → 1 ≤ (s.hart h).plev.toNat →
    (s.hart h).vectorIdle = true →
    let H := s.hart h
    (H.trap.tpc.toNat % 4 ≠ 0 → H.trap.ts = true → exec .tret s = .next (s.setHart h { H with
      pc := H.trap.tvec, trap := { H.trap with tcause := 0x04, tval := H.trap.tpc, tinfo := 0 } })) ∧
    let off := H.trap.vf = true ∧ H.vec.frozen ≠ none ∧ H.trap.tvpc.toNat % 4 ≠ 0
    (H.trap.tpc.toNat % 4 = 0 → off → H.trap.ts = true → exec .tret s = .next (s.setHart h { H with
      pc := H.trap.tvec, trap := { H.trap with tcause := 0x04, tval := H.trap.tvpc, tinfo := 0 } })) ∧
    (H.trap.tpc.toNat % 4 = 0 → ¬off → ∃ t, exec .tret s = .next t ∧ (t.hart h).pc = H.trap.tpc ∧ (t.hart h).plev = H.trap.ppl ∧
      (t.hart h).status = .running ∧ (t.hart h).trap.ts = false ∧
      (t.hart h).regs.empty = (H.regs.empty &&& ~~~H.trap.tfe) ||| (H.trap.tfe &&& H.frozenProducers) ∧ (t.hart h).regs.s = H.regs.s ∧
      (t.hart h).regs.k = H.regs.k ∧ (t.hart h).vec.queue = H.vec.queue ∧
      (H.trap.vf = true → (t.hart h).trap.vf = false ∧ ∀ b, H.vec.frozen = some b → (t.hart h).vec.inst = some b ∧
        (t.hart h).vec.vpc = H.trap.tvpc ∧ (t.hart h).vec.estart = H.trap.telem ∧ (t.hart h).vec.g = H.trap.tg) ∧
      (H.trap.vf = false → (t.hart h).vec = H.vec) ∧ t.mm = s.mm)

/-- halt retires the hart when nothing of it is left to do, and HART_RETIRE does so for one that waits in halt: its stores
and vector accesses are performed, and the hart leaves the live ones and every group. While another hart of the launch lives,
nothing else of the launch changes; with the last one the launch retires: its arrival word goes up by one, every hart of it in its
slot falls idle, and it is resident no more (R92, R93, R327). A hart with something left waits. On a near-bank thread halt ends the
thread (R263). -/
def Claims.HaltRetires : Prop :=
  (∀ (s : State) (h : Nat) (L : Launch),
    let s1 := finishVaccs h (forceLoads h (fun p => p.kind == .store) s)
    let H := s1.hart h
    let n := H.place.launch
    s1.launchAt n = some L →
    let L' := { L with
      live := L.live.filter (fun g => g != h)
      groups := L.groups.map (fun g => (g.1, g.2.leave H.place.lvh.toNat)) }
    let t := (s1.setHart h { H with
      status := .retired, checks := [], loads := [], cmds := [], regs := { H.regs with ran := H.regs.ran + 1 } }).setLaunch n L'
    let last := (∀ g ∈ L.live, g = h) ∧ L.ending = false
    let w : Who := ⟨0, L.field 116 12, L.level, none, .engine⟩
    let at' := BitVec.ofNat 64 (L.field 320 56)
    let u := releaseLaunch n L' (launchArrive L' false t)
    let leaves (o : Host.Outcome State Fault Refusal) : Prop :=
      ((∃ g ∈ L.live, g ≠ h) → o = .next t) ∧ (last → o = .next u)
    (s.agent = .scalar h → (s.hart h).settled = true → mayRetire h s = true → leaves (exec .halt s)) ∧
    ((s.hart h).status = .waiting .halt → mayRetire h s = true → leaves (exec (.hartRetire h) s)) ∧
    (at' = 0 → launchArrive L' false t = t) ∧
    (∀ l t1, at' ≠ 0 → accessBy w at'.toNat 8 .write t = .ok l t1 →
      launchArrive L' false t = writeLoc w l (arrivalValue (readLoc l t1) false) t1) ∧
    u.launchAt n = none ∧
    ∀ g ∈ L.harts, ((launchArrive L' false t).hart g).place.launch = n → (u.hart g).status = .idle) ∧
  (∀ (old : Nat), old < 2 ^ 63 - 1 → arrivalValue old false = old + 1) ∧
  (∀ (s : State) (h : Nat), s.agent = .scalar h → (s.hart h).settled = true → mayRetire h s = false →
    exec .halt s = .next (s.setHart h { s.hart h with status := .waiting .halt })) ∧
  ∀ (s : State) (u : Nat) (x : Bool) (J : NbJob), s.agent = .nearBank u x → s.threadOf u x J →
    exec .halt s = .next (s.putJob u (J.setThread x { J.thread x with halted := true }))

/-- idle goes on once cyc has reached swake or a pre-emption request is pending, and waits otherwise; IDLE_WAKE lets the
waiting hart go on; yield goes on when no request is pending or the hart is in a trap, and takes a pending one, which
ends a replay, with tpc behind it (R127, R343). -/
def Claims.IdleAndYield : Prop :=
  ∀ (s : State) (h : Nat),
    let H := s.hart h
    let due := decide (H.swake.toNat ≤ (s.cyc h).toNat)
    (s.agent = .scalar h → H.settled = true → exec .idle s =
      .next (if due || H.trap.prq then s.moved h H else s.setHart h { H with status := .waiting .idle })) ∧
    (H.status = .waiting .idle → due = true → exec (.idleWake h) s = .next (s.moved h H)) ∧
    (s.agent = .scalar h → H.settled = true → H.trap.prq = false ∨ H.trap.ts = true →
      exec .yield s = .next (s.moved h H)) ∧
    (s.agent = .scalar h → Claims.mayTrap H → H.mayPreempt = true → H.forPreempt.trap.prq = false ∧
      Claims.Enters (s.setHart h H.forPreempt) h 0x11 0 (BitVec.ofNat 64 (6 * 2 ^ 60)) (H.pc + 4) (exec .yield s))

/-- halt, idle and yield (R93, R127, R343). -/
def Obligations.WaitsAndHalts : Prop := Claims.HaltRetires ∧ Claims.IdleAndYield

/-! ## Groups (R326 to R330) -/

/-- The group instructions of a member (R328): garrive posts an arrival that waits for the hart's older accesses and goes
on, gsync posts one and waits, gwait waits until no arrival is pending or counts in the current generation, and
GROUP_ARRIVAL_SEND sends a pending arrival once the accesses before it are performed. -/
def Obligations.GroupsComplete : Prop :=
  (∀ (s : State) (h i : Nat) (c : BitVec 3) (g : BitVec 8), s.agent = .scalar h → (s.hart h).settled = true →
    (s.hart h).membership g.toNat = some i →
    let H := s.hart h
    let posted := H.setPend i (some ⟨c.toNat, H.position, H.nextId⟩)
    (H.pendAt i = none → exec (.garrive c g) s = .next (s.moved h posted)) ∧
    (H.pendAt i = none → H.group.sent = false → H.group.wo = false → exec (.gsync c g) s = .next (s.setHart h
      { posted with group := { posted.group with sent := true }, status := .waiting .group })) ∧
    (H.pendAt i = none → s.hasArrived h g.toNat = false → exec (.gwait c g) s =
      .next (s.moved h { H with group := { H.group with sent := false } })) ∧
    (H.pendAt i = none → s.hasArrived h g.toNat = true → exec (.gwait c g) s =
      .next (s.setHart h { H with status := .waiting .group })) ∧
    (H.group.sent = true → H.pendAt i = none → s.hasArrived h g.toNat = false → exec (.gsync c g) s =
      .next (s.moved h { H with group := { H.group with sent := false } }))) ∧
  ∀ (s : State) (h m : Nat) (p : PendArrival) (L : Launch) (G : Group), (s.hart h).pendAt m = some p →
    (s.hart h).trap.loaded = false → (s.hart h).reached p.ticket = true →
    (s.hart h).owes (fun q => decide (q.id < p.older)) = false →
    let s1 := forceEntries h p.ticket (forceLoads h (fun q => decide (q.id < p.older)) s)
    let H1 := s1.hart h
    let g := bits H1.place.gmem (8 * m) 8
    s1.launchAt H1.place.launch = some L → tfind L.groups g = some G →
    exec (.groupArrivalSend h m) s = .next ((s1.setHart h (H1.setPend m none)).setLaunch H1.place.launch { L with
      groups := tput L.groups g (G.arrive H1.place.lvh.toNat) })

/-! ## Control registers (R27, R99, R126, R155, R158, R259, R289, R314, R331, R342 to R356, R391, R393, R394, R402 to R413) -/

/-- What a register reads as in a state, by its number, for a hart (R97, R99, R155, R289, R314, R331, R354, R391, R413,
R425). The registers whose read changes the machine, or whose value is open, are not listed. -/
def Claims.readTable (s : State) (h : Nat) : List (Nat × Word) :=
  let H := s.hart h
  [ (0x000, H.frm.setWidth 64), (0x001, H.regs.fst.setWidth 64), (0x002, H.srkey), (0x003, H.regs.srctr),
    (0x004, s.cyc h), (0x005, H.swake),
    (0x010, BitVec.ofNat 64 ((if s.launch.fused40 then 0x4240 else 0x4256) + Config.stepping.toNat * 2 ^ 16)), (0x011, BitVec.ofNat 64 (h % 4)), (0x012, H.plev.setWidth 64),
    (0x080, H.place.lvh.setWidth 64), (0x081, BitVec.ofNat 64 (h / 4)), (0x082, H.place.lgrid.setWidth 64),
    (0x083, H.place.lctx.setWidth 64), (0x084, H.place.lprio.setWidth 64), (0x085, H.place.ltag.setWidth 64),
    (0x086, H.place.gmem), (0x090, (s.core (h / 4)).hshare.setWidth 64) ] ++
  [ (0x100, H.vec.len), (0x101, H.vec.rows), (0x102, H.vec.fmt), (0x103, H.vec.estart), (0x104, H.vec.vpc),
    (0x105, H.vec.vst.setWidth 64), (0x106, H.vec.vdirty), (0x108, BitVec.ofNat 64 H.vec.queue.length),
    (0x200, H.loop.lpi), (0x201, H.loop.lpst), (0x202, H.loop.lpn), (0x203, H.loop.lpre), (0x204, H.loop.lpwm),
    (0x281, s.evsel.setWidth 64), (0x284, (s.core (h / 4)).accpsn.setWidth 64), (0x301, H.group.gsel.setWidth 64) ] ++
  [ (0x380, H.trap.tvec), (0x381, H.trap.tpc), (0x382, H.trap.tvpc), (0x383, H.trap.telem),
    (0x384, H.trap.tcause.setWidth 64), (0x385, H.trap.tval), (0x386, H.trap.tinfo), (0x388, H.trap.tfe.setWidth 64),
    (0x389, H.trap.tscratch), (0x38A, H.trap.tg[0]), (0x391, H.trap.tg[7]), (0x392, H.trap.ximg), (0x393, H.trap.xld),
    (0x394, 0), (0x400, s.links.lkid.setWidth 64), (0x440, H.place.plh), (0x441, H.place.plstg.setWidth 64) ] ++
  [ (0x481, 0), (0x482, 0), (0x484, s.retire.rtthr.setWidth 64), (0x485, s.mm.mig.old), (0x486, s.mm.mig.new),
    (0x490, s.elsel), (0x4A0, (s.core (h / 4)).pmsel), (0x4A1, (s.core (h / 4)).pmovf.setWidth 64),
    (0x4C0, s.energy.ensel.setWidth 64), (0x4E0, H.obs.smpcfg), (0x4E8, H.obs.trcfg), (0x4F0, H.obs.stpa),
    (0x4F1, H.obs.stpe), (0x500, s.trust.ctxbase), (0x501, s.trust.modes), (0x503, s.trust.pwlim.setWidth 64) ]

/-- crd of an assigned register at its level completes once s[d] is full and, for srkey and srctr, the vector side is
idle, for these and rtq every branch confirmed: s[d] takes the value read (R104, R126). The listed registers read as the machine
holds them and reading them changes nothing. An unassigned number traps with cause 0x01, a register above the hart's
level with 0x13, tval being the word (R27). -/
def Obligations.RegisterReads : Prop :=
  (∀ (s : State) (h : Nat) (n : BitVec 12) (d : BitVec 5) (lv : Nat × Nat), s.agent = .scalar h →
    regLevels n.toNat = some lv → lv.1 ≤ (s.hart h).plev.toNat → (s.hart h).full [d] [] →
    ((n = 2 ∨ n = 3) → (s.hart h).vectorIdle = true ∧ (s.hart h).settled = true) → (n = 0x483 → (s.hart h).settled = true) →
    let r := readReg n.toNat h s
    exec (.crd n d) s = .next (r.2.moved h ((r.2.hart h).putS d r.1))) ∧
  (∀ (s : State) (h : Nat), ∀ e ∈ Claims.readTable s h, readReg e.1 h s = (e.2, s)) ∧
  (∀ (s : State) (h : Nat) (n : BitVec 12) (d : BitVec 5), s.agent = .scalar h → Claims.mayTrap (s.hart h) →
    (regLevels n.toNat = none →
      Claims.Enters s h 0x01 (BitVec.ofNat 64 (crdWord n d)) 0 (s.hart h).pc (exec (.crd n d) s)) ∧
    ∀ lv, regLevels n.toNat = some lv → (s.hart h).plev.toNat < lv.1 →
      Claims.Enters s h 0x13 (BitVec.ofNat 64 (crdWord n d)) 0 (s.hart h).pc (exec (.crd n d) s))

/-- Writes that touch only the hart: the register, the least level, and the hart after a write of v (R99, R100, R126,
R155, R331, R354, R413). -/
def Claims.writeTable (v : Word) : List (Nat × Nat × (Hart → Hart)) :=
  [ (0x002, 0, fun H => { H with srkey := v }), (0x003, 0, fun H => { H with regs := { H.regs with srctr := v } }),
    (0x005, 0, fun H => { H with swake := v }),
    (0x000, 0, fun H => if v.toNat % 8 ≤ 4 then { H with frm := v.setWidth 3 } else H),
    (0x100, 1, fun H => { H with vec := { H.vec with len := v } }), (0x101, 1, fun H => { H with vec := { H.vec with rows := v } }),
    (0x103, 1, fun H => { H with vec := { H.vec with estart := v } }), (0x104, 1, fun H => { H with vec := { H.vec with vpc := v } }),
    (0x301, 1, fun H => { H with group := { H.group with gsel := v.setWidth 8 } }),
    (0x300, 1, fun H => { H with group := { H.group with wo := v.getLsbD 32 } }) ] ++
  [ (0x380, 1, fun H => { H with trap := { H.trap with tvec := v &&& 0xFFFFFFFFFFFFFFFC#64 } }),
    (0x381, 1, fun H => { H with trap := { H.trap with tpc := v } }),
    (0x384, 1, fun H => { H with trap := { H.trap with tcause := v.setWidth 8 } }),
    (0x385, 1, fun H => { H with trap := { H.trap with tval := v } }),
    (0x387, 1, fun H => if v.toNat % 4 = 3 then H else { H with trap := { H.trap with ppl := v.setWidth 2 } }),
    (0x389, 1, fun H => { H with trap := { H.trap with tscratch := v } }),
    (0x382, 1, fun H => if H.trap.tva then { H with trap := { H.trap with tvpc := v } } else H),
    (0x383, 1, fun H => if H.trap.tva then { H with trap := { H.trap with telem := v } } else H),
    (0x4F0, 1, fun H => { H with obs := { H.obs with stpa := v &&& 0x80FFFFFFFFFFFFFC#64 } }),
    (0x4F1, 1, fun H => { H with obs := { H.obs with stpe := v &&& 0xFFFF#64 } }) ]

/-- What lets a write of register n by a hart go ahead: the level, the idle vector side for the registers of the vector
stream but vst, prot, srkey and srctr, every branch confirmed for the last two, no access at a peer and no event update
whose turn has come for a save (R27, R104, R106, R158, R311, R348, R399). -/
def Claims.mayWrite (H : Hart) (n : Nat) : Prop :=
  (∃ lv, regLevels n = some lv ∧ lv.2 ≤ H.plev.toNat) ∧ (needsIdle n = true ∨ n = 2 ∨ n = 3 → H.vectorIdle = true) ∧
  (n = 2 ∨ n = 3 → H.settled = true) ∧
  (n = 0x392 → H.owes (fun _ => true) = false ∧ H.updates.any (fun u => H.reached u.ticket) = false)

/-- cwr of an assigned register at its level completes once its registers are full and every branch is confirmed: the
register is written with s[a], and s[d] takes the old value, one entry of the replay queue noting both (R126, R396); a register of the vector stream but vst, and prot,
traps with cause 0x07 and the number while the vector side is not idle (R158, R399). The listed writes change the hart as the table says. -/
def Obligations.RegisterWrites : Prop :=
  (∀ (s : State) (h : Nat) (n : BitVec 12) (x : BitVec 1) (a d : BitVec 5), s.agent = .scalar h →
    (s.hart h).settled = true → (s.hart h).full [a, d] [] → Claims.mayWrite (s.hart h) n.toNat →
    let r := readReg n.toNat h s
    ∃ t, writeReg n.toNat ((s.hart h).regs.readS a) h r.2 = .ok () t ∧
      exec (.cwr n x a d) s = .next (if (t.hart h).alive then
        t.moved h { t.hart h with regs := ((t.hart h).regs.writeS d r.1).note [48 + n.toNat, d.toNat] } else t)) ∧
  (∀ (s : State) (h : Nat) (v : Word), ∀ e ∈ Claims.writeTable v, Claims.mayWrite (s.hart h) e.1 →
    writeReg e.1 v h s = .ok () (s.setHart h (e.2.2 (s.hart h))) ∧ (regLevels e.1).map (fun l => l.2) = some e.2.1) ∧
  (∀ (s : State) (h : Nat) (n : BitVec 12) (x : BitVec 1) (a d : BitVec 5) (lv : Nat × Nat), s.agent = .scalar h →
    Claims.mayTrap (s.hart h) → regLevels n.toNat = some lv → (s.hart h).full [a, d] [] →
    (lv.2 ≤ (s.hart h).plev.toNat → needsIdle n.toNat = true → (s.hart h).vectorIdle = false →
      Claims.Enters s h 0x07 (n.setWidth 64) 0 (s.hart h).pc (exec (.cwr n x a d) s)) ∧
    ((s.hart h).plev.toNat < lv.2 →
      Claims.Enters s h 0x13 (BitVec.ofNat 64 (cwrWord n x a d)) 0 (s.hart h).pc (exec (.cwr n x a d) s)))

/-- The events that write a register of the hart itself complete with the effect of the write (R100, R126, R155, R158,
R350, R356, R399, R413): the flags, set while the hart is in a trap at kernel level and otherwise cleared where v has
ones; the shape, whose write traps while the vector side is not idle; prot, which keeps the lower halves of the registers when it changes; cpark; the trace and sample
registers; any register of the table. -/
def Claims.HartRegisterEvents : Prop :=
  ∀ (s : State) (h : Nat) (v : Word),
    let H := s.hart h
    let flags (old : BitVec 5) := if H.trap.ts = true ∧ 1 ≤ H.plev.toNat then v.setWidth 5 else old &&& ~~~(v.setWidth 5)
    exec (.flagRestoreWrite h 0x001 v) s = .next (s.setHart h { H with regs := { H.regs with fst := flags H.regs.fst } }) ∧
    exec (.flagRestoreWrite h 0x105 v) s = .next (s.setHart h { H with vec := { H.vec with vst := flags H.vec.vst } }) ∧
    (∀ e ∈ Claims.writeTable v, Claims.mayWrite H e.1 →
      exec (.genericRegisterWrite h e.1 v) s = .next (s.setHart h (e.2.2 H)) ∧
      (e.1 ∈ [0x100, 0x101, 0x103, 0x104] → exec (.vectorShapeWrite h e.1 v) s = .next (s.setHart h (e.2.2 H)))) ∧
    (1 ≤ H.plev.toNat → H.vectorIdle = false → Claims.mayTrap H → ∀ n ∈ [0x100, 0x101, 0x102, 0x103, 0x104, 0x106],
      Claims.Enters s h 0x07 (BitVec.ofNat 64 n) 0 H.pc (exec (.vectorShapeWrite h n v) s)) ∧
    (1 ≤ H.plev.toNat → H.vectorIdle = true →
      exec (.vectorShapeWrite h 0x102 v) s =
        .next (s.setHart h { H with vec := { H.vec with fmt := v &&& 0x8000000000001FFF#64 } }) ∧
      exec (.vectorShapeWrite h 0x106 v) s =
        .next (s.setHart h { H with vec := { H.vec with vdirty := v &&& 0x8000007FFFFFFFFF#64 } }) ∧
      (v.getLsbD 0 = H.obs.prot → exec (.protWrite h v) s = .next (s.setHart h H)) ∧
      (v.getLsbD 0 ≠ H.obs.prot → ∃ H', exec (.protWrite h v) s = .next (s.setHart h H') ∧ H'.obs.prot = v.getLsbD 0 ∧
        (∀ r : Fin 32, H'.vec.v[r] = H.vec.v[r] &&& BitVec.ofNat 16384 (2 ^ 8192 - 1)) ∧
        H'.vec.len.toNat ≤ H.vec.len.toNat ∧ H'.vec.rows = H.vec.rows ∧ H'.vec.fmt = H.vec.fmt ∧ H'.regs = H.regs ∧
        H'.trap = H.trap ∧ H'.pc = H.pc)) ∧
    (1 ≤ H.plev.toNat →
      exec (.cparkOffer h v) s = .next (s.setCore (h / 4) { s.core (h / 4) with cpark := v.getLsbD 0 }) ∧
      exec (.smpcfgWrite h 0x4E8 v) s = .next (s.setHart h (H.writeTrcfg v)) ∧
      exec (.smpcfgWrite h 0x4E0 v) s = .next (s.setHart h (H.writeSmpcfg v)) ∧
      (v.getLsbD 63 = true → H.obs.smpcfg.getLsbD 63 = false →
        ((H.writeSmpcfg v).obs.smpcfg = v &&& 0x83E0FFFF00000000#64 ∧ (H.writeSmpcfg v).obs.smpCnt = 0)) ∧
      (v.getLsbD 63 = false → (H.writeTrcfg v).obs.trcfg.setWidth 32 = H.obs.trcfg.setWidth 32)) ∧
    exec (.sampleTraceAcquireRead h 0x4E8) s = .next s ∧ exec (.sampleTraceAcquireRead h 0x4E0) s = .next s

/-- The events that write a register of the core, its quarter or the device complete, at their level (R79, R291, R314,
R386, R391, R393, R394, R402 to R408, R413). rtcore retires a core that holds no launch at once and another when its
launch has left; under host-recovered errors the host decides (R421), and while its event queue is full the write waits (R422):
the detail 2 ^ 63 + core of that event is the model's
choice (assumption 58, DESIGN CHOICE), and that evsel, jrsel, ensel and elsel are one register each for the device is its reading
(assumption 16, DEDUCED). -/
def Claims.DeviceRegisterEvents : Prop :=
  ∀ (s : State) (h : Nat) (v : Word), 1 ≤ (s.hart h).plev.toNat →
    let c := h / 4
    let m := s.mm.mig
    (∀ l, l < 64 →
      let Q := { s.queueAt l with cfg := v &&& 0xFFFF8000#64 }
      exec (.lqcfgWrite h l v) s =
        .next (if (s.queueAt l).en && !Q.en then refuseAll l (s.setQueue l Q) else s.setQueue l Q)) ∧
    exec (.evbaseWrite h v) s = .next { s with evbase := tput s.evbase s.evsel.toNat (v &&& 0x00FFFFFFFFFC0001#64) } ∧
    exec (.accpsnWrite h v) s = .next (s.setCore c { s.core c with accpsn := v.setWidth 4 }) ∧
    (v.getLsbD 63 = false → ∃ J, exec (.jrcfgWrite h v) s = .next (s.setJournal s.journal.sel.toNat J) ∧
      J.enabled = false ∧ J.base = (s.journalAt s.journal.sel.toNat).base ∧
      ((s.journalAt s.journal.sel.toNat).enabled = false → J.ctx = bits v 32 12)) ∧
    (v.getLsbD 63 = true → (s.journalAt s.journal.sel.toNat).enabled = true → exec (.jrcfgWrite h v) s = .next s) ∧
    (v.getLsbD 63 = true → (s.journalAt s.journal.sel.toNat).enabled = false → 4 ≤ bits v 0 5 → bits v 0 5 ≤ 24 →
      ∃ t, exec (.jrcfgWrite h v) s = .next t ∧
        (let J := t.journalAt s.journal.sel.toNat
         J.enabled = true ∧ J.ctx = bits v 32 12 ∧ J.lsz = bits v 0 5 ∧ J.fin = 0 ∧ J.dw = 0 ∧ J.tr = 0)) ∧
    (∀ n : Fin 4,
      let t := { s with journal := { s.journal with cand := s.journal.cand.set n (v &&& 0x80000000000FFFFF#64) } }
      (s.journal.ref = false → (s.journal.tail ≠ none ∨ ∀ j : Fin 16, s.journal.jrn[j].enabled = false) →
        exec (.jrcandWrite h n v) s = .next t) ∧
      (s.portUp (bits v 16 4) = false → exec (.jrcandWrite h n v) s = .next t) ∧
      (s.journal.ref = true → s.portUp (bits v 16 4) = true → (∀ i, t.candOk i = false) →
        exec (.jrcandWrite h n v) s = .next { t with journal := { t.journal with ref := false } })) ∧
    exec (.ltermWrite h v) s = .next (terminateCore (bits v 0 16) s) ∧
    (2 ≤ (s.hart h).plev.toNat → bits v 0 16 < 256 →
      let k := bits v 0 16
      (s.handsOver 4 = true →
        let t := wantHost 5 (BitVec.ofNat 192 (2 ^ 63 + k)) s
        exec (.rtcoreWrite h v) s = .next (if 64 ≤ s.trust.hostq.length then { t with blocked := true } else t)) ∧
      (s.handsOver 4 = false → s.launchOn k = none →
        exec (.rtcoreWrite h v) s = .next (s.setCore k { s.core k with retired := true })) ∧
      (s.handsOver 4 = false → ∀ n L, s.launchOn k = some n → s.launchAt n = some L →
        exec (.rtcoreWrite h v) s = .next (s.setCore k { s.core k with retiring := some L.order }))) ∧
    exec (.rtqPop h) s = .next { s with retire := { s.retire with rtq := s.retire.rtq.drop 1 } } ∧
    (m.busy = false → v.getLsbD 62 = false → exec (.rtmigGo h v) s = .next (s.setMem { s.mm with
      mig := { m with size := BitVec.ofNat 3 (bits v 53 3), busy := true, done := false, mw := 0 } })) ∧
    (m.busy = true → v.getLsbD 62 = false → exec (.rtmigGo h v) s = .next s) ∧
    (v.getLsbD 63 = false → ∃ t, exec (.rtmigEnd h v) s = .next t ∧ t.mm.mig.busy = false ∧ t.mm.mig.done = false ∧
      t.mm.mig.size = BitVec.ofNat 3 (bits v 53 3) ∧ t.mm.mig.old = m.old ∧ t.mm.mig.new = m.new ∧ t.mm.cells = s.mm.cells) ∧
    (v.getLsbD 63 = true → (s.elsel.toNat % 16 < 10) → ∃ t, exec (.elstatClear h v) s = .next t ∧
      t.logs.toList = s.logs.toList.set (s.elsel.toNat % 16) ⟨[], 0⟩ ∧ t.elsel = s.elsel ∧ t.mm = s.mm) ∧
    (∀ n, n < 8 → ∃ C, exec (.pmcWrite h n v) s = .next { s.setCore c C with wrote := (8 * c + n) :: s.wrote } ∧ C.pmc.toList = (s.core c).pmc.toList.set n (v.setWidth 48) ∧
      C.pmsel = (s.core c).pmsel ∧ C.pmovf = (s.core c).pmovf) ∧
    exec (.energyWrite h v) s = .next { s with
      energy := { s.energy with
        counts := tput s.energy.counts s.energy.ensel.toNat ⟨v.setWidth 48, false, 0, s.energy.epoch⟩ }
      wrote := (2048 + s.energy.ensel.toNat) :: s.wrote }

/-- The events that write a control register (R99 to R425). -/
def Obligations.RegisterEvents : Prop := Claims.HartRegisterEvents ∧ Claims.DeviceRegisterEvents

/-- A pre-emption request and its end (R342): preq sets, or clears, PRQ of exactly the harts of its context in its
domain that hold work; the quarters that the domain reaches hold the context back, with their near-bank units, or let it go;
memory stays. -/
def Claims.PreemptionRequests : Prop :=
  ∀ (s : State) (h : Nat) (v : Word), 1 ≤ (s.hart h).plev.toNat →
    let ctx := bits v 0 12
    let dom := bits v 12 2
    let asked (g : Nat) : Bool := inDomain dom h g && (s.hart g).place.lctx.toNat == ctx &&
      (s.hart g).status != .idle && (s.hart g).status != .retired
    (∃ t, exec (.preqRequest h v) s = .next t ∧ t.mm = s.mm ∧
      (∀ g, t.hart g = if asked g then { s.hart g with trap := { (s.hart g).trap with prq := true } } else s.hart g) ∧
      (∀ q, q < 4 → (t.scheduler q).holds =
        if reachesQuarter h dom q && (s.scheduler q).tasks.any (fun T => T.ctx == ctx) then ninsert (s.scheduler q).holds ctx
        else (s.scheduler q).holds) ∧
      ∀ u, (t.unit u).holds =
        if reachesQuarter h dom (u / 128) && (s.unit u).jobs.any (fun J => J.ctx == ctx) then ninsert (s.unit u).holds ctx
        else (s.unit u).holds) ∧
    ∃ t, exec (.preqResume h v) s = .next t ∧ t.mm = s.mm ∧
      (∀ g, t.hart g = if asked g then { s.hart g with trap := { (s.hart g).trap with prq := false } } else s.hart g) ∧
      (∀ q, q < 4 → (t.scheduler q).holds =
        if reachesQuarter h dom q then (s.scheduler q).holds.filter (fun c => c != ctx) else (s.scheduler q).holds) ∧
      ∀ u, (t.unit u).holds =
        if reachesQuarter h dom (u / 128) then (s.unit u).holds.filter (fun c => c != ctx) else (s.unit u).holds

/-- ximg and xld (R348, R349). A save outside a trap or with work in the vector queue leaves code 0x07, one to an address
off 64 bytes 0x04; otherwise, once the span may be written, the image is written, the frozen set, the bindings, streams
and channels are as at hart start, and the hart is parked in its launch. A load likewise leaves 0x07, also while a channel holds a
copy, 0x04, the cause of a failed read or 0x14; a well-formed image of a parked hart is loaded: its queue entries, masks and frozen instance. -/
def Claims.ContextImages : Prop :=
  ∀ (s : State) (h : Nat) (v : Word), 1 ≤ (s.hart h).plev.toNat →
    let H := s.hart h
    let saved (c : Nat) := s.setHart h { H with trap := { H.trap with ximg := BitVec.ofNat 64 c } }
    let loaded (c : Nat) (t : State) := t.setHart h { t.hart h with trap := { (t.hart h).trap with xld := BitVec.ofNat 64 c } }
    (H.owes (fun _ => true) = false → H.updates.any (fun u => H.reached u.ticket) = false →
      (H.trap.ts = false ∨ H.vectorIdle = false → exec (.ximgSave h v) s = .next (saved 0x07)) ∧
      (H.trap.ts = true → H.vectorIdle = true → v.toNat % 64 ≠ 0 → exec (.ximgSave h v) s = .next (saved 0x04)) ∧
      (H.trap.ts = true → H.vectorIdle = true → v.toNat % 64 = 0 → ∀ s2,
        let s1 := forceAll h s
        checkSpan (s1.who h) (spanPages imageBytes) v.toNat imageBytes s1 = .ok () s2 →
        ∃ t, exec (.ximgSave h v) s = .next t ∧
          t.mm = (writeImage (s2.who h) (spanPages imageBytes) v.toNat imageBytes (imageOf h (s2.hart h)) s2).mm ∧
          (t.hart h).trap.ximg = 0 ∧ (t.hart h).trap.vf = false ∧ (t.hart h).vec.frozen = none ∧
          (t.hart h).vec.queue = [] ∧ (t.hart h).binds = [] ∧ (t.hart h).chans = Vector.replicate 32 Channel.initial ∧
          (t.hart h).streams = Vector.replicate 16 StreamState.initial ∧
          ∀ L, t.launchAt (t.hart h).place.launch = some L → h ∈ L.parked)) ∧
    (H.trap.ts = false ∨ H.trap.vf = true ∨ H.vectorIdle = false ∨ (∃ c : Fin 32, H.chans[c].copies ≠ []) → exec (.xldLoad h v) s = .next (loaded 0x07 s)) ∧
    (H.trap.ts = true → H.trap.vf = false → H.vectorIdle = true → (∀ c : Fin 32, H.chans[c].copies = []) →
      (v.toNat % 64 ≠ 0 → exec (.xldLoad h v) s = .next (loaded 0x04 s)) ∧
      (v.toNat % 64 = 0 →
        (∀ c t s1, readImage (s.who h) (spanPages imageBytes) v.toNat imageBytes s = .trap c t s1 →
          exec (.xldLoad h v) s = .next (loaded c s1)) ∧
        (∀ img s1, readImage (s.who h) (spanPages imageBytes) v.toNat imageBytes s = .ok img s1 →
          (imageOk h img = false ∨ imageLaunch h img s1 = none → exec (.xldLoad h v) s = .next (loaded 0x14 s1)) ∧
          (∀ n L, imageOk h img = true → imageLaunch h img s1 = some (n, L) →
            ∃ t, exec (.xldLoad h v) s = .next t ∧ (t.hart h).trap.xld = 0 ∧ (t.hart h).place.launch = n ∧
              (t.hart h).vec.queue.length = fieldBits img 0 0 5 ∧
              (∀ (i : Nat) (e : QEntry), (t.hart h).vec.queue[i]? = some e →
                let o := 19072 + 80 * i
                e.word = BitVec.ofNat 32 (field img o 4) ∧ e.a = BitVec.ofNat 64 (field img (o + 8) 8) ∧
                e.b = BitVec.ofNat 64 (field img (o + 16) 8) ∧
                ∀ k : Fin 8, e.g[k] = BitVec.ofNat 64 (field img (o + 16 + 8 * k.val) 8)) ∧
              ((t.hart h).trap.tva = true ↔ fieldBits img 0 8 1 = 1) ∧
              (fieldBits img 0 8 1 = 0 → (t.hart h).vec.frozen = none) ∧
              (fieldBits img 0 8 1 = 1 → ∃ b, (t.hart h).vec.frozen = some b ∧
                b.path = BitVec.ofNat 16384 (field img 128 2048) ∧ b.spilled = fieldBits img 0 16 8 ∧
                b.offcut.length = fieldBits img 0 12 4 ∧ b.scanS = BitVec.ofNat 32 (fieldBits img 0 192 32) ∧
                b.scanK = BitVec.ofNat 8 (fieldBits img 0 224 8) ∧
                (t.hart h).trap.tvpc = BitVec.ofNat 64 (fieldBits img 0 64 64) ∧
                (t.hart h).trap.telem = BitVec.ofNat 64 (fieldBits img 0 128 64)) ∧
              (∀ m : Fin 7, (t.hart h).vec.m[m.val + 1] = BitVec.ofNat 16384 (field img (20352 + 2048 * m.val) 2048))))))

/-- Pre-emption requests and context images (R342 to R350). -/
def Obligations.ContextSwitching : Prop := Claims.PreemptionRequests ∧ Claims.ContextImages

/-! ## Errors and observation (R365, R396 to R412) -/

/-- A scrubber with its interval set reads its unit (R401, R402): what it finds is free, and an uncorrectable unit of
memory is poisoned, a sector that the L2 holds is marked; an interval of 0 switches it off. An access that meets such an
error is the same read on level l + 8, whatever the interval, which is the model's choice (assumption 76). A line whose
sector leaves the L2 with an error goes: its 64 bytes are poisoned in memory when the sector is dirty, and it is dropped when
it is clean (R401; that a sector poisons the whole line is assumption 69). No byte of memory changes. -/
def Claims.PoisonSources : Prop :=
  (∀ (s : State) (l a n : Nat), scrubUnit l a = some n →
    ∃ t, exec (.scrubRead l a) s = .next t ∧ t.harts = s.harts ∧ t.mm.cells = s.mm.cells ∧
      (∀ hl : 1 ≤ l ∧ l ≤ 6, s.retire.scrub[l - 1] = 0 → t = s) ∧
      (∀ hl : 1 ≤ l ∧ l ≤ 6, s.retire.scrub[l - 1] ≠ 0 →
        (Config.freeBool s.free = false ∨ Config.freeBool (s.free + 1) = false → t.mm.poison = s.mm.poison) ∧
        (Config.freeBool s.free = true → Config.freeBool (s.free + 1) = true →
          t.mm.poison = (addPoison s.mm (a / n * n) n).poison))) ∧
  (∀ (s : State) (l a : Nat) (hl : 1 ≤ l ∧ l ≤ 6), s.retire.scrub[l - 1] ≠ 0 →
    exec (.scrubRead (l + 8) a) s = exec (.scrubRead l a) s) ∧
  (∀ (s : State) (a : Nat) (line : L2Line), tfind s.mm.l2 (a / 64) = some line → line.valid.getLsbD (a / 16 % 4) = true →
    s.retire.scrub[3] ≠ 0 →
    ∃ t, exec (.scrubRead 4 a) s = .next t ∧ t.harts = s.harts ∧ t.mm.cells = s.mm.cells ∧ t.mm.poison = s.mm.poison ∧
      (Config.freeBool s.free = true → Config.freeBool (s.free + 1) = true →
        tfind t.mm.l2 (a / 64) = some { line with bad := putBit line.bad (a / 16 % 4) true })) ∧
  ∀ (s : State) (a : Nat),
    (tfind s.mm.l2 (a / 64) = none → exec (.l2EvictionPoison a) s = .next s) ∧
    ∀ line, tfind s.mm.l2 (a / 64) = some line →
      (line.valid.getLsbD (a / 16 % 4) = false → exec (.l2EvictionPoison a) s = .next s) ∧
      (line.valid.getLsbD (a / 16 % 4) = true →
        ∃ t, exec (.l2EvictionPoison a) s = .next t ∧ t.mm.cells = s.mm.cells ∧ tfind t.mm.l2 (a / 64) = none ∧
          (∀ h, (t.hart h).regs = (s.hart h).regs ∧ (t.hart h).vec = (s.hart h).vec) ∧
          (line.hurt = 0 → line.dirty.getLsbD (a / 16 % 4) = false → t.mm.poison = s.mm.poison) ∧
          (line.dirty.getLsbD (a / 16 % 4) = true → poisoned t.mm false (a / 64 * 64) 64 = true))

/-- A parity error at a register as it is read is repaired when one of the last sixteen writers wrote it and its entry is good,
which is free, and otherwise owes a machine check, once every branch is confirmed; one at an entry of a queue or table is
repaired or owes a check (R395, R396, R398). An error in a part of an array of the lanes, as it is consumed, is repaired while
the operand buffer of the instruction that wrote it stands and owes a check otherwise; a disagreement of mirrored lanes in a group
that they compute is repaired or owes one (R397, R399). A repair counts as one (R406). The registers themselves stay, and a check that is owed already stays. The numbers of registers and parts,
the location in tval, the level 9 of an entry and the buffer that stands are the model's (assumption 47). -/
def Claims.RegisterErrors : Prop :=
  ∀ (s : State) (h : Nat), (s.hart h).alive = true →
    let H := s.hart h
    let fixed : Hart := H.tallied (fun t => { t with fixed := t.fixed + 1 })
    let owed (level loc : Nat) : Hart := { H with mcheck := H.mcheck.or (some (BitVec.ofNat 64 (level * 2 ^ 60 + loc % 65536))) }
    (∀ r, parityMet h r s = false → exec (.registerParityReplay h r) s = .next s) ∧
    (∀ r, parityMet h r s = true → ∃ t, exec (.registerParityReplay h r) s = .next t ∧ t.mm = s.mm ∧
      (r < 2 ^ 13 → Config.freeBool s.free = true → (∃ e ∈ H.regs.replay, replayOf r ∈ e) → t.hart h = fixed) ∧
      (r < 2 ^ 13 → Config.freeBool s.free = false ∨ (∀ e ∈ H.regs.replay, replayOf r ∉ e) →
        t.hart h = if H.settled then owed 0 r else H) ∧
      (2 ^ 13 ≤ r → t.hart h = if Config.freeBool s.free then fixed else owed 9 (r - 2 ^ 13))) ∧
    (∀ r e, H.vec.inst ≠ none → ∃ t, exec (.laneReexecute h r e) s = .next t ∧ t.mm = s.mm ∧
      (consumes h r e s = false → t = s) ∧
      (consumes h r e s = true → t.hart h = if H.bufferStands r e then fixed else owed 0 (laneLoc r e))) ∧
    (∀ e, e < 64 → H.obs.prot = true → H.vec.inst ≠ none → ∃ t, exec (.protectedModeMismatch h e) s = .next t ∧ t.mm = s.mm ∧
      (groupComputed h e s = false → t = s) ∧
      (groupComputed h e s = true → t.hart h = if Config.freeBool s.free then owed 0 e else fixed))

/-- While a region migrates, MIGRATION_GRANULE copies the 64 bytes at the watermark to the same place of the new region
and raises the watermark by 64; the last one sets DONE (R365, R405). -/
def Claims.MigrationCopies : Prop :=
  ∀ (s : State), s.mm.mig.busy = true →
    let m := s.mm.mig
    ∃ t, exec .migrationGranule s = .next t ∧ t.mm.mig.mw = m.mw + 64 ∧ t.mm.mig.old = m.old ∧ t.mm.mig.new = m.new ∧
      (∀ i, i < 64 → byteAt t.mm.cells (m.new.toNat + m.mw + i) = byteAt s.mm.cells (m.old.toNat + m.mw + i)) ∧
      (∀ k, k < m.new.toNat + m.mw ∨ m.new.toNat + m.mw + 64 ≤ k → byteAt t.mm.cells k = byteAt s.mm.cells k) ∧
      (m.mw + 64 < m.bytes → t.mm.mig.busy = true) ∧ (m.bytes ≤ m.mw + 64 → t.mm.mig.busy = false ∧ t.mm.mig.done = true)

/-- Errors and page migration (R365, R396 to R405). -/
def Obligations.ErrorsArise : Prop := Claims.PoisonSources ∧ Claims.RegisterErrors ∧ Claims.MigrationCopies

/-- Events of a core are counted by each of its counters that selects them and their context, modulo 2 ^ 48, but for one written in
the step, and a wrap sets the bit of pmovf; every event of a class charges its weight to the count of its context (R406 to R408). A
counter of an event whose number is open wraps to 0 and sets its bit, and as it is read holds what it held and a free number of
events more, while any other reads as it stands (R406, R407; which numbers are open is assumption 57, DESIGN CHOICE). A record that waits goes to its ring, which moves on by one, with a free delay added to trdly; a full trace ring that does
not wrap drops it, and one that may be of a wrong path waits (R409 to R411). -/
def Claims.RecordsAreWritten : Prop :=
  (∀ (s : State) (c e m : Nat) (ctx : Option Nat) (n : Fin 8),
    let C := s.core c
    let K := (countEvent c ctx e m s).core c
    (C.event n = e → C.counted ctx = true → s.wrote.contains (8 * c + n.val) = false →
      K.pmc[n].toNat = (C.pmc[n].toNat + m) % 2 ^ 48 ∧ (2 ^ 48 ≤ C.pmc[n].toNat + m → K.pmovf.getLsbD n = true)) ∧
    (C.event n ≠ e ∨ C.counted ctx = false ∨ s.wrote.contains (8 * c + n.val) = true →
      K.pmc[n] = C.pmc[n] ∧ K.pmovf.getLsbD n = C.pmovf.getLsbD n)) ∧
  (∀ (s : State) (ctx c m : Nat),
    let e := s.energy.of ctx
    let e' := (chargeEvents ctx c m s).energy.of ctx
    (s.wrote.contains (2048 + ctx) = true → e' = e) ∧
    (s.wrote.contains (2048 + ctx) = false → 0 < m → s.energy.weight c ≠ 0 →
      let v := e.count.toNat + (e.acc + m * (s.energy.weight c).toNat) / 10 ^ 6
      e'.acc = (e.acc + m * (s.energy.weight c).toNat) % 10 ^ 6 ∧ e'.count.toNat = min v (2 ^ 48 - 1) ∧
        e'.sat = (e.sat || decide (2 ^ 48 ≤ v)))) ∧
  (∀ (s : State) (c n : Nat), c < 256 → n < 8 → (s.core c).counts n = true → ∃ C, exec (.counterOverflow c n) s =
    .next (s.setCore c C) ∧ C.pmc.toList = (s.core c).pmc.toList.set n 0 ∧ C.pmovf = putBit (s.core c).pmovf n true ∧
    C.pmsel = (s.core c).pmsel ∧ C.acc = (s.core c).acc) ∧
  (∀ (s : State) (c : Nat) (n : Fin 8),
    let old := (s.core c).pmc[n].toNat
    ((s.core c).counts n = false → readPmc c n s = (BitVec.ofNat 64 old, s)) ∧
    ((s.core c).counts n = true → ∃ m, m < 2 ^ 48 ∧ (readPmc c n s).1 = BitVec.ofNat 64 ((old + m) % 2 ^ 48) ∧
      (2 ^ 48 ≤ old + m → (((readPmc c n s).2.core c).pmovf.getLsbD n) = true))) ∧
  (∀ (s : State) (h : Nat),
    ((s.hart h).obs.samples = [] → exec (.sampleRecordWrite h) s = .next s) ∧
    ∀ r rest l s2, (s.hart h).obs.samples = r :: rest →
      accessBy (recordWho h s) (ringAddr (s.hart h).obs.smpbase (s.hart h).obs.smpcfg 64) 64 .write
        (recordDelay h (s.setHart h { s.hart h with obs := { (s.hart h).obs with samples := rest } })) = .ok l s2 →
      let s3 := writeLoc (recordWho h s) l r.toNat s2
      exec (.sampleRecordWrite h) s = .next (s3.setHart h { s3.hart h with obs := { (s3.hart h).obs with
        smpcfg := bumpNext (s3.hart h).obs.smpcfg } })) ∧
  ∀ (s : State) (h : Nat),
    let H := s.hart h
    (H.obs.traces = [] → exec (.traceRecordWrite h) s = .next s) ∧
    ∀ r rest, H.obs.traces = r :: rest →
      (H.mayCancel r = true → exec (.traceRecordWrite h) s = .next s) ∧
      (H.mayCancel r = false → ringFull H.obs.trcfg = true → exec (.traceRecordWrite h) s =
        .next (s.setHart h { H with obs := { H.obs with traces := rest, trdrop := H.obs.trdrop + 1 } })) ∧
    ∀ l s2, H.mayCancel r = false → ringFull H.obs.trcfg = false →
      accessBy (recordWho h s) (ringAddr H.obs.trbase H.obs.trcfg 16) 16 .write
        ({ s with free := s.free + 1 }.setHart h { H with obs := { H.obs with
          traces := rest, trdly := H.obs.trdly + (Config.freeWord s.free).setWidth 48 } }) = .ok l s2 →
      let s3 := writeLoc (recordWho h s) l r.word s2
      exec (.traceRecordWrite h) s = .next (s3.setHart h { s3.hart h with obs := { (s3.hart h).obs with
        trcfg := bumpNext (s3.hart h).obs.trcfg } })

/-- A stop fires when the block instance stands dispatched at the named word and element, which its sweep has come to: the
hart traps with cause 0x0D and the element as tval before the element is performed, and stpa.EN clears (R412). An asynchronous cause that may be taken
comes before it (R332). Elsewhere nothing happens. -/
def Claims.StopFires : Prop :=
  ∀ (s : State) (h : Nat),
    let H := s.hart h
    let at' := H.stopUnit (H.vec.liveUnits H.obs.prot)
    (H.alive = true → Claims.mayTrap H → H.vec.inst ≠ none → H.vec.armed = true → at' = some H.vec.estart.toNat →
      H.asyncFirst = false →
      let u := leaveWait h (s.setHart h { H with obs := { H.obs with stpa := putBit H.obs.stpa 63 false } })
      ∃ H', exec (.stopFire h) s = .next (u.setHart h H') ∧
        Claims.Entered (u.hart h) H' 0x0D (BitVec.ofNat 64 (bits H.obs.stpe 0 16)) (BitVec.ofNat 64 (2 ^ 60)) H.pc ∧
        H'.obs.stpa = putBit H.obs.stpa 63 false) ∧
    (H.vec.inst = none ∨ H.vec.armed = false ∨ at' ≠ some H.vec.estart.toNat ∨ H.asyncFirst = true →
      exec (.stopFire h) s = .next s)

/-- Counters, records and stops (R406 to R412). -/
def Obligations.RecordsAndStops : Prop := Claims.RecordsAreWritten ∧ Claims.StopFires

/-! ## The vector queue (R104, R152, R166 to R170, R235 to R241, R244) -/

/-- The class Q instructions with what each captures as it is issued: the registers read, the destination, the two values
kept in the entry. -/
def Claims.queued (H : Hart) (y x : BitVec 1) (b a d : BitVec 5) (i : BitVec 13) (q : BitVec 4) (k : BitVec 3) :
    List (Instr × Nat × List (BitVec 5) × BitVec 5 × Word × Word) :=
  let u := H.regs.readS a
  let v := H.regs.readS b
  [ (.setlen y x b a d, setlenWord y x b a d, [a, b], d, u, v), (.setrows x a d, setrowsWord x a d, [a], d, u, 0),
    (.setfmt x a d, setfmtWord x a d, [a], d, u, 0), (.setfmti i d, setfmtiWord i d, [], d, 0, 0),
    (.vdrain, vdrainWord, [], 0, 0, 0), (.vstat d, vstatWord d, [], d, 0, 0),
    (.hwpub y x b a, hwpubWord y x b a, [a, b], 0, u, v), (.qpat x a q, qpatWord x a q, [a], 0, u, 0),
    (.vbind x k a d, vbindWord x k a d, [a], 0, u, 0), (.vunbind d, vunbindWord d, [], 0, 0, 0),
    (.qstat q d, qstatWord q d, [], d, 0, 0) ]

/-- A class Q instruction is issued once every branch is confirmed, its registers are full and the queue has room: one
entry with its captured values joins the queue, its destination becomes empty and the stream goes on (R101, R104, R152).
cp.lay likewise, and its channel counts from then on as laid out (R246). -/
def Obligations.QueuedIssue : Prop :=
  ∀ (s : State) (h : Nat) (y x : BitVec 1) (b a d : BitVec 5) (i : BitVec 13) (q : BitVec 4) (k : BitVec 3),
    s.agent = .scalar h → (s.hart h).settled = true → (s.hart h).activeQueue.length < (s.hart h).queueRoom →
    let H := s.hart h
    let issued (word : Nat) (dst : BitVec 5) (u v : Word) : Hart := ((H.markS dst).enqueue
      { word := BitVec.ofNat 32 word, a := u, b := v, g := Vector.replicate 8 0, scanS := 0, scanK := 0, binds := [] })
    (∀ e ∈ Claims.queued H y x b a d i q k, H.full (e.2.2.2.1 :: e.2.2.1) [] →
      exec e.1 s = .next (s.moved h (issued e.2.1 e.2.2.2.1 e.2.2.2.2.1 e.2.2.2.2.2))) ∧
    ∃ H', exec (.cpLay y x b a d) s = .next (s.moved h H') ∧ (H'.chan d.toNat).laySeen = true ∧
      H' = (issued (cpLayWord y x b a d) 0 0 0).setChan d.toNat (H'.chan d.toNat) ∧
      { H'.chan d.toNat with laySeen := (H.chan d.toNat).laySeen } = H.chan d.toNat

/-- The queue performs the entry at its head, whose bytes no copy or replay of the hart holds back (R249, R285): the grant of
setlen in whole blocks with and without a chain record, of setrows and of setfmt, the flags that vstat reads, the watermark
that hwpub raises, behind the stores before it; vdrain performs every vector access before it (R166 to R170). The entry leaves, and its destination becomes full. A near-bank
setfmti sets the thread's format (R264). That setlen keeps bits [63:40] of the chain record's second doubleword, which the
record makes zero, and what it grants under a reserved EW, are the model's choices (assumption 66, DESIGN CHOICE); how a
peer answers for a chain record is assumption 53. -/
def Claims.QueuedShapes : Prop :=
  (∀ (s : State) (h : Nat) (e : QEntry) (y x : BitVec 1) (b a d : BitVec 5) (i : BitVec 13), s.agent = .queue h →
    (s.hart h).headEntry = some e →
    let H := s.hart h
    let V := H.vec
    let cap := V.capacity H.obs.prot
    let done (t : State) : Out := .next (t.setHart h (t.hart h).dequeue)
    let put (K : Hart) (v : Word) : State := s.setHart h (K.fillS none d v)
    let whole (n : Nat) : Nat := n - n % blockOf V.ew V.bl
    (V.ill = false → b = 0 → exec (.setlen y x b a d) s =
      done (put { H with vec := { V with len := BitVec.ofNat 64 (whole (min e.a.toNat cap)) } }
        (BitVec.ofNat 64 (whole (min e.a.toNat cap))))) ∧
    (V.ill = false → b ≠ 0 → e.b.toNat % 16 = 0 → vectorStalls h e.b.toNat 16 .read s = false → ∀ c s1 s2, readChain h e.b s = .ok c s1 →
      let pos := c.pos % 2 ^ 40
      let avail := c.first % 2 ^ 40 - pos
      let ask := min e.a.toNat cap
      let n := whole (min ask avail)
      (avail = 0 → c.first / 2 ^ 63 % 2 = 0 → ask ≠ 0 → exec (.setlen y x b a d) s = .next s1) ∧
      (¬(avail = 0 ∧ c.first / 2 ^ 63 % 2 = 0 ∧ ask ≠ 0) →
        writeChain h (e.b + 8) (c.pos - pos + (pos + n) % 2 ^ 40) s1 = .ok () s2 →
        exec (.setlen y x b a d) s = done (grantLen h d n s2))) ∧
    (V.ill = false →
      let r := BitVec.ofNat 64 (min (max e.a.toNat 1) (8 / V.gf))
      exec (.setrows x a d) s = done (put { H with vec := { V with rows := r } } r)) ∧
    (∀ op ∈ [(Instr.setfmt x a d, e.a), (.setfmti i d, i.setWidth 64)],
      (fmtWellFormed op.2 = true → exec op.1 s =
        done (put { H with vec := { V with fmt := op.2 }.regrant H.obs.prot } op.2)) ∧
      (fmtWellFormed op.2 = false →
        let r := BitVec.ofNat 64 (op.2.toNat % 2 ^ 13 + 2 ^ 63)
        exec op.1 s = done (put { H with vec := { V with fmt := r } } r))) ∧
    exec .vdrain s = done (forceVaccs h (fun _ => true) s) ∧
    exec (.vstat d) s = done (put H (V.vst.setWidth 64)) ∧
    (vectorStalls h e.a.toNat 8 .write s = true → exec (.hwpub y x b a) s = .next s) ∧
    (∀ l s1, e.a.toNat % 16 = 0 → vectorStalls h e.a.toNat 8 .write s = false → accessBy (s.who h) e.a.toNat 8 .write s = .ok l s1 →
      l.peer = none →
      let s3 := forceVaccs h (fun A => A.kind != .load || A.todo.any (fun e => l.meets e.loc)) s1
      let old := BitVec.ofNat 64 (readLoc l s3)
      let hw := max (bits old 0 40) (bits e.b 0 40)
      exec (.hwpub y x b a) s = done (writeLoc (s3.who h) l
        (bits old 40 23 * 2 ^ 40 + hw + (if old.getLsbD 63 || e.b.getLsbD 63 then 2 ^ 63 else 0)) s3))) ∧
  ∀ (s : State) (u : Nat) (J : NbJob) (i : BitVec 13), s.agent = .nearBank u true → s.threadOf u true J →
    (i.toNat < 8 ∨ i.toNat = 11 ∨ i.toNat = 12) → exec (.setfmti i 0) s =
      .next (s.putJob u ({ J with fmt := BitVec.ofNat 5 i.toNat }.advance true))

/-- The queue performs the stream instructions (R236, R237, R241): qpat takes a well-formed pattern into an unbound
stream, vbind binds a free range of registers to a stream with a pattern or to a channel, behind the vector accesses before it, vunbind releases it, qstat
reads a stream's status; and a chunk of a bound read stream arrives (R238, R239). -/
def Claims.StreamsComplete : Prop :=
  (∀ (s : State) (h : Nat) (e : QEntry) (x : BitVec 1) (a d : BitVec 5) (q : BitVec 4) (k : BitVec 3), s.agent = .queue h →
    (s.hart h).headEntry = some e →
    let H := s.hart h
    let done (t : State) : Out := .next (t.setHart h (t.hart h).dequeue)
    (∀ v s1, e.a.toNat % 64 = 0 → vectorStalls h e.a.toNat 64 .read s = false →
      queueRead h q.toNat e.a 64 s = .ok v s1 →
      let H1 := s1.hart h
      let p := BitVec.ofNat 512 v
      4 ≤ q.toNat → (H1.stream q.toNat).bound = false → patOk p = true →
      exec (.qpat x a q) s =
        done (s1.setHart h (H1.setStream q.toNat { H1.stream q.toNat with pattern := some p }))) ∧
    (H.vec.vdirty.getLsbD 63 = false → operandOk e.a = true → H.binds.length < 8 →
      (∀ p, e.a.getLsbD 63 = false → (H.stream (bits e.a 0 5)).pattern = some p → (H.stream (bits e.a 0 5)).bound = false →
        (∀ b ∈ H.binds, b.base + b.count ≤ d.toNat ∨ d.toNat + bits p 268 4 ≤ b.base) → d.toNat + bits p 268 4 ≤ 32 →
        exec (.vbind x k a d) s = done (forceVaccs h (fun _ => true) (s.setHart h
          ((({ H with binds := H.binds ++ [⟨d.toNat, bits p 268 4, e.a, k, p, 0, [], none⟩] } : Hart).setStream (bits e.a 0 5)
            { pattern := some p, bound := true, done := 0, ready := [] }).setCond k false)))) ∧
      (e.a.getLsbD 63 = true →
        (∀ b ∈ H.binds, b.base + b.count ≤ d.toNat ∨ d.toNat + bits e.a 8 4 ≤ b.base) → d.toNat + bits e.a 8 4 ≤ 32 →
        exec (.vbind x k a d) s = done (forceVaccs h (fun _ => true) (s.setHart h
          (({ H with binds := H.binds ++ [⟨d.toNat, bits e.a 8 4, e.a, k, 0, 0, [], none⟩] } : Hart).setCond k false))))) ∧
    (H.vec.vdirty.getLsbD 63 = false → ∀ b, H.binds.find? (fun b => b.base == d.toNat) = some b →
      ∃ K, exec (.vunbind d) s = done (s.setHart h K) ∧ K.binds = H.binds.filter (fun c => c.base != d.toNat) ∧
        (b.onChannel = true → K.streams = H.streams) ∧ (b.onChannel = false → b.num < 16 → (K.stream b.num).bound = false)) ∧
    exec (.qstat q d) s = done (s.setHart h (H.fillS none d (H.streamStatus q.toNat)))) ∧
  ∀ (s : State) (h q : Nat) (b : Binding),
    (s.hart h).binds.find? (fun b => !b.onChannel && !b.writes && b.num == q) = some b →
    let j := (s.hart h).nextElement b
    (patCount b.pattern ≤ j ∨ chunkStalls h b j s = true → exec (.streamChunkArrive h q) s = .next s) ∧
    (j < patCount b.pattern → chunkStalls h b j s = false →
      let r := readChunk h (patSize b.pattern)
        (fun i => if j + i < patCount b.pattern then some (coreOf h, patAddr b.pattern (j + i)) else none) b.elems 0 0 [] s
      let K := r.2.2.hart h
      exec (.streamChunkArrive h q) s = .next (r.2.2.setHart h (K.setStream q { K.stream q with
        ready := (K.stream q).ready ++ [⟨toRegs b.count r.1, patSize b.pattern, r.2.1⟩] })))

/-- What the vector queue performs (R166 to R170, R235 to R241). -/
def Obligations.QueuePerforms : Prop := Claims.QueuedShapes ∧ Claims.StreamsComplete

/-! ## Block instances and divergence (R152, R153, R164, R171 to R174, R186) -/

/-- vblk scans its block by fetches, enters the queue with s8 to s15 and the registers its scan marks, which become empty, and leaves
a record where trace is enabled; it waits for the registers (R164, R186, R240, R410). The queue starts a block instance at the target, every element on its path, g0 to g7 the captured values (R152,
R153). -/
def Claims.BlocksBegin : Prop :=
  (∀ (s : State) (h : Nat) (i : BitVec 20), s.agent = .scalar h → (s.hart h).settled = true →
    (s.hart h).argsReady = true → (s.hart h).activeQueue.length < (s.hart h).queueRoom →
    let r := scanFrom h 256 ((s.hart h).pc + 4 * i.signExtend 64) ⟨0, 0, false⟩ s
    let sc := r.1
    let H := r.2.hart h
    let target := H.pc + 4 * i.signExtend 64
    let bs := H.bindingsAhead
    let kk := sc.kk ||| condBits bs
    let marks : BitVec 40 := sc.ss.setWidth 40 ||| (kk.setWidth 40 <<< 32)
    (H.regs.empty &&& marks ≠ 0 → exec (.vblk i) s = .next s) ∧
    (H.regs.empty &&& marks = 0 → exec (.vblk i) s =
      .next (r.2.moved h (({ H.trace 5 H.pc target 0 with regs := { H.regs with empty := H.regs.empty ||| marks } } : Hart).enqueue
        { word := BitVec.ofNat 32 (vblkWord i), a := target, b := 0, g := H.argSnapshot, scanS := sc.ss, scanK := kk,
          binds := bs.map Prod.fst })))) ∧
  ∀ (s : State) (h : Nat) (e : QEntry), (s.hart h).headEntry = some e → (s.hart h).vec.inst = none →
    (s.hart h).mcheck = none → e.word.toNat % 128 = 0x3E →
    let H1 := (s.hart h).setQueue ((s.hart h).activeQueue.drop 1)
    exec (.blockInstanceBegin h) s = .next (s.setHart h { H1 with regs := H1.regs.note [40], vec := { H1.vec with
      vpc := e.a, g := e.g, estart := 0, made := ⟨0, 0⟩, inst := some ⟨BitVec.allOnes 16384, [], 0, e.scanS, e.scanK, e.binds, none⟩ } })

/-- The control of a running instance, in any format (R171 to R174): vnop goes on; vbr and vbr.not go on, jump, or split
the path and keep the rest in the offcut buffer when it has room; vjoin and vend resume what was kept, and the last vend
ends the instance and makes every scanned register full (R186). -/
def Claims.BlockControl : Prop :=
  ∀ (s : State) (h : Nat) (b : BlockInstance) (o : BitVec 20) (p : BitVec 1) (k : BitVec 3), s.agent = .vector h →
    (s.hart h).vec.vdirty.getLsbD 63 = false → (s.hart h).vec.inst = some b →
    let H := s.hart h
    let V := H.vec
    let at' (c : BlockInstance) (pc : Word) : State :=
      s.setHart h { H with vec := { V with inst := some c, vpc := pc, estart := 0 } }
    let live := b.path &&& BitVec.ofNat 16384 (2 ^ V.liveUnits H.obs.prot - 1)
    exec .vnop s = .next (at' b (V.vpc + 4)) ∧
    (∀ e ∈ [(Instr.vbr o p k, V.maskAt k), (.vbrNot o p k, ~~~(V.maskAt k))],
      let take := live &&& e.2
      let target := V.vpc + 4 * o.signExtend 64
      (take = 0 → exec e.1 s = .next (at' b (V.vpc + 4))) ∧
      (take ≠ 0 → live &&& ~~~take = 0 → exec e.1 s = .next (at' b target)) ∧
      (take ≠ 0 → live &&& ~~~take ≠ 0 → b.offcut.length < 8 → exec e.1 s =
        .next (at' { b with path := take, offcut := ⟨b.path, V.vpc + 4, false⟩ :: b.offcut } target))) ∧
    (b.offcut = [] → exec .vjoin s = .next (at' b (V.vpc + 4)) ∧
      ∃ K, exec .vend s = .next (s.setHart h K) ∧ K.vec.inst = none ∧ K.vec.estart = 0 ∧
        (∀ r : Fin 32, b.scanS.getLsbD r.val = true → K.regs.isEmptyS (BitVec.ofNat 5 r.val) = false) ∧
        (∀ r : Fin 8, b.scanK.getLsbD r.val = true → K.regs.isEmptyK (BitVec.ofNat 3 r.val) = false) ∧
        K.regs.s = H.regs.s ∧ K.vec.v = V.v ∧ K.pc = H.pc) ∧
    ∀ top rest, b.offcut = top :: rest →
      (top.st = false → ∀ e ∈ [Instr.vjoin, .vend], exec e s =
        .next (at' { b with offcut := { top with st := true } :: rest, path := top.bm &&& ~~~b.path } top.c)) ∧
      (top.st = true → b.spilled = 0 →
        exec .vjoin s = .next (at' { b with offcut := rest, path := top.bm } (V.vpc + 4)) ∧
        exec .vend s = .next (at' { b with offcut := rest, path := top.bm } V.vpc))

/-- Block instances and their control (R152, R164, R171 to R174). -/
def Obligations.BlocksRun : Prop := Claims.BlocksBegin ∧ Claims.BlockControl

/-! ## Vector instructions (R159, R171, R175 to R195, R227 to R234) -/

/-- A class V instruction with these fields dispatches and runs to its end in one turn: its hart's block instance acts,
the vector state is present and in a legal shape, the fields obey R43 and R177, no range is bound, no stop is set, and
the turn has no bound. -/
def Claims.dispatches (s : State) (h : Nat) (f : VecFields) : Prop :=
  s.agent = .vector h ∧ s.limit = none ∧ (s.hart h).vec.vdirty.getLsbD 63 = false ∧
  (s.hart h).vec.shapeOk (s.hart h).obs.prot = true ∧ (s.hart h).fieldsOk f = true ∧ (s.hart h).binds = [] ∧
  (s.hart h).obs.stpa.getLsbD 63 = false

/-- The outcome of a class V instruction with these fields that leaves hart K behind it: the older loads of its registers have read
their data for good (R154), and the stream goes on behind it. -/
def Claims.ran (s : State) (h : Nat) (f : VecFields) (K : Hart) : Out :=
  let S := settleLoads h f.names s
  .next (S.setHart h { K.nextVector with vaccs := (S.hart h).vaccs })

/-- The hart after the active units from estart on have acted in ascending order (R159, R175). -/
def Claims.swept (H : Hart) (g : Geometry) (m : BitVec 3) (eff : Nat → VecState → VecState) : Hart :=
  let todo := (List.range (H.vec.units g)).filter (fun i => decide (H.vec.estart.toNat ≤ i) && H.vec.active m i)
  { H with vec := todo.foldl (fun V i => eff i V) H.vec }

/-- The hart after each active element i, at place u of row r, has written f i r u to destination d, with its flags. -/
def Claims.wrote (H : Hart) (m : BitVec 3) (d : BitVec 5) (f : Nat → Nat → Nat → Nat × FFlags) : Hart :=
  let g := H.vec.geo H.obs.prot
  Claims.swept H g m (fun i V =>
    let p := H.vec.rowOf g i
    let z := f i p.1 p.2
    (V.putUnit g H.obs.prot d.toNat p.1 p.2 z.1).raise z.2)

/-- Element u of row r of register field F, as bits. -/
def Claims.elem (H : Hart) (F : BitVec 5) (r u : Nat) : Nat := readUnit H.vec.v (H.vec.geo H.obs.prot) H.vec.gf F.toNat r u

/-- A g register as an element (R30). -/
def Claims.gElem (H : Hart) (b : BitVec 3) : Nat := H.vec.g[b.toNat].toNat % 2 ^ (8 * (H.vec.geo H.obs.prot).unit)

/-- An immediate as an element (R30). -/
def Claims.iElem (H : Hart) (i : BitVec 5) : Nat := (i.toInt % 2 ^ (8 * (H.vec.geo H.obs.prot).unit)).toNat

/-- A function of the width and two elements that sets no flag. -/
def Claims.plain (f : Nat → Nat → Nat → Nat) : Nat → Nat → Nat → Nat × FFlags := fun w a b => (f w a b, FFlags.none)

/-- An exact integer, modulo 2^w (R180). -/
def Claims.wrap (w : Nat) (z : Int) : Nat := (z % ((2 ^ w : Nat) : Int)).toNat

/-- The exact sum or difference brought into the range of the signed or unsigned elements, with SAT when it was outside
(R180). -/
def Claims.saturated (signed : Bool) (f : Int → Int → Int) : Nat → Nat → Nat → Nat × FFlags := fun w a b =>
  let half : Int := ((2 ^ (w - 1) : Nat) : Int)
  let full : Int := ((2 ^ w : Nat) : Int)
  if signed then clampTo w (-half) (half - 1) (f (asInt w a) (asInt w b)) else clampTo w 0 (full - 1) (f (a : Int) (b : Int))

/-- The functions of vint, vint.g and vint.i on integers (R180): the three instructions, the first format that each does
not take (R176), and the result from the width and the two elements. -/
def Claims.vintArith : List ((BitVec 1 → BitVec 1 → BitVec 3 → BitVec 5 → BitVec 5 → BitVec 5 → Instr) ×
    (BitVec 1 → BitVec 1 → BitVec 3 → BitVec 3 → BitVec 5 → BitVec 5 → Instr) ×
    (BitVec 1 → BitVec 1 → BitVec 3 → BitVec 5 → BitVec 5 → BitVec 5 → Instr) × Nat × (Nat → Nat → Nat → Nat × FFlags)) :=
  [ (.vintAdd, .vintGAdd, .vintIAdd, 8, Claims.plain fun w a b => (a + b) % 2 ^ w),
    (.vintSub, .vintGSub, .vintISub, 8, Claims.plain fun w a b => Claims.wrap w ((a : Int) - (b : Int))),
    (.vintMul, .vintGMul, .vintIMul, 8, Claims.plain fun w a b => a * b % 2 ^ w),
    (.vintMulh, .vintGMulh, .vintIMulh, 8,
      Claims.plain fun w a b => Claims.wrap w (asInt w a * asInt w b / ((2 ^ w : Nat) : Int))),
    (.vintMulhu, .vintGMulhu, .vintIMulhu, 8, Claims.plain fun w a b => a * b / 2 ^ w),
    (.vintMin, .vintGMin, .vintIMin, 8, Claims.plain fun w a b => if asInt w a ≤ asInt w b then a else b),
    (.vintMax, .vintGMax, .vintIMax, 8, Claims.plain fun w a b => if asInt w a ≤ asInt w b then b else a),
    (.vintMinu, .vintGMinu, .vintIMinu, 8, Claims.plain fun _ a b => min a b),
    (.vintMaxu, .vintGMaxu, .vintIMaxu, 8, Claims.plain fun _ a b => max a b) ]

/-- The functions of vint, vint.g and vint.i on bits, likewise. -/
def Claims.vintBits : List ((BitVec 1 → BitVec 1 → BitVec 3 → BitVec 5 → BitVec 5 → BitVec 5 → Instr) ×
    (BitVec 1 → BitVec 1 → BitVec 3 → BitVec 3 → BitVec 5 → BitVec 5 → Instr) ×
    (BitVec 1 → BitVec 1 → BitVec 3 → BitVec 5 → BitVec 5 → BitVec 5 → Instr) × Nat × (Nat → Nat → Nat → Nat × FFlags)) :=
  [ (.vintAnd, .vintGAnd, .vintIAnd, 14, Claims.plain fun _ a b => a &&& b),
    (.vintOr, .vintGOr, .vintIOr, 14, Claims.plain fun _ a b => a ||| b),
    (.vintXor, .vintGXor, .vintIXor, 14, Claims.plain fun _ a b => a ^^^ b),
    (.vintSll, .vintGSll, .vintISll, 14, Claims.plain fun w a b => a * 2 ^ (b % w) % 2 ^ w),
    (.vintSrl, .vintGSrl, .vintISrl, 14, Claims.plain fun w a b => a / 2 ^ (b % w)),
    (.vintSra, .vintGSra, .vintISra, 14,
      Claims.plain fun w a b => Claims.wrap w (asInt w a / ((2 ^ (b % w) : Nat) : Int))) ]

/-- The saturating functions of vint, vint.g and vint.i, likewise. -/
def Claims.vintSaturating : List ((BitVec 1 → BitVec 1 → BitVec 3 → BitVec 5 → BitVec 5 → BitVec 5 → Instr) ×
    (BitVec 1 → BitVec 1 → BitVec 3 → BitVec 3 → BitVec 5 → BitVec 5 → Instr) ×
    (BitVec 1 → BitVec 1 → BitVec 3 → BitVec 5 → BitVec 5 → BitVec 5 → Instr) × Nat × (Nat → Nat → Nat → Nat × FFlags)) :=
  [ (.vintAdds, .vintGAdds, .vintIAdds, 8, Claims.saturated true fun a b => a + b),
    (.vintSubs, .vintGSubs, .vintISubs, 8, Claims.saturated true fun a b => a - b),
    (.vintAddsu, .vintGAddsu, .vintIAddsu, 8, Claims.saturated false fun a b => a + b),
    (.vintSubsu, .vintGSubsu, .vintISubsu, 8, Claims.saturated false fun a b => a - b) ]

/-- The integer functions of vint, vint.g and vint.i (R180). -/
def Claims.vints : List ((BitVec 1 → BitVec 1 → BitVec 3 → BitVec 5 → BitVec 5 → BitVec 5 → Instr) ×
    (BitVec 1 → BitVec 1 → BitVec 3 → BitVec 3 → BitVec 5 → BitVec 5 → Instr) ×
    (BitVec 1 → BitVec 1 → BitVec 3 → BitVec 5 → BitVec 5 → BitVec 5 → Instr) × Nat × (Nat → Nat → Nat → Nat × FFlags)) :=
  Claims.vintArith ++ Claims.vintBits ++ Claims.vintSaturating

/-- Every function of vint, vint.g and vint.i completes on a dispatched tile of a format it takes: each active element
from estart on takes the function of its operands, and nothing else of the hart changes but vst, vdirty, estart and vpc
(R159, R175, R180). mov copies its operand. -/
def Obligations.VectorIntegers : Prop :=
  ∀ (s : State) (h : Nat) (y x : BitVec 1) (m gb : BitVec 3) (b a d i : BitVec 5),
    let H := s.hart h
    let w := ewBits H.vec.ew
    let A : Nat × Bool := (a.toNat, x == 1)
    let B : Nat × Bool := (b.toNat, y == 1)
    let fields (l : List (Nat × Bool)) : VecFields := ⟨some d.toNat, .same, l⟩
    let done (l : List (Nat × Bool)) (f : Nat → Nat → Nat → Nat × FFlags) : Out :=
      Claims.ran s h (fields l) (Claims.wrote H m d f)
    (∀ e ∈ Claims.vints, H.vec.ew < e.2.2.2.1 →
      let f := e.2.2.2.2 w
      (Claims.dispatches s h (fields [A, B]) → exec (e.1 y x m b a d) s =
        done [A, B] (fun _ r u => f (Claims.elem H a r u) (Claims.elem H b r u))) ∧
      (Claims.dispatches s h (fields [A]) →
        exec (e.2.1 y x m gb a d) s = done [A] (fun _ r u => f (Claims.elem H a r u) (Claims.gElem H gb)) ∧
        exec (e.2.2.1 y x m i a d) s = done [A] (fun _ r u => f (Claims.elem H a r u) (Claims.iElem H i)))) ∧
    (H.vec.ew < 14 →
      (Claims.dispatches s h (fields [B]) →
        exec (.vintMov y m b d) s = done [B] (fun _ r u => (Claims.elem H b r u, FFlags.none))) ∧
      (Claims.dispatches s h (fields []) →
        exec (.vintGMov y m gb d) s = done [] (fun _ _ _ => (Claims.gElem H gb, FFlags.none)) ∧
        exec (.vintIMov y m i d) s = done [] (fun _ _ _ => (Claims.iElem H i, FFlags.none))))

/-- The two-source floating-point functions (R181): the two instructions, whether each element takes a number of the
random stream, and the result from the format, the rounding and the two elements. -/
def Claims.vfps : List ((BitVec 1 → BitVec 1 → BitVec 3 → BitVec 5 → BitVec 5 → BitVec 5 → Instr) ×
    (BitVec 1 → BitVec 1 → BitVec 3 → BitVec 3 → BitVec 5 → BitVec 5 → Instr) × Bool ×
    (FloatFmt → Rounding → Nat → Nat → Nat × FFlags)) :=
  [ (.vfpFadd, .vfpGFadd, true, faddBits), (.vfpFsub, .vfpGFsub, true, fsubBits), (.vfpFmul, .vfpGFmul, true, fmulBits),
    (.vfpFdiv, .vfpGFdiv, true, fdivBits), (.vfpFmin, .vfpGFmin, false, fun f _ => minMaxNum f false),
    (.vfpFmax, .vfpGFmax, false, fun f _ => minMaxNum f true),
    (.vfpFsgn, .vfpGFsgn, false, fun f _ a b => (a % f.signBit + (if b / f.signBit % 2 = 1 then f.signBit else 0), FFlags.none)) ]

/-- The one-source floating-point functions, which vfp and vfp.g share. -/
def Claims.vfpSingles : List ((BitVec 1 → BitVec 3 → BitVec 5 → BitVec 5 → Instr) ×
    (BitVec 1 → BitVec 3 → BitVec 5 → BitVec 5 → Instr) × Bool × (FloatFmt → Rounding → Nat → Nat × FFlags)) :=
  [ (.vfpFsqrt, .vfpGFsqrt, true, fsqrtBits), (.vfpFabs, .vfpGFabs, false, fun f _ a => (a % f.signBit, FFlags.none)),
    (.vfpFneg, .vfpGFneg, false,
      fun f _ a => (a % f.signBit + (if a / f.signBit % 2 = 1 then 0 else f.signBit), FFlags.none)),
    (.vfpFrcp, .vfpGFrcp, false, fun f _ => frcpBits f), (.vfpFrsq, .vfpGFrsq, false, fun f _ => frsqBits f),
    (.vfpFexp2, .vfpGFexp2, false, fun f _ => fexp2Bits f) ]

/-- The fused functions of vfma (R183). -/
def Claims.vfmas : List ((BitVec 3 → BitVec 5 → BitVec 5 → BitVec 5 → BitVec 5 → Instr) ×
    (FloatFmt → Rounding → Nat → Nat → Nat → Nat × FFlags)) :=
  [ (.vfmaFmadd, fmaddBits), (.vfmaFmsub, fmsubBits), (.vfmaFnmadd, fnmaddBits) ]

/-- Every function of vfp, vfp.g and vfma completes on a dispatched tile of a computing format; in the reduced service
only bf16 and f32 (R423). Each active element takes the function of its operands under fmt.RM and its own random number;
a zero divisor leaves no flag (R178); a rounding instruction advances srctr by rows × len. -/
def Claims.VectorFloats : Prop :=
  ∀ (s : State) (h : Nat) (y x : BitVec 1) (m gb : BitVec 3) (c b a d : BitVec 5),
    let H := s.hart h
    let fm := floatFmt H.vec.ew
    let rd (i : Nat) := H.elemRounding H.vec.rm H.vec.sat i
    let A : Nat × Bool := (a.toNat, x == 1)
    let B : Nat × Bool := (b.toNat, y == 1)
    let ABC : List (Nat × Bool) := [(a.toNat, true), (b.toNat, true), (c.toNat, true)]
    let fields (l : List (Nat × Bool)) : VecFields := ⟨some d.toNat, .same, l⟩
    let done (l : List (Nat × Bool)) (rounds : Bool) (f : Nat → Nat → Nat → Nat × FFlags) : Out :=
      let K := Claims.wrote H m d (fun i r u => (fun (z : Nat × FFlags) => (z.1, ({ z.2 with dz := false } : FFlags))) (f i r u))
      Claims.ran s h (fields l) (if rounds then K.advanceRandom (H.vec.rows.toNat * H.vec.len.toNat) else K)
    (if s.reduced then H.vec.ew = 11 ∨ H.vec.ew = 12 else 10 ≤ H.vec.ew ∧ H.vec.ew ≤ 13) →
    (∀ e ∈ Claims.vfps,
      (Claims.dispatches s h (fields [A, B]) → exec (e.1 y x m b a d) s =
        done [A, B] e.2.2.1 (fun i r u => e.2.2.2 fm (rd i) (Claims.elem H a r u) (Claims.elem H b r u))) ∧
      (Claims.dispatches s h (fields [A]) → exec (e.2.1 y x m gb a d) s =
        done [A] e.2.2.1 (fun i r u => e.2.2.2 fm (rd i) (Claims.elem H a r u) (Claims.gElem H gb)))) ∧
    (Claims.dispatches s h (fields [A]) → ∀ e ∈ Claims.vfpSingles, ∀ op ∈ [e.1, e.2.1],
      exec (op x m a d) s = done [A] e.2.2.1 (fun i r u => e.2.2.2 fm (rd i) (Claims.elem H a r u))) ∧
    (Claims.dispatches s h (fields ABC) → ∀ e ∈ Claims.vfmas, exec (e.1 m c b a d) s =
      done ABC true (fun i r u => e.2 fm (rd i) (Claims.elem H a r u) (Claims.elem H b r u) (Claims.elem H c r u)))

/-- imadd of vfma completes on the integer formats: a × b + c modulo 2^w (R183). -/
def Claims.VectorMultiplyAdd : Prop :=
  ∀ (s : State) (h : Nat) (m : BitVec 3) (c b a d : BitVec 5), (s.hart h).vec.ew < 8 →
    let H := s.hart h
    let f : VecFields := ⟨some d.toNat, .same, [(a.toNat, true), (b.toNat, true), (c.toNat, true)]⟩
    Claims.dispatches s h f → exec (.vfmaImadd m c b a d) s = Claims.ran s h f (Claims.wrote H m d (fun _ r u =>
      ((Claims.elem H a r u * Claims.elem H b r u + Claims.elem H c r u) % 2 ^ ewBits H.vec.ew, FFlags.none)))

/-- What a written tile holds (R159, R162, R175): of an unblocked format, each active unit from estart on reads as the low
bits of its value, every other unit of the destination as before, and every register outside the footprint is as it was. -/
def Obligations.VectorWritesFrame : Prop :=
  ∀ (H : Hart) (m : BitVec 3) (d : BitVec 5) (f : Nat → Nat → Nat → Nat × FFlags),
    let g := H.vec.geo H.obs.prot
    let K := Claims.wrote H m d f
    H.vec.ew < 14 → H.vec.shapeOk H.obs.prot = true → H.vec.fieldOk d.toNat = true →
    (∀ i, i < H.vec.units g →
      let p := H.vec.rowOf g i
      Claims.elem K d p.1 p.2 = if H.vec.estart.toNat ≤ i ∧ H.vec.active m i = true
        then (f i p.1 p.2).1 % 2 ^ (8 * g.unit) else Claims.elem H d p.1 p.2) ∧
    (∀ r : Fin 32, r.val < d.toNat ∨ d.toNat + H.vec.span ≤ r.val → K.vec.v[r] = H.vec.v[r]) ∧
    K.vec.side = H.vec.side ∧ K.vec.m = H.vec.m ∧ K.vec.len = H.vec.len ∧ K.vec.rows = H.vec.rows ∧ K.vec.fmt = H.vec.fmt ∧
    K.vec.inst = H.vec.inst ∧ K.vec.queue = H.vec.queue ∧ K.regs = H.regs ∧ K.trap = H.trap ∧ K.pc = H.pc

/-- The relations of vcmp and vcmp.g (R184), with whether each sets NV: the integer ones from the width, the others from
the format. -/
noncomputable def Claims.vcmps : List ((BitVec 1 → BitVec 1 → BitVec 3 → BitVec 5 → BitVec 5 → BitVec 3 → Instr) ×
    (BitVec 1 → BitVec 1 → BitVec 3 → BitVec 3 → BitVec 5 → BitVec 3 → Instr) × Bool × (Nat → Nat → Nat → Bool × Bool)) :=
  [ (.vcmpEq, .vcmpGEq, false, fun _ a b => (a == b, false)), (.vcmpNe, .vcmpGNe, false, fun _ a b => (a != b, false)),
    (.vcmpLt, .vcmpGLt, false, fun ew a b => (decide (asInt (ewBits ew) a < asInt (ewBits ew) b), false)),
    (.vcmpLe, .vcmpGLe, false, fun ew a b => (decide (asInt (ewBits ew) a ≤ asInt (ewBits ew) b), false)),
    (.vcmpLtu, .vcmpGLtu, false, fun _ a b => (decide (a < b), false)),
    (.vcmpLeu, .vcmpGLeu, false, fun _ a b => (decide (a ≤ b), false)),
    (.vcmpFeq, .vcmpGFeq, true, fun ew => fcmp (floatFmt ew) .eq), (.vcmpFlt, .vcmpGFlt, true, fun ew => fcmp (floatFmt ew) .lt),
    (.vcmpFle, .vcmpGFle, true, fun ew => fcmp (floatFmt ew) .le), (.vcmpFun, .vcmpGFun, true, fun ew => fcmp (floatFmt ew) .un) ]

/-- The mask operations on bit i of masks a and b (R185). -/
noncomputable def Claims.vmasks (y x : BitVec 1) (b a d : BitVec 3) : List (Instr × (Bool → Bool → Bool)) :=
  [ (.mand y x b a d, fun u v => u && v), (.mor y x b a d, fun u v => u || v), (.mxor y x b a d, fun u v => u ^^ v),
    (.mnot x a d, fun u _ => !u), (.mset d, fun _ _ => true), (.mclr d, fun _ _ => false) ]

/-- vcmp and vcmp.g give bit i of mask d the relation of the active elements i; the mask operations set the bits of the
live indices. Both complete on a dispatched tile (R184, R185). -/
def Claims.VectorMasks : Prop :=
  ∀ (s : State) (h : Nat) (y x : BitVec 1) (m gb kb ka d : BitVec 3) (b a : BitVec 5),
    let H := s.hart h
    let g := H.vec.geo H.obs.prot
    let A : Nat × Bool := (a.toNat, x == 1)
    let B : Nat × Bool := (b.toNat, y == 1)
    let done (l : List (Nat × Bool)) (rel : Nat → Nat → Bool × Bool) : Out :=
      Claims.ran s h ⟨none, .same, l⟩ (Claims.swept H g m (fun i V =>
        let p := H.vec.rowOf g i
        let z := rel p.1 p.2
        (V.setMask d (putBit (V.maskAt d) i z.1) i 1).raise { FFlags.none with nv := z.2 }))
    (∀ e ∈ Claims.vcmps, (if e.2.2.1 then 10 ≤ H.vec.ew ∧ H.vec.ew ≤ 13 else H.vec.ew < 8) →
      (Claims.dispatches s h ⟨none, .same, [A, B]⟩ → exec (e.1 y x m b a d) s =
        done [A, B] (fun r u => e.2.2.2 H.vec.ew (Claims.elem H a r u) (Claims.elem H b r u))) ∧
      (Claims.dispatches s h ⟨none, .same, [A]⟩ → exec (e.2.1 y x m gb a d) s =
        done [A] (fun r u => e.2.2.2 H.vec.ew (Claims.elem H a r u) (Claims.gElem H gb)))) ∧
    (Claims.dispatches s h VecFields.none → ∀ e ∈ Claims.vmasks y x kb ka d, exec e.1 s =
      Claims.ran s h VecFields.none (Claims.swept H g 0 (fun i V => V.setMask d (putBit (V.maskAt d) i
        (e.2 ((H.vec.maskAt ka).getLsbD i) ((H.vec.maskAt kb).getLsbD i))) i 1)))

/-- The integer reductions from their starting value (R187). -/
noncomputable def Claims.vreds : List ((BitVec 1 → BitVec 3 → BitVec 5 → BitVec 5 → Instr) × (Nat → List Nat → Int)) :=
  [ (.rsum, fun ew l => (l.map (extendElem ew)).sum), (.rmin, fun ew l => l.foldl (fun n e => min n (extendElem ew e)) (ewMax ew)),
    (.rmax, fun ew l => l.foldl (fun n e => max n (extendElem ew e)) (ewMin ew)),
    (.rand, fun ew l => (l.foldl (fun n e => n &&& e) (2 ^ ewBits ew - 1) : Nat)),
    (.ror, fun _ l => (l.foldl (fun n e => n ||| e) 0 : Nat)), (.rxor, fun _ l => (l.foldl (fun n e => n ^^^ e) 0 : Nat)) ]

/-- The floating-point reductions: the node of the tree and the result over no element (R188). -/
noncomputable def Claims.floatReds : List ((BitVec 1 → BitVec 3 → BitVec 5 → BitVec 5 → Instr) × (Nat → Nat → Nat × FFlags) × Nat) :=
  [ (.rfsum, faddBits fmtF64 rne, 0), (.rfmin, minMaxNum fmtF64 false, fmtF64.inf false),
    (.rfmax, minMaxNum fmtF64 true, fmtF64.inf true) ]

/-- The active elements of source a in ascending order, each with its index. -/
def Claims.actives (H : Hart) (m : BitVec 3) (a : BitVec 5) : List (Nat × Nat) :=
  let g := H.vec.geo H.obs.prot
  ((List.range (H.vec.units g)).filter (fun i => H.vec.active m i)).map (fun i =>
    (i, Claims.elem H a (H.vec.rowOf g i).1 (H.vec.rowOf g i).2))

/-- mpop, mfirst and the reductions complete on a dispatched tile and deliver their result to the scalar stream (R185 to
R188): a destination that the scan of the block marked becomes full with it. -/
def Claims.VectorReductions : Prop :=
  (∀ (s : State) (h : Nat) (x : BitVec 1) (m ka kd : BitVec 3) (a d : BitVec 5),
    let H := s.hart h
    let g := H.vec.geo H.obs.prot
    let A : VecFields := ⟨none, .same, [(a.toNat, x == 1)]⟩
    let done (f : VecFields) (K : Hart) : Out := Claims.ran s h f K
    let live := (List.range (H.vec.units g)).filter (fun i => H.vec.active ka i)
    let act := Claims.actives H m a
    (Claims.dispatches s h VecFields.none →
      exec (.mpop x ka d) s = done VecFields.none (H.deliverS d (BitVec.ofNat 64 live.length)) ∧
      (live = [] → exec (.mfirst x ka d) s = done VecFields.none (H.deliverS d (BitVec.allOnes 64))) ∧
      (∀ i rest, live = i :: rest → exec (.mfirst x ka d) s = done VecFields.none (H.deliverS d (BitVec.ofNat 64 i)))) ∧
    (Claims.dispatches s h A →
      (H.vec.ew < 8 → ∀ e ∈ Claims.vreds,
        exec (e.1 x m a d) s = done A (H.deliverS d (BitVec.ofInt 64 (e.2 H.vec.ew (act.map (fun p => p.2)))))) ∧
      (H.vec.ew < 14 →
        exec (.rany x m a kd) s = done A (H.deliverK kd (act.any (fun p => p.2 != 0))) ∧
        exec (.rall x m a kd) s = done A (H.deliverK kd (act.all (fun p => p.2 != 0)))) ∧
      (10 ≤ H.vec.ew → H.vec.ew ≤ 13 → ∀ e ∈ Claims.floatReds,
        let conv (z : Nat) := convertNum fmtF64 rne (unpack (floatFmt H.vec.ew) z)
        let leaves := (List.range (H.vec.rows.toNat * H.vec.len.toNat)).map (fun i =>
          (act.find? (fun p => p.1 == i)).map (fun p => (conv p.2).1))
        let t := treeReduce e.2.1 15 leaves
        let fl := (act.foldl (fun f p => f.or (conv p.2).2) FFlags.none).or t.2
        exec (e.1 x m a d) s =
          done A ({ H with vec := H.vec.raise fl }.deliverS d (BitVec.ofNat 64 (t.1.getD e.2.2)))))) ∧
  ∀ (H : Hart) (b : BlockInstance) (d : BitVec 5) (v : Word), H.vec.inst = some b → d ≠ 0 → b.scanS.getLsbD d.toNat = true →
    (H.deliverS d v).regs.readS d = v ∧ (H.deliverS d v).regs.isEmptyS d = false

/-- Vector compares, masks and reductions (R184 to R188). -/
def Obligations.VectorMasksAndReductions : Prop := Claims.VectorMasks ∧ Claims.VectorReductions

/-- vcvt completes on a dispatched tile whose shape the destination format allows, writing each unit of the coarser of the
two formats, and advances srctr (R189, R190); the element of a conversion between unblocked formats is the converted
value (R145 to R147). -/
def Claims.VectorConverts : Prop :=
  ∀ (s : State) (h : Nat) (z fs : BitVec 1) (r : BitVec 3) (i x : BitVec 1) (m : BitVec 3) (b a d : BitVec 5),
    let H := s.hart h
    let dst := b.toNat
    let f : VecFields := ⟨some d.toNat, if cvtSame H.vec dst then .same else .disjoint, [(a.toNat, x == 1)]⟩
    Claims.dispatches s h f → cvtOk dst H.vec H.obs.prot = true →
    exec (.vcvt z fs r i x m b a d) s = Claims.ran s h f ((Claims.swept H (cvtGeo dst H.vec H.obs.prot) m
      (fun j V => cvtUnit dst r.toNat (fs == 1) (z == 1) a.toNat d.toNat H H.vec.v j V)).advanceRandom
        (H.vec.rows.toNat * H.vec.len.toNat)) ∧
    (H.vec.ew < 14 → dst < 14 → ∀ j V,
      let g := geometry dst H.vec.bl H.obs.prot
      let p := H.vec.rowOf (H.vec.geo H.obs.prot) j
      let rd := { H.elemRounding (if r = 5 then H.vec.rm else r.toNat) (fs == 1) (p.1 * H.vec.len.toNat + p.2) with z := z == 1 }
      let y := convertElem H.vec.ew dst rd (H.sourceNum H.vec.v H.vec.ew a.toNat p.1 p.2)
      cvtUnit dst r.toNat (fs == 1) (z == 1) a.toNat d.toNat H H.vec.v j V =
        (V.putUnit g H.obs.prot d.toNat p.1 p.2 y.1).raise y.2)

/-- The vector floating-point instructions and conversions (R178 to R183). -/
def Obligations.VectorFloatsComplete : Prop := Claims.VectorFloats ∧ Claims.VectorMultiplyAdd ∧ Claims.VectorConverts

/-- Where unit u of row r goes, and the source field, row and unit it comes from, or the zero unit. -/
abbrev Claims.Moves : Type := Nat → Nat → Option (Nat × Option (Nat × Nat × Nat))

/-- The permutes (R192, R193), each with its rule of overlap, its mask, its sources and where its units go; none where
nothing is written. -/
noncomputable def Claims.permutes (H : Hart) (m gb : BitVec 3) (y x : BitVec 1) (b a d : BitVec 5) :
    List (Instr × Overlap × BitVec 3 × List (Nat × Bool) × Claims.Moves) :=
  let g := H.vec.geo H.obs.prot
  let n := H.vec.rowUnits g
  let amount := H.vec.g[gb.toNat].toNat
  let A : Nat × Bool := (a.toNat, x == 1)
  let B : Nat × Bool := (b.toNat, y == 1)
  let packed (r u : Nat) : Nat := ((List.range u).filter (fun j => H.vec.active m (r * n + j))).length
  let index (r u : Nat) : Nat :=
    readUnit H.vec.v (geometry (if H.vec.ew < 14 then H.vec.ew else 5) 0 H.obs.prot) H.vec.gf b.toNat r u
  let up : Claims.Moves := fun r u => if amount ≤ u then some (u, some (a.toNat, r, u - amount)) else none
  let down : Claims.Moves := fun r u => some (u, if u + amount < n then some (a.toNat, r, u + amount) else none)
  let indexed : Claims.Moves := fun r u => some (u, if index r u < n then some (a.toNat, r, index r u) else none)
  let pack : Claims.Moves := fun r u => some (packed r u, some (a.toNat, r, u))
  let spread : Claims.Moves := fun r u => some (u, some (a.toNat, r, packed r u))
  let interleave : Claims.Moves := fun r u => some (u, some (if u % 2 = 0 then a.toNat else b.toNat, r, u / 2))
  let copied : Claims.Moves := fun r u => some (u, if amount < n then some (a.toNat, r, amount) else none)
  let chosen : Claims.Moves := fun r u =>
    some (u, some (if (H.vec.maskAt m).getLsbD (r * n + u) then a.toNat else b.toNat, r, u))
  [ (.slideup y x m gb a d, .disjoint, m, [A], up), (.slidedn y x m gb a d, .disjoint, m, [A], down),
    (.perm y x m b a d, .disjoint, m, [A, B], indexed), (.compress x m a d, .disjoint, m, [A], pack),
    (.expand x m a d, .disjoint, m, [A], spread), (.zip y x m b a d, .disjoint, m, [A, B], interleave),
    (.bcast y x m gb a d, .disjoint, m, [A], copied),
    (.merge y x m b a d, .same, 0, [A, B], chosen) ]

/-- The permutes complete on a dispatched tile of any format: each active unit goes where the function sends it; trn
needs rows that divide into square blocks (R191 to R193). A unit moves as it stands. Under q4n the first active cell that
moves into a destination register brings the side word of its source register, as the permute found it, and a later one from
under another side word sets NV (R191). -/
def Obligations.VectorPermutes : Prop :=
  ∀ (s : State) (h : Nat) (y x : BitVec 1) (m gb : BitVec 3) (b a d : BitVec 5),
    let H := s.hart h
    let g := H.vec.geo H.obs.prot
    let n := H.vec.rowUnits g
    let k := H.vec.rows.toNat
    let found := if H.vec.estart = 0 then H.vec.side else H.sidesFound
    let turned : VecFields := ⟨some d.toNat, .disjoint, [(a.toNat, x == 1)]⟩
    let moved (mask : BitVec 3) (mv : Claims.Moves) (V : VecState) (r u : Nat) (t : Nat × Option (Nat × Nat × Nat)) : VecState :=
      let put (x : Nat) : VecState := V.putUnit g H.obs.prot d.toNat r t.1 x
      match t.2 with
      | none => put (zeroUnit H.vec.ew)
      | some q =>
        let W := put (readUnit H.vec.v g H.vec.gf q.1 q.2.1 q.2.2)
        let reg := unitReg g H.vec.gf d.toNat r t.1
        let sd := found.toList.getD (unitReg g H.vec.gf q.1 q.2.1 q.2.2) 0
        let later := (List.range u).any (fun j => H.vec.active mask (r * n + j) &&
          (mv r j).any (fun b => b.2.isSome && unitReg g H.vec.gf d.toNat r b.1 == reg))
        if H.vec.ew ≠ 14 then W else if !later then W.setSide reg sd else if W.sideAt reg = sd then W else W.raise FFlags.invalid
    (∀ e ∈ Claims.permutes H m gb y x b a d,
      let f : VecFields := ⟨some d.toNat, e.2.1, e.2.2.2.1⟩
      Claims.dispatches s h f → ∃ eff : Nat → VecState → VecState,
        exec e.1 s = Claims.ran s h f (Claims.swept ((noteSides s).hart h) g e.2.2.1 eff) ∧
        (∀ i V, i < H.vec.units g →
          let p := H.vec.rowOf g i
          (∀ t, e.2.2.2.2 p.1 p.2 = some t → V.gf = H.vec.gf → eff i V = moved e.2.2.1 e.2.2.2.2 V p.1 p.2 t) ∧
          (e.2.2.2.2 p.1 p.2 = none → eff i V = V))) ∧
    (Claims.dispatches s h turned → n % k = 0 → ∃ eff : Nat → VecState → VecState,
        exec (.trn x m a d) s = Claims.ran s h turned (Claims.swept ((noteSides s).hart h) g m eff) ∧
        (∀ i V, V.gf = H.vec.gf →
          let p := H.vec.rowOf g i
          let mv : Claims.Moves := fun r u => some (u, some (a.toNat, u % k, u / k * k + r))
          ∀ t, mv p.1 p.2 = some t → eff i V = moved m mv V p.1 p.2 t))

/-- The accumulators (R194, R195, R291): acc.rd rounds the selected line into a tile, acc.wr writes a tile to it, acc.clr
clears it, each on a dispatched tile whose selector is well formed; a poisoned tile traps acc.rd as it dispatches, with cause 0x0E
(R179). -/
def Obligations.AccumulatorsComplete : Prop :=
  ∀ (s : State) (h : Nat) (y x : BitVec 1) (a : BitVec 3) (b d : BitVec 5),
    let H := s.hart h
    let g := H.vec.geo H.obs.prot
    let sel := H.vec.g[a.toNat]
    let c := h / 4
    let units := (List.range (H.vec.units g)).filter (fun i => decide (H.vec.estart.toNat ≤ i) && H.vec.active 0 i)
    let next (t : State) : Out := .next (t.setHart h (t.hart h).nextVector)
    let dst : VecFields := ⟨some d.toNat, .same, []⟩
    let from1 : VecFields := ⟨none, .same, [(b.toNat, y == 1)]⟩
    selOk sel H.vec = true →
    (10 ≤ H.vec.ew → H.vec.ew ≤ 12 →
      (Claims.dispatches s h dst →
        ((s.core c).accpsn.getLsbD (bits sel 0 2) = false ∨ H.vec.begun ≠ none → exec (.accRd x a d) s = Claims.ran s h dst
          ((Claims.wrote H 0 d (fun i r u => accRead H.vec.ew (H.elemRounding H.vec.rm H.vec.sat i)
            ((s.core c).accAt (selKey sel r u)))).advanceRandom (H.vec.rows.toNat * H.vec.len.toNat))) ∧
        ((s.core c).accpsn.getLsbD (bits sel 0 2) = true → H.vec.begun = none → Claims.mayTrap H →
          Claims.Enters (settleLoads h dst.names s) h 0x0E sel (BitVec.ofNat 64 (2 ^ 60)) H.pc (exec (.accRd x a d) s))) ∧
      (Claims.dispatches s h from1 → exec (.accWr y x b a) s =
        next (units.foldl (fun t i =>
          let p := H.vec.rowOf g i
          let z := accWritten H.vec.ew (Claims.elem H b p.1 p.2)
          let t1 := t.setCore c ((t.core c).setAcc (selKey sel p.1 p.2) z.1)
          t1.setHart h { t1.hart h with vec := (t1.hart h).vec.raise { z.2 with of := false, uf := false, nx := false } })
            (settleLoads h from1.names s)))) ∧
    (Claims.dispatches s h VecFields.none → exec (.accClr x a) s =
      next (units.foldl (fun t i => (unitElems g (H.vec.rowOf g i).2).foldl (fun t e =>
        t.setCore c ((t.core c).setAcc (selKey sel (H.vec.rowOf g i).1 e) 0)) t) (settleLoads h VecFields.none.names s)))

/-- The units of a list act one after another, until one traps. -/
def Claims.actAll (f : Nat → State → Res Unit) : List Nat → State → Res Unit
  | [], s => .ok () s
  | i :: l, s =>
    match f i s with
    | .trap c t s1 => .trap c t s1
    | .ok _ s1 => Claims.actAll f l s1

/-- The functions of vmem but for ldff (R227, R228, R231, R232, R234): the instruction, its own conditions, its form (with
its fields and the pieces that a unit touches), the address of unit i, what unit i does. -/
noncomputable def Claims.vmems (h : Nat) (H : Hart) (i : BitVec 1) (m : BitVec 3) (q : BitVec 4) (g : BitVec 3) (gx : BitVec 3)
    (x v : BitVec 5) : List (Instr × Bool × MemForm × (Nat → Word) × ((Nat → Word) → Nat → State → Res Unit)) :=
  let R := H.vec.v
  let geo := H.vec.geo H.obs.prot
  let base := H.vec.g[g.toNat]
  let ew := H.vec.ew
  let form (k : MemKind) (l : List (Nat × Bool)) (touch : Hart → Vector VReg 32 → Nat → List (Nat × Nat)) : MemForm :=
    ⟨0, 0, k, fun _ => true, if k = .load then ⟨some v.toNat, .same, l⟩ else ⟨none, .same, (v.toNat, true) :: l⟩,
      fun _ => true, fun _ _ _ => 0, touch⟩
  let own (ad : Nat → Word) (_ : Hart) (_ : Vector VReg 32) (n : Nat) : List (Nat × Nat) := [((ad n).toNat, geo.unit)]
  let cells (n : Nat) : Word := BitVec.ofNat 64 (bits base 0 56 + 4 + 33 * (bits base 56 8 + n))
  let flat (n : Nat) : Word := if ew = 14 then cells n else base + BitVec.ofNat 64 (n * geo.unit)
  let super := decide (ew < 16) && (superPre g H).isNone
  let stride (n : Nat) : Word := base + BitVec.ofNat 64 n * H.vec.g[gx.toNat]
  let index (n : Nat) : Word :=
    let p := H.vec.rowOf geo n
    base + BitVec.ofInt 64 (asInt (8 * geo.unit) (Claims.elem H x p.1 p.2) * geo.unit)
  let apart := H.vec.overlapOk .same v.toNat x.toNat
  let lane := decide (ew < 16) && decide (base.toNat % 16 = 0)
  [ (.vmemLd i m q g v, super, form .load [] (touchPlain m g), flat, fun ad => scaledUnit loadScale .load m g v h q.toNat H R ad),
    (.vmemSt i m q g v, super, form .store [] (touchPlain m g), flat, fun ad => scaledUnit storeScale .store m g v h q.toNat H R ad),
    (.vmemLds i m q gx g v, decide (ew < 14), form .load [] (own stride), stride,
      fun ad => memUnit h q.toNat .load true v.toNat H R ad),
    (.vmemSts i m q gx g v, decide (ew < 14), form .store [] (own stride), stride,
      fun ad => memUnit h q.toNat .store true v.toNat H R ad),
    (.vmemLdx i m q x g v, decide (ew < 14) && apart, form .load [(x.toNat, true)] (own index), index,
      fun ad => memUnit h q.toNat .load true v.toNat H R ad),
    (.vmemStx i m q x g v, decide (ew < 14) && apart, form .store [(x.toNat, true)] (own index), index,
      fun ad => memUnit h q.toNat .store true v.toNat H R ad) ] ++
  [ (.vmemAmoadd i m q x g v, [2, 3, 6, 7, 12, 13].contains ew && apart, form .add [(x.toNat, true)] (own index), index,
      fun ad => memUnit h q.toNat .add true v.toNat H R ad),
    (.vmemLdl i m q g v, lane, form .load [] (laneTouch g), laneAddr g H R, fun ad => laneLoad g v h q.toNat H R ad),
    (.vmemStl i m q g v, lane, form .store [] (laneTouch g), laneAddr g H R, fun ad => laneStore g v h q.toNat H R ad) ]

/-- Every function of vmem completes when it dispatches on an unbound stream, no sample is taken, no unit waits for a copy
or a replay, and every active unit from estart on passes its checks: the units act in ascending order at their addresses,
and the stream goes on (R227 to R234). ldff ends its load at the first soft fault above its first active unit, clearing the mask from
there (R233). What a store or an amoadd is to write, and what a load may read again, is performed later, element by element, and what
remains of it when something forces the access: a store's last element clears the poison that the store covers whole (R121, R222,
R223, R234). -/
def Obligations.VectorMemory : Prop :=
  (∀ (s : State) (h : Nat) (i : BitVec 1) (m : BitVec 3) (q : BitVec 4) (g gx : BitVec 3) (x v : BitVec 5),
    let H := s.hart h
    let R := H.vec.v
    let n := (H.vec.geo H.obs.prot).unit
    let todo := H.activeFrom m H.vec.estart.toNat
    let dst : VecFields := ⟨some v.toNat, .same, []⟩
    let done (t : State) : Out := .next ((closeVacc h t).setHart h ((closeVacc h t).hart h).nextVector)
    (H.stream q.toNat).bound = false → H.obs.smpcfg.getLsbD 63 = false → H.obs.watch = none →
    (∀ e ∈ Claims.vmems h H i m q g gx x v,
      let f := e.2.2.1
      let S := settleLoads h f.fields.names s
      Claims.dispatches s h f.fields → e.2.1 = true →
      todo.any (fun j => unitStalls h f H R j S) = false →
      ∀ t, Claims.actAll (e.2.2.2.2 e.2.2.2.1) todo S = .ok () t → exec e.1 s = done t) ∧
    (Claims.dispatches s h dst → H.vec.ew < 14 →
      let S := settleLoads h dst.names s
      let ad (j : Nat) : Word := H.vec.g[g.toNat] + BitVec.ofNat 64 (j * n)
      todo.any (fun j => vectorStalls h (ad j).toNat n .read S) = false →
      (∀ t, Claims.actAll (memUnit h q.toNat .load true v.toNat H R ad) todo S = .ok () t →
        exec (.vmemLdff i m q g v) s = done t) ∧
      (∀ l k r c a t t1, l ≠ [] → todo = l ++ k :: r → Claims.actAll (memUnit h q.toNat .load true v.toNat H R ad) l S = .ok () t →
        memUnit h q.toNat .load true v.toNat H R ad k t = .trap c a t1 → c ∈ [0x06, 0x07, 0x0E] →
        exec (.vmemLdff i m q g v) s = done (cutMask h m k (H.vec.units (H.vec.geo H.obs.prot)) t1)))) ∧
  ∀ (s : State) (h : Nat) (A : VecAccess) (e : VecElem), (s.hart h).vaccs = [A] → A.going = false → A.todo = [e] →
    let s1 := departLoc (some h) e.loc (A.kind != .load) (forceBeforeElem h A e s)
    let left (t : State) : State := setVaccs h (fun _ => []) t
    (A.kind = .load → (elementTurn h 0 0 s) = left (if poisonedLoc e.loc s1 then s1 else
      s1.setHart h ((s1.hart h).reread e (readLoc e.loc s1)))) ∧
    (A.kind = .store → ∀ t ∈ [elementTurn h 0 0 s, finishVaccs h s],
      t.mm = mendUnits (fun u n => (List.range n).all (fun j => coversByte (A.did ++ e.loc.pieces) (u + j)))
        (writeLoc (s1.who h) e.loc e.value s1).mm ∧ (t.hart h).vaccs = []) ∧
    (A.kind = .add → ∀ t ∈ [elementTurn h 0 0 s, finishVaccs h s],
      t.mm = (if poisonedLoc e.loc s1 then s1 else
        writeLoc (s1.who h) e.loc (addTo A.ew e.loc.size (readLoc e.loc s1) e.value) s1).mm ∧ (t.hart h).vaccs = [])

/-! ## Near-bank jobs (R260 to R278) -/

/-- The vector functions of a near-bank arithmetic thread (R263, R264): every integer function with registers, a g
register or an immediate, the floating-point ones it has, on w0 to w15 under no mask: each element of w[d] takes the
function of its operands, round to nearest even; g names s8 to s15 of the thread. -/
def Claims.NearBankElements : Prop :=
  ∀ (s : State) (u : Nat) (J : NbJob) (y x : BitVec 1) (gb : BitVec 3) (c b a d i : BitVec 5), s.agent = .nearBank u true →
    s.threadOf u true J → c.toNat < 16 → b.toNat < 16 → a.toNat < 16 → d.toNat < 16 →
    let ew := J.fmt.toNat
    let w := ewBits ew
    let lane (r : BitVec 5) (e : Nat) : Nat := bits (J.reg r.toNat) (w * e) w
    let g : Nat := (J.x.regs.readS (BitVec.ofNat 5 (8 + gb.toNat))).toNat % 2 ^ w
    let m : Nat := (i.toInt % 2 ^ w).toNat
    let done (o : Instr) (f : Nat → Nat) : Prop := ∃ X F, exec o s =
        .next (s.putJob u ({ J with w := J.w.set (d.toNat % 16) X (Nat.mod_lt _ (by decide)), flags := F }.advance true)) ∧
      ∀ e, e < 512 / w → bits X (w * e) w = f e % 2 ^ w
    (∀ e ∈ Claims.vints, ew < 8 →
      done (e.1 y x 0 b a d) (fun l => (e.2.2.2.2 w (lane a l) (lane b l)).1) ∧
      done (e.2.1 y x 0 gb a d) (fun l => (e.2.2.2.2 w (lane a l) g).1) ∧
      done (e.2.2.1 y x 0 i a d) (fun l => (e.2.2.2.2 w (lane a l) m).1)) ∧
    (ew < 8 → done (.vintMov y 0 b d) (lane b) ∧ done (.vintGMov y 0 gb d) (fun _ => g) ∧ done (.vintIMov y 0 i d) (fun _ => m) ∧
      done (.vfmaImadd 0 c b a d) (fun l => lane a l * lane b l + lane c l)) ∧
    ((if s.reduced then ew = 11 ∨ ew = 12 else 10 ≤ ew ∧ ew ≤ 13) →
      (∀ e ∈ [(Instr.vfpFadd y x 0 b a d, faddBits (floatFmt ew) rne), (.vfpFsub y x 0 b a d, fsubBits (floatFmt ew) rne),
          (.vfpFmul y x 0 b a d, fmulBits (floatFmt ew) rne), (.vfpFmin y x 0 b a d, minMaxNum (floatFmt ew) false),
          (.vfpFmax y x 0 b a d, minMaxNum (floatFmt ew) true)],
        done e.1 (fun l => (e.2 (lane a l) (lane b l)).1)) ∧
      ∀ e ∈ Claims.vfmas, done (e.1 0 c b a d) (fun l => (e.2 (floatFmt ew) rne (lane a l) (lane b l) (lane c l)).1))

/-- The instructions of a job's two threads (R265 to R267, R270, R272, R278): the address thread pushes a checked granule
into a queue with room, the arithmetic thread takes a filled load, writes the granule at the head of the store queue,
passes a safe point, and copies granules to all sixteen layers. -/
def Claims.NearBankThreads : Prop :=
  (∀ (s : State) (u : Nat) (J : NbJob) (x : BitVec 1) (a : BitVec 5), s.agent = .nearBank u false → s.threadOf u false J →
    let va := J.a.regs.readS a
    (∀ p s1, J.loads.length < 16 → nearAccess u J va .read s = .ok p s1 → exec (.nqPush x a 0) s = .next (s1.putJob u
      (NbJob.advance { J with loads := J.loads ++ [⟨va.toNat, p.pa, none, false, J.pushed⟩] } false))) ∧
    (∀ p s1, J.stores.length < 16 → nearAccess u J va .write s = .ok p s1 → exec (.nqPush x a 1) s = .next (s1.putJob u
      (NbJob.advance { J with stores := J.stores ++ [⟨va.toNat, p.pa, J.pushed⟩], pushed := J.pushed + 1 } false))) ∧
    (16 ≤ J.loads.length → exec (.nqPush x a 0) s = .next s) ∧ (16 ≤ J.stores.length → exec (.nqPush x a 1) s = .next s)) ∧
  ∀ (s : State) (u : Nat) (J : NbJob) (x : BitVec 1) (r : BitVec 4) (a d : BitVec 5), s.agent = .nearBank u true →
    s.threadOf u true J →
    (∀ e rest v, J.loads = e :: rest → e.data = some v → e.poison = false → exec (.nqPop 0 r) s =
      .next (s.putJob u (({ J with loads := rest, w := J.w.set r.toNat v } : NbJob).advance true))) ∧
    (J.loads = [] → exec (.nqPop 0 r) s = .next s) ∧
    (∀ e rest, J.stores = e :: rest → exec (.nqPop 1 r) s =
      .next (nearWrite e.pa (J.w[r.toNat]).toNat (s.putJob u (({ J with stores := rest } : NbJob).advance true)))) ∧
    (J.stop = true → exec .nbSafe s = .next (s.putJob u { J.advance true with endCode := some 0x81 })) ∧
    (J.stop = false → (s.unit u).holds.contains J.ctx = true → exec .nbSafe s = .next (s.putJob u
      { J.advance true with parked := true, w := Vector.replicate 16 0 })) ∧
    (J.stop = false → (s.unit u).holds.contains J.ctx = false → exec .nbSafe s = .next (s.putJob u (J.advance true))) ∧
    (let n := (J.x.regs.readS d).toNat
     let va := J.x.regs.readS a
     ∀ p s1, 0 < n → n ≤ 64 → va.toNat % 64 = 0 → va.toNat % 4096 + 64 * n ≤ 4096 → nearAccess u J va .write s = .ok p s1 →
       4 ≤ ebits p.pte 56 3 → exec (.nbMc x r a d) s = .next ((List.range n).foldl
         (fun t i => writeLayers p.pa i (J.w[r.toNat]).toNat t) (s1.putJob u (J.advance true))))

/-- The instructions of near-bank threads (R260 to R271). -/
def Obligations.NearBankRuns : Prop := Claims.NearBankElements ∧ Claims.NearBankThreads

/-- The life of a job (R262, R265, R269, R272, R273, R275, R276): a queued job starts once its ordering holds and its code
is read, a parked one goes on with its unfilled loads checked again, loads are filled in order, a job that is over leaves
with its arrival and its status, a job whose threads both wait, at a queue or for a bank of a channel in reset, ends with code 0x80, and a job that reaches no safe
point costs its channel a reset. A refresh changes nothing but timing (R271). -/
def Claims.NearBankJobs : Prop :=
  ∀ (s : State) (u : Nat),
    let U := s.unit u
    (∀ J, U.inReset = false → U.running = none → U.nextJob = some J → s.assistOf (nearAgent u) = none →
      (J.parked = false → J.ordered s = true → ∀ ws s1,
        readCode J.who (bits J.desc 0 56) (bits J.desc 56 8 + 1) (J.forceEntries s) = .ok ws s1 → exec (.nbJobStart u) s = .next (s1.putJob u
          { J with started := true, code := ws, a := ⟨threadRegs J.desc, bits J.desc 96 8, false⟩,
                   x := ⟨threadRegs J.desc, bits J.desc 104 8, false⟩ })) ∧
      (J.parked = true → ∀ ls s1, reissue u J J.loads s = .ok ls s1 →
        exec (.nbJobStart u) s = .next (s1.putJob u { J with parked := false, loads := ls }))) ∧
    (∀ J n e, U.running = some J → J.loads[n]? = some e → e.data = none → (∀ p ∈ J.loads.take n, p.data ≠ none) →
      (∀ t ∈ J.stores, ¬(t.num < e.after ∧ t.pa = e.pa)) →
      let s1 := readLines e.pa 64 0 (departConflicts none e.pa 64 false s)
      exec (.nqLoadFill u n) s = .next (s1.putJob u { J with loads := J.loads.set n { e with
        data := some (BitVec.ofNat 512 (memRead s1.mm none e.pa 64)), poison := poisoned s1.mm true e.pa 64 } })) ∧
    (∀ J code, U.jobs.find? (fun J => J.over.isSome) = some J → J.over = some code →
      let past := (J.seq, J.ctx, { J with parked := false }.status (if code = 0 then 2 else 3) code) :: U.past
      let t := arrive J.who (BitVec.ofNat 64 (bits J.desc 192 56)) (code != 0) u (s.setUnit u { U with
        jobs := U.jobs.filter (fun K => K.seq != J.seq), past := past.filter (fun p => decide ((U.seq - p.1).toNat < 16)) })
      exec (.nbJobEnd u) s = .next (finishEndings (forgetAssists (· == nearAgent u) { t with blocked := s.blocked }))) ∧
    (∀ J, U.running = some J → J.over = none → (∀ x, J.stalled x = true ∨ nearHeld u J x s = true) →
      exec (.nbProgressWatchdog u) s = .next (s.putJob u { J with endCode := some 0x80 })) ∧
    (∀ J, U.running = some J → J.over = none → (J.stop = true ∨ U.holds.contains J.ctx = true) → ∃ t, exec (.nbSafePointWatchdog u) s = .next t ∧
      ∀ v, v / 8 = u / 8 → (t.unit v).inReset = true ∧ ∀ K ∈ (t.unit v).jobs, K.endCode ≠ none ∧ K.loads = [] ∧ K.stores = []) ∧
    ((∀ v, v / 8 = u / 8 → (s.unit v).jobs = []) → ∃ t, exec (.channelResetComplete u) s = .next t ∧ t.mm = s.mm ∧
      ∀ v, (v / 8 = u / 8 → (t.unit v).inReset = false) ∧ (v / 8 ≠ u / 8 → t.unit v = s.unit v)) ∧
    exec (.dramRefreshDue u) s = .next s

/-- The near-bank instructions of a hart (R275, R277, R278): nb.go of a well-formed descriptor answers the handle of a new
job of the home unit, or all ones when the unit takes none; nb.stat answers the status of a handle; nb.stop ends a job
that waits and marks one that runs. -/
def Claims.NearBankCommands : Prop :=
  ∀ (s : State) (h : Nat) (x : BitVec 1) (a d : BitVec 5), s.agent = .scalar h → (s.hart h).settled = true →
    let H := s.hart h
    let v := H.regs.readS a
    (H.full [a, d] [] → H.loop.st ≠ 3 → H.owes (fun _ => true) = false → v.toNat % 64 = 0 → ∀ n s2 u s3,
      let s1 := forceLoads h (fun _ => true) s
      let desc := BitVec.ofNat 512 n
      ownStalls h v.toNat 64 .read s1 = false → readAt (s1.who h) v.toNat 64 s1 = .ok n s2 → descOk desc = true →
      homeUnit h desc s2 = .ok u s3 →
      let U := s3.unit u
      (4 ≤ U.jobs.length ∨ U.inReset = true ∨ s3.reduced = true →
        exec (.nbGo x a d) s = .next (s3.setHart h ((s3.hart h).pendCmd d (.ready (BitVec.allOnes 64))))) ∧
      (U.jobs.length < 4 → U.inReset = false → s3.reduced = false → ∃ J : NbJob,
        let t := s3.setUnit u { U with jobs := U.jobs ++ [J], seq := U.seq + 1 }
        exec (.nbGo x a d) s =
          .next (t.setHart h ((t.hart h).pendCmd d (.ready (BitVec.ofNat 64 (u * 2 ^ 16 + (U.seq + 1).toNat))))) ∧
        J.desc = desc ∧ J.seq = U.seq + 1 ∧ J.started = false ∧ J.endCode = none ∧ J.hart = h ∧ J.level = (s3.hart h).plev ∧
        J.ctx = (s3.hart h).place.lctx.toNat)) ∧
    (H.full [a, d] [] → exec (.nbStat x a d) s =
      .next (s.setHart h (H.pendCmd d (.ready (s.jobStatus H.place.lctx.toNat v))))) ∧
    (H.full [a] [] →
      (s.heldJob H.place.lctx.toNat v = none → exec (.nbStop x a) s = .next (s.moved h H)) ∧
      (∀ J, s.heldJob H.place.lctx.toNat v = some J →
        (J.over ≠ none → exec (.nbStop x a) s = .next (s.moved h H)) ∧
        (J.over = none → exec (.nbStop x a) s = .next ((s.moved h H).putJob (v.toNat / 2 ^ 16)
          (if J.started = true ∧ J.parked = false then { J with stop := true } else { J with endCode := some 0x81 })))))

/-- Near-bank jobs and the commands of harts (R260 to R278). -/
def Obligations.NearBankService : Prop := Claims.NearBankJobs ∧ Claims.NearBankCommands

/-! ## Copies (R242 to R258) -/

/-- The copy commands (R245, R246, R253 to R256): cp.arr takes the arrival word and a well-formed configuration, cp.go
appends a copy to a channel that has been laid out and holds fewer than eight, cp.wm and cp.stat answer, cp.wait goes on
when the channel is empty and waits otherwise, cp.stop ends every copy of the channel. The queue performs cp.lay: the pair
of layouts becomes the channel's (R244). -/
def Obligations.CopyCommands : Prop :=
  (∀ (s : State) (h : Nat) (y x : BitVec 1) (b a c : BitVec 5), s.agent = .scalar h → (s.hart h).settled = true →
    let H := s.hart h
    let C := H.chan c.toNat
    let u := H.regs.readS a
    let v := H.regs.readS b
    (H.full [a, b] [] → u.toNat % 8 = 0 → cfgOk v = true →
      exec (.cpArr y x b a c) s = .next (s.moved h (H.setChan c.toNat { C with arrive := u, cfg := v }))) ∧
    (H.full [a, b] [] → C.copies.length < 8 → C.laySeen = true → exec (.cpGo y x b a c) s = .next (s.moved h
      (H.setChan c.toNat { C with copies := C.copies ++ [
        { src := u, dst := v, arrive := C.arrive, cfg := C.cfg, ticket := H.position, older := H.nextId, level := H.plev,
          replay := H.loop.st == 3, taken := none, layouts := none, accept := 0, loaded := false, kept := false, checked := 0, moves := [],
          written := [], poisoned := false }] }))) ∧
    (H.full [a] [] →
      exec (.cpWm a c) s = .next (s.setHart h (H.pendCmd a (.ready (BitVec.ofNat 64 C.wm)))) ∧
      exec (.cpStat a c) s = .next (s.setHart h (H.pendCmd a (.ready C.status)))) ∧
    (C.copies = [] → exec (.cpWait c) s = .next (s.moved h H)) ∧
    (C.copies ≠ [] → exec (.cpWait c) s = .next (s.setHart h { H with status := .waiting .copy })) ∧
    (let t := stopChannel h c.toNat s
     exec (.cpStop c) s = .next (t.moved h (t.hart h)) ∧ ((t.hart h).chan c.toNat).copies = [] ∧
       ((t.hart h).chan c.toNat).flt = false)) ∧
  ∀ (s : State) (h : Nat) (e : QEntry) (y x : BitVec 1) (b a c : BitVec 5) (p : LayoutPair), s.agent = .queue h →
    (s.hart h).headEntry = some e → (s.hart h).vec.vdirty.getLsbD 63 = false → (s.hart h).layoutPair a b = some p →
    let H := s.hart h
    let t := s.setHart h (H.setChan c.toNat ((H.chan c.toNat).capture p (fun J => H.reached J.ticket)))
    exec (.cpLay y x b a c) s = .next (t.setHart h (t.hart h).dequeue)

/-- The copy engine (R246 to R250, R257): a copy whose turn has come is accepted with its pair of layouts and its watermark
at 0; an element on this device, whose pages still have their keys, is read and written where the layouts say and the
watermark follows, poisoned when its source is or when the engine errs; a copy whose elements are all written increments its arrival word, with bit 63 on an error, and leaves. -/
def Obligations.CopyEngineMoves : Prop :=
  ∀ (s : State) (h : Nat) (c : Fin 32) (J : CopyJob) (rest : List CopyJob),
    let H := s.hart h
    let C := H.chan c
    C.copies = J :: rest →
    (∀ p, H.mayAccept C J = true → J.taken.getD C.layouts = some p →
      let s1 := forceEntries h J.ticket (forceOlder h J.older s)
      ∀ s2, acceptFault h J (some p) s1 = (none, s2) → ∃ t J', exec (.copyAccept h c) s = .next t ∧ t.mm = s2.mm ∧
        ((t.hart h).chan c).copies = J' :: rest ∧ J'.layouts = some p ∧ J'.src = J.src ∧ J'.dst = J.dst ∧
        (J.kept = false → ((t.hart h).chan c).wm = 0 ∧ J'.checked = 0)) ∧
    (∀ p m s1 j, J.layouts = some p → s.assistOf (copyAgent h c) = none → C.flt = false → j < layoutCount p.dst → C.wm = j * cfgSize J.cfg → J.checked = j →
      J.moves = [] → J.written = [] →
      waitsFor (olderExtents (h / 4) J.accept s) (.at (layoutAddr J.src p.src j) (cfgSize J.cfg) false) = false →
      waitsFor (olderExtents (h / 4) J.accept s) (.at (layoutAddr J.dst p.dst j) (cfgSize J.cfg) true) = false →
      checkElement h J p j s = .ok m s1 → m.src.stale s1 = false → m.dst.stale s1 = false → m.src.peer = none →
      m.dst.peer = none → s1.undisturbed none →
      let e := engineError (h / 4) H.place.lctx.toNat s1
      let s2 := writeLoc (copyWho h J s1) m.dst (readLoc m.src e.2) (fillLoc m.src e.2)
      ∃ t, exec (.copyElement h c j) s = .next t ∧ ((t.hart h).chan c).wm = (j + 1) * cfgSize J.cfg ∧
        t.mm = (if e.1 = true ∨ poisonedLoc m.src s1 = true then (poisonLoc m.dst s2).mm else s2.mm)) ∧
    (∀ p, J.layouts = some p → s.assistOf (copyAgent h c) = none → C.flt = false → C.wm = layoutCount p.dst * cfgSize J.cfg →
      let done (t : State) : State :=
        t.setHart h ((t.hart h).setChan c { (t.hart h).chan c with copies := rest, err := J.poisoned })
      (J.arrive = 0 → exec (.copyComplete h c) s = .next (done s)) ∧
      (∀ l s1, J.arrive ≠ 0 → accessBy (copyWho h J s) J.arrive.toNat 8 .write s = .ok l s1 → exec (.copyComplete h c) s =
        .next (done (writeLoc (copyWho h J s) l (arrivalValue (readLoc l s1) J.poisoned) s1))))

/-- An arrival word counts one more, and its bit 63 is set by an error and never cleared (R78, R93, R248). -/
def Obligations.ArrivalWordsCount : Prop :=
  ∀ (old : Nat) (err : Bool), old < 2 ^ 64 →
    arrivalValue old err % 2 ^ 63 = (old + 1) % 2 ^ 63 ∧
    (2 ^ 63 ≤ old ∨ err = true → 2 ^ 63 ≤ arrivalValue old err) ∧
    (old < 2 ^ 63 - 1 → err = false → arrivalValue old err = old + 1)

/-! ## Tile tasks and events (R290 to R314) -/

/-- tk.post of a record that passes its checks, with its events enabled, its waits entered and room in the table, answers
a handle and posts the task with an edge from every older task it must follow (R302, R303, R308). tk.stat answers the
status of a handle, or all ones; tk.cancel cancels a task that is not issued and answers 1, and else 0 (R309, R310). -/
def Claims.TaskCommands : Prop :=
  ∀ (s : State) (h : Nat) (x : BitVec 1) (a d : BitVec 5), s.agent = .scalar h → (s.hart h).settled = true →
    (s.hart h).full [a, d] [] →
    let H := s.hart h
    let v := H.regs.readS a
    let q := quarterOf (h / 4)
    (H.loop.st ≠ 3 → v.toNat % 128 = 0 → H.owes (fun _ => true) = false → H.copyStalls (fun _ => true) v.toNat 128 = false →
      ∀ n s1 ws s2 s3,
      let s0 := forceDone h (fun _ => true) (forceLoads h (fun _ => true) s)
      let T := newTask h (BitVec.ofNat 1024 n) s1
      readAt (s0.who h) v.toNat 128 s0 = .ok n s1 →
      firstFail (T.checks (s1.launchOf h) q s1.reduced) = none → (T.events = [] ∨ T.evbase.getLsbD 0 = true) →
      testEvents (h / 4) T T.events [] s1 = .ok ws s2 → (s2.scheduler q).tasks.length < 4096 →
      enterTaskWaiters q T.seq ws s2 = .ok s3 →
      let Q := s3.scheduler q
      let T1 := { T with
        w0 := !ws.any (fun w => w.2.1 == 0), w1 := !ws.any (fun w => w.2.1 == 1)
        edges := (Q.tasks.filter (fun U => T.edgeFrom U)).map (fun U => U.seq) }
      let t := s3.setScheduler q { Q with tasks := Q.tasks ++ [T1], seq := Q.seq + 1 }
      exec (.tkPost x a d) s =
        .next (t.setHart h ((t.hart h).pendCmd d (.ready (BitVec.ofNat 64 (q * 2 ^ 32 + T.seq)))))) ∧
    (let found := findTask v H.place.lctx.toNat s
     (found = none →
        exec (.tkStat x a d) s = .next (s.setHart h (H.pendCmd d (.ready (BitVec.allOnes 64)))) ∧
        exec (.tkCancel x a d) s = .next (s.setHart h (H.pendCmd d (.ready (BitVec.allOnes 64))))) ∧
     ∀ T live, found = some (T, live) →
        exec (.tkStat x a d) s = .next (s.setHart h (H.pendCmd d (.ready (T.status live)))) ∧
        (live = true → T.issued = false →
          let t := cancelTask (v.toNat / 2 ^ 32) T s
          exec (.tkCancel x a d) s = .next (t.setHart h ((t.hart h).pendCmd d (.ready 1)))) ∧
        (live = false ∨ T.issued = true → exec (.tkCancel x a d) s = .next (s.setHart h (H.pendCmd d (.ready 0)))))

/-- The scheduler (R300, R304): a free engine takes the chosen ready task once its spans translate, an issued task that no
older command holds up is performed, counts its arrival and its signal and leaves the table, and a ready task ages by one
level, up to seven. -/
def Claims.TasksRun : Prop :=
  (∀ (s : State) (core k : Nat), engineBusy core k s = false →
    let q := quarterOf core
    (chooseTask core k s = none → exec (.taskIssue core k) s = .next s) ∧
    ∀ T o ps s2, chooseTask core k s = some (T, o) → s.assistOf (taskAgent q T.seq) = none →
      let T1 := { T with core := core }
      translateSpans T1.who T1.spans []
        (s.setScheduler q { s.scheduler q with turn := some o.1, taken := o.2 }) = .ok ps s2 →
      exec (.taskIssue core k) s = .next (putTask q
        { T1 with issued := true, pages := ps, accept := (s2.core core).accept }
        (s2.setCore core { s2.core core with accept := (s2.core core).accept + 1 }))) ∧
  (∀ (s : State) (q n : Nat) (T : Task), (s.scheduler q).tasks[n]? = some T → T.issued = true → T.flt = false →
    T.staleKey s = false → (∀ x ∈ T.extents, waitsFor (olderExtents T.core T.accept s) x = false) →
    let R := runTask T s
    let T1 := { T with issued := true, err := R.bad, flags := R.fl.vst }
    exec (.taskComplete q n) s = .next (finishEndings (taskSignal T1 (taskArrive T1 R.bad
      (R.st.setScheduler q ((R.st.scheduler q).retire T1)))))) ∧
  ∀ (s : State) (q n : Nat) (T : Task), (s.scheduler q).tasks[n]? = some T → T.ready = true → T.issued = false →
    (s.scheduler q).tkage ≠ 0 → (s.scheduler q).holds.contains T.ctx = false →
    exec (.taskAging q n) s = .next (putTask q { T with age := min 7 (T.age + 1) } s)

/-- Tile tasks: the commands of harts and the scheduler (R290 to R310). -/
def Obligations.TasksComplete : Prop := Claims.TaskCommands ∧ Claims.TasksRun

/-- The event instructions in a context whose events are enabled and whose count can be reached (R306, R311 to R313):
ev.sig and ev.set note an update and empty their destination, ev.rd answers the count, ev.wait answers a count that meets
the target and otherwise waits at the event; an update that is due answers the old count and changes it, waking the
waiters it satisfies. -/
def Obligations.EventsComplete : Prop :=
  (∀ (s : State) (h : Nat) (y x : BitVec 1) (b a d : BitVec 5) (l : Loc) (s1 : State), s.agent = .scalar h →
    (s.hart h).settled = true → (s.hart h).full [a, b, d] [] → (s.eventBase (s.hart h).place.lctx.toNat).getLsbD 0 = true →
    let H := s.hart h
    reachCount (h / 4) H.place.lctx.toNat (s.eventBase H.place.lctx.toNat) (bits (H.regs.readS a) 0 16) s = .ok l s1 →
    let K := s1.hart h
    let v := bits (H.regs.readS b) 0 32
    let note (set : Bool) (n : Nat) : Out := .next (s1.moved h { K.markS d with
      updates := K.updates ++ [⟨l, set, n, d, K.position, K.nextId⟩] })
    let s2 := departConflicts none l.key 4 false s1
    let n := readLoc l s2
    exec (.evSig y x b a d) s = note false (if b = 0 then 1 else v) ∧
    exec (.evSet y x b a d) s = note true v ∧
    exec (.evRd x a d) s = .next (s2.setHart h ((s2.hart h).pendCmd d (.ready (BitVec.ofNat 64 n)))) ∧
    (H.status ≠ .waiting .event →
      (v ≤ n → exec (.evWait y x b a d) s = .next (s2.setHart h ((s2.hart h).pendCmd d (.ready (BitVec.ofNat 64 n))))) ∧
      ∀ s3, n < v → enterWaiter ⟨l.key, v, some h, d, none, false⟩ s2 = some s3 →
        exec (.evWait y x b a d) s = .next (s3.setHart h { s3.hart h with status := .waiting .event }))) ∧
  ∀ (s : State) (h n : Nat) (u : EventUpdate), (s.hart h).updates[n]? = some u →
    (s.hart h).reached u.ticket = true → (s.hart h).owesOlder u.older = false →
    (∀ v ∈ (s.hart h).updates.take n, v.loc.key ≠ u.loc.key) →
    let s1 := forceEntries h u.ticket (forceOlder h u.older s)
    let s2 := departConflicts none u.loc.key 4 false s1
    let s3 := s2.setHart h (({ s2.hart h with updates := (s2.hart h).updates.eraseIdx n } : Hart).fillS none u.dst
      (BitVec.ofNat 64 (readLoc u.loc s2)))
    exec (.eventUpdateApply h n) s =
      .next (updateCount (s3.who h) u.loc (fun c => if u.set then u.amount else c + u.amount) s3)

/-! ## The Duplicator (R279 to R288) -/

/-- lp.mark opens a loop in ST 1, or in ST 2 with DEP 6 for a request it cannot capture and 5 in the reduced service
(R280, R423); lp.iter, which outside a replay waits for the induction registers, counts an iteration, answering 0 in every state but a demonstration that goes on, whose last
iteration leaves its destination empty until the verdict (R281). That a request which is both bad and made in the reduced
service leaves DEP 6 is the model's reading (assumption 31, DEDUCED). Further, lp.end answers 0 at once, or waits for the stores of a
replay (R288); a loop that ends with the verdict awaited gives its destination 0 (R281); lp.stat answers lpst. -/
def Claims.LoopCommands : Prop :=
  ∀ (s : State) (h : Nat) (y x : BitVec 1) (b a d : BitVec 5) (k : BitVec 3), s.agent = .scalar h →
    let H := s.hart h
    let n := H.regs.readS a
    let c := H.regs.readS b
    let G := match H.loop.verdict with
      | some k => H.fillK k false
      | none => H
    (H.settled = true → H.full [a, b] [] → H.loop.st ≠ 3 → H.fullMask (bits c 32 32) = true →
      ∃ L, exec (.lpMark y x b a) s = .next (s.moved h { G with loop := L }) ∧ L.lpi = 0 ∧ L.lpn = n ∧ L.lpre = H.pc + 4 ∧
        L.init = H.regs.s ∧ bits L.lpst 32 32 = bits c 32 32 ∧
        (badRequest n c = false → s.reduced = false → L.st = 1 ∧ L.len = if bits c 0 4 = 0 then 3 else bits c 0 4) ∧
        (badRequest n c = true → L.st = 2 ∧ bits L.lpst 8 4 = 6) ∧
        (badRequest n c = false → s.reduced = true → L.st = 2 ∧ bits L.lpst 8 4 = 5)) ∧
    (H.checks = [] → H.full [] [k] →
      let may := H.fullMask (bits H.loop.lpst 32 32)
      (may = true → H.loop.st = 2 → exec (.lpIter k) s =
        .next (s.moved h ({ H with loop := { H.loop with lpi := H.loop.lpi + 1 } }.putK k false))) ∧
      (may = true ∨ H.loop.st = 3 → H.loop.st ≠ 1 → H.loop.st ≠ 2 → exec (.lpIter k) s = .next (s.moved h (H.putK k false))) ∧
      (may = true → H.loop.st = 1 → (H.loop.between = false ∨ H.pc = H.loop.lpre) →
        exec (.lpIter k) s = .next (s.moved h (H.endIteration k)) ∧ (H.endIteration k).loop.lpi = H.loop.lpi + 1) ∧
      (may = false → H.loop.st ≠ 3 → exec (.lpIter k) s = .next s)) ∧
    (H.checks = [] → H.full [d] [] →
      (H.loop.st = 3 → H.loop.endDst = none → exec (.lpEnd d) s =
        .next (s.moved h ({ H with loop := { H.loop with endDst := some d } }.markS d))) ∧
      (H.loop.st ≠ 3 → exec (.lpEnd d) s =
        .next (s.moved h ({ G with loop := { H.loop.setSt 0 with verdict := none } }.putS d 0))) ∧
      exec (.lpStat d) s = .next (s.setHart h (H.pendCmd d (.ready H.loop.lpst))))

/-- The verdict, the replay, a departure and the completion (R283 to R288): an awaited verdict confirms the template, once every
other register is full, or falls back with its DEP and answers 0; each replayed iteration that passes its checks is performed and lpwm goes up by
one; one that does not makes the replay depart at lpwm; when every iteration is performed, lp.end's destination becomes 1,
the flags of the replay are ORed in, and ST becomes 0. -/
def Claims.ReplayProceeds : Prop :=
  ∀ (s : State) (h : Nat),
    let H := s.hart h
    (let t := forceAll h s
     let K := t.hart h
     ∀ k, K.loop.verdict = some k → K.loop.st = 1 →
      (judge h t = 0 → K.onlyVerdict k = true →
        exec (.templateVerdict h) s = .next (t.setHart h (K.confirm k)) ∧ (K.confirm k).loop.st = 3) ∧
      (judge h t = 0 → K.onlyVerdict k = false → exec (.templateVerdict h) s = .next s) ∧
      (judge h t ≠ 0 → exec (.templateVerdict h) s =
        .next (t.setHart h ({ K with loop := K.loop.breach (judge h t) }.fillK k false)))) ∧
    (H.loop.st = 3 → H.loop.lpwm.toNat < H.loop.lpn.toNat →
      (∀ e v s1, nextIteration h s = .trap e v s1 →
        let t := s1.setHart h ((s1.hart h).depart H.loop.lpwm.toNat e)
        exec (.replayIteration h) s = .next t ∧ exec (.replayDeparture h e) s = .next t) ∧
      (∀ acc s1, nextIteration h s = .ok acc s1 →
        let r := performAccesses h H.loop.lpwm.toNat ⟨H.loop.frm.toNat, 0, false, false⟩ acc [] FFlags.none s1
        let G := r.2.hart h
        exec (.replayIteration h) s = .next (r.2.setHart h { G with loop := { G.loop with
          lpwm := G.loop.lpwm + 1, fflags := G.loop.fflags ||| r.1.fst } }))) ∧
    (∀ e, (H.depart H.loop.lpwm.toNat e).loop.st = 2 ∧ (H.depart H.loop.lpwm.toNat e).loop.lpi = BitVec.ofNat 64 H.loop.lpwm.toNat) ∧
    (∀ d, H.loop.endDst = some d → H.loop.st = 3 → H.loop.lpn.toNat ≤ H.loop.lpwm.toNat → ∃ K,
      exec (.replayComplete h) s = .next (s.setHart h K) ∧ K.loop.st = 0 ∧ K.loop.endDst = none ∧
      K.regs.readS d = (if d = 0 then 0 else 1) ∧ K.regs.isEmptyS d = false ∧ K.regs.fst = H.regs.fst ||| H.loop.fflags ∧
      K.pc = H.pc)

/-- The Duplicator: its commands, the verdict and the replay (R279 to R288). -/
def Obligations.LoopsReplay : Prop := Claims.LoopCommands ∧ Claims.ReplayProceeds

/-! ## The launch unit (R75 to R97) -/

/-- A command of hart h leaves the state t, in which s[d] is empty and owed the answer v, and the stream goes on (R101). -/
def Claims.Answers (i : Instr) (s : State) (h : Nat) (d : BitVec 5) (v : Word) (t : State) : Prop :=
  exec i s = .next (t.setHart h ((t.hart h).pendCmd d (.ready v)))

/-- go enqueues the record at its address and answers the sequence number the queue had; a queue that is disabled or full
answers all ones (R82). gq answers LQSTAT (R83). A doorbell of the host enqueues a record of an enabled host queue with room,
and otherwise sets OVF, which a write of DBSTAT with bit 19 clears (R81). The level at which what a record names is read, kept
in its entry, is the model's: that of the hart for go (assumption 65, DESIGN CHOICE), 1 for a doorbell (assumption 33,
UNVERIFIED). -/
def Claims.QueueCommands : Prop :=
  (∀ (s : State) (h q : Nat) (y x : BitVec 1) (b a d : BitVec 5) (l : Loc) (s1 : State), s.agent = .scalar h →
    (s.hart h).settled = true → (s.hart h).full [a, b, d] [] → (s.hart h).owes (fun _ => true) = false → q < 64 →
    (s.hart h).regs.readS b = BitVec.ofNat 64 q →
    ((s.hart h).plev = 0 → (s.queueAt q).ctx = (s.hart h).place.lctx.toNat) →
    let v := (s.hart h).regs.readS a
    let s0 := forceAll h s
    v.toNat % 64 = 0 → unitReaches v.toNat = true → ownStalls h v.toNat 64 .read s0 = false → accessBy (s0.who h) v.toNat 64 .read s0 = .ok l s1 →
    let Q := s1.queueAt q
    (Q.en = true → Q.entries.length < 32 → l.peer = none → Claims.Answers (.go y x b a d) s h d (Q.seq.setWidth 64)
      ((fillLoc l s1).setQueue q (Q.accept
      { addr := v, captured := some (BitVec.ofNat 512 (readLoc l s1)), read := none, ctx := (s1.hart h).place.lctx.toNat
        level := (s1.hart h).plev, bad := poisonedLoc l s1, checked := false, asked := false, clusters := none,
        pipe := none, within := none, num := 0 }))) ∧
    ((Q.en = false ∨ 32 ≤ Q.entries.length) → Claims.Answers (.go y x b a d) s h d (BitVec.allOnes 64) s1)) ∧
  (∀ (s : State) (h q : Nat) (x : BitVec 1) (a d : BitVec 5), s.agent = .scalar h → (s.hart h).settled = true →
    (s.hart h).full [a, d] [] → q < 64 → (s.hart h).regs.readS a = BitVec.ofNat 64 q →
    ((s.hart h).plev = 0 → (s.queueAt q).ctx = (s.hart h).place.lctx.toNat) →
    Claims.Answers (.gq x a d) s h d (s.queueAt q).stat s) ∧
  ∀ (s : State) (l : Nat) (v : Word), l < 64 →
    let Q := s.queueAt l
    (Q.host = true → Q.en = true → Q.entries.length < 32 → exec (.launchDoorbell l v) s =
      .next (s.setQueue l { Q with total := Q.total + 1, entries := Q.entries ++ [
        { addr := v, captured := none, read := none, ctx := 0, level := 1, bad := false, checked := false, asked := false,
          clusters := none, pipe := none, within := none, num := Q.total }] })) ∧
    ((Q.host = false ∨ Q.en = false ∨ 32 ≤ Q.entries.length) →
      exec (.launchDoorbell l v) s = .next (s.setQueue l { Q with ovf := true })) ∧
    exec (.dbstatWrite l v) s = .next (if v.getLsbD 19 then s.setQueue l { Q with ovf := false } else s)

/-- While the launch unit takes launches (R423) the head of a queue is checked once (R78): with the queue disabled it is
refused with code 8, a record that cannot be read or that fails a check is refused with its code and leaves the queue, and one
that passes stays, marked; code 6 for a clash of routes is judged on the placement of an idle device (assumption 71, DESIGN
CHOICE). The placement reads and checks again what the record names, and of the first head that fits starts its launch: each hart of each placed core starts at the entry address, its argument in
s1 and its virtual hart number in s2, every other register 0 and full, at level 0 (R84, R91, R97). -/
def Claims.LaunchPlacement : Prop :=
  (∀ (s : State) (l : Nat), l < 64 → (s.queueAt l).entries = [] → exec (.launchHeadCheck l) s = .next s) ∧
  (∀ (s : State) (l : Nat), s.launching = false → exec (.launchHeadCheck l) s = .next s) ∧
  (∀ (s : State) (l : Nat) (e : QueuedRecord) (rest : List QueuedRecord), s.launching = true → l < 64 →
    (s.queueAt l).entries = e :: rest →
    let Q := s.queueAt l
    (Q.en = false → exec (.launchHeadCheck l) s = .next (refuse l 8 e e.captured e.ctx s)) ∧
    (Q.en = true → e.checked = true → exec (.launchHeadCheck l) s = .next s) ∧
    (Q.en = true → e.checked = false →
      (∀ c ctx s1, headRecord Q e s = (.error c, ctx, s1) →
        exec (.launchHeadCheck l) s = .next (refuse l c e none ctx s1)) ∧
      (∀ r ctx s1 c s2, headRecord Q e s = (.ok r, ctx, s1) → recordCode Q ctx e r s1 = (c, s2) →
        (c ≠ 0 → exec (.launchHeadCheck l) s = .next (refuse l c e (some r) ctx s2)) ∧
        (c = 0 → s2.handsOver 1 = false → exec (.launchHeadCheck l) s = .next (s2.setQueue l { s2.queueAt l with
          entries := { e with read := some r, ctx := ctx, checked := true, asked := false } :: rest }))))) ∧
  (∀ (s : State) (n code ctx : Nat) (e : QueuedRecord), n < 64 →
    let Q := s.queueAt n
    (refuse n code e none ctx s).queueAt n = { Q with entries := Q.entries.drop 1, refcode := BitVec.ofNat 4 code }) ∧
  (∀ (s : State), s.launching = false → exec .placeLaunch s = .next s) ∧
  (∀ (s : State) (q n : Nat) (qs : List Nat) (e : QueuedRecord) (rest : List QueuedRecord) (r : BitVec 512) (N : Named)
    (s1 : State) (cores : List (Nat × Nat)), s.launching = true → headOrder s = q :: qs →
    (s.queueAt q).entries = e :: rest → s.freeLaunch = some n → e.read = some r →
    readNamed (e.namedWho e.ctx r) r s = (N, s1) →
    (namedCode r N ≠ 0 → exec .placeLaunch s = .next (refuse q (namedCode r N) e (some r) e.ctx s1)) ∧
    (namedCode r N = 0 → headFit e r N s1 = .on cores →
    exec .placeLaunch s = .next (startLaunch q n e r cores N s1) ∧
    (let imgs := (N.desc.map (fun D => (List.range 3).map (fun i => (i, D.images.getD i (0, 0, 0))))).getD []
     (cores.map (fun c => c.2)).Nodup → (copyImages (e.namedWho e.ctx r) cores (imgs.filter (fun i => i.2.2.1 != 0)) s1).1 = true →
     ∀ c ∈ cores, ∀ i, i ≤ bits r 104 2 → (startLaunch q n e r cores N s1).hart (4 * c.2 + i) =
       startHart r (placeRegs n r N.groups (4 * c.1 + i) e.pipe)))) ∧
  ∀ (n : Nat) (r : BitVec 512) (gs : List (BitVec 1024)) (b : Nat) (pipe : Option (Nat × Nat)), b < 65536 →
    let H := startHart r (placeRegs n r gs b pipe)
    H.pc = BitVec.ofNat 64 (bits r 0 56 + bits r 64 32) ∧ H.status = .running ∧ H.plev = 0 ∧ H.regs.empty = 0 ∧
      H.regs.readS 1 = BitVec.ofNat 64 (bits r 256 64) ∧ H.regs.readS 2 = BitVec.ofNat 64 b ∧
      (∀ d : BitVec 5, d ≠ 1 → d ≠ 2 → H.regs.readS d = 0) ∧ H.place.lvh = BitVec.ofNat 16 b ∧
      H.place.lctx = BitVec.ofNat 12 (bits r 116 12) ∧ H.place.ltag = BitVec.ofNat 16 (bits r 416 16)

/-- The launch unit: the queue commands, the check of a queue's head and the placement (R75 to R97). -/
def Obligations.LaunchUnitComplete : Prop := Claims.QueueCommands ∧ Claims.LaunchPlacement

/-! ## Journals (R380 to R392) -/

/-- The journal commands of a hart on an enabled journal of its context (R381 to R389): jr.rec writes a well-formed record
with its position into the ring, moves END and answers it, or answers all ones when the ring is full; jr.gate answers the
durable watermark once it has reached the position, and until then waits as a pending command; jr.dur answers it; jr.trunc
answers the truncation point, all ones under REF, or waits; jr.read answers 1 below the truncation point, 2 from END on,
and otherwise copies the record and answers 0. With the host's event queue full, jr.rec of a record that the host ships waits: its
step is taken back (R422). The detail of that event is the model's (assumption 40, DESIGN CHOICE). -/
def Claims.JournalCommands : Prop :=
  ∀ (s : State) (h j : Nat) (y x : BitVec 1) (b a d : BitVec 5), s.agent = .scalar h → (s.hart h).settled = true →
    (s.hart h).full [a, b, d] [] → j < 16 → (s.journalAt j).enabled = true →
    (s.journalAt j).ctx = (s.hart h).place.lctx.toNat →
    let H := s.hart h
    let J := s.journalAt j
    let u := H.regs.readS a
    let v := H.regs.readS b
    (v = BitVec.ofNat 64 j → u.toNat % 32 = 0 → H.owes (onStream 0) = false → ownStalls h u.toNat 32 .read s = false →
      ∀ n s2,
      let s1 := forceLoads h (onStream 0) s
      let r := BitVec.ofNat 256 n
      let K := s2.journalAt j
      readAt (s1.who h) u.toNat 32 s1 = .ok n s2 → journalRecordOk r = true →
      (K.full = true → Claims.Answers (.jrRec y x b a d) s h d (BitVec.allOnes 64) s2) ∧
      (K.full = false → ownStalls h (K.ring K.fin).toNat 32 .write s2 = false → ∀ m s3, accessBy (s2.who h) (K.ring K.fin).toNat 32 .write s2 = .ok m s3 →
        let s4 := (writeLoc (s2.who h) m (withJpos r K.fin).toNat s3).setJournal j { K with fin := K.fin + 1 }
        Claims.Answers (.jrRec y x b a d) s h d (BitVec.ofNat 64 (K.fin + 1))
          (if s4.handsOver 3 then wantRoom (wantHost 4 (BitVec.ofNat 192 (j + K.fin * 2 ^ 64)) s4) else s4))) ∧
    (u = BitVec.ofNat 64 j →
      (s.journal.ref = false →
        (bits v 0 56 ≤ J.dw → Claims.Answers (.jrGate y x b a d) s h d (BitVec.ofNat 64 J.dw) s) ∧
        (J.dw < bits v 0 56 →
          exec (.jrGate y x b a d) s = .next (s.setHart h (H.pendCmd d (.gate j (bits v 0 56)))))) ∧
      Claims.Answers (.jrDur x a d) s h d (BitVec.ofNat 64 J.dw) s ∧
      (bits v 0 56 ≤ J.fin →
        (bits v 0 56 ≤ J.tr → Claims.Answers (.jrTrunc y x b a d) s h d (BitVec.ofNat 64 J.tr) s) ∧
        (J.tr < bits v 0 56 → s.journal.ref = true →
          Claims.Answers (.jrTrunc y x b a d) s h d (BitVec.allOnes 64) s) ∧
        (J.tr < bits v 0 56 → s.journal.ref = false →
          exec (.jrTrunc y x b a d) s = .next (s.setHart h (H.pendCmd d (.trunc j (bits v 0 56))))))) ∧
    (u.toNat % 32 = 0 → v.getLsbD 63 = false → v.getLsbD 62 = false → bits v 56 6 = j →
      let pos := bits v 0 56
      (pos < J.tr → Claims.Answers (.jrRead y x b a d) s h d 1 s) ∧
      (J.tr ≤ pos → J.fin ≤ pos → Claims.Answers (.jrRead y x b a d) s h d 2 s) ∧
      (J.tr ≤ pos → pos < J.fin → ownStalls h (J.ring pos).toNat 32 .read s = false → ∀ n s1 m s2,
        readAt (s.who h) (J.ring pos).toNat 32 s = .ok n s1 → ownStalls h u.toNat 32 .write s1 = false →
        accessBy (s1.who h) u.toNat 32 .write s1 = .ok m s2 → m.peer = none →
        Claims.Answers (.jrRead y x b a d) s h d 0 (writeLoc (s1.who h) m n s2))) ∧
    (u.toNat % 32 = 0 → v.getLsbD 63 = true → v.getLsbD 62 = false → 1 ≤ H.plev.toNat →
      s.mirrorValid (bits v 56 6) = true →
      let m := s.mirror (bits v 56 6)
      let pos := bits v 0 56
      (pos < bits m 144 56 → Claims.Answers (.jrRead y x b a d) s h d 1 s) ∧
      (bits m 144 56 ≤ pos → bits m 200 56 ≤ pos → Claims.Answers (.jrRead y x b a d) s h d 2 s) ∧
      (bits m 144 56 ≤ pos → pos < bits m 200 56 →
        let s1 := physRead (mirrorRing m pos) 32 (physRead (s.mirrorAddr (bits v 56 6)) 32 s)
        poisoned s1.mm true (mirrorRing m pos) 32 = false → ownStalls h u.toNat 32 .write s1 = false → ∀ l s2,
        accessBy (s1.who h) u.toNat 32 .write s1 = .ok l s2 → l.peer = none →
        Claims.Answers (.jrRead y x b a d) s h d 0 (writeLoc (s1.who h) l (memRead s1.mm none (mirrorRing m pos) 32) s2)))

/-- What the tailstock and a source of mirrored records answer (R383, R384, R388, R392): an acknowledgment raises the
durable watermark, never past END and never down, and every gate it reaches answers; a truncation moves the truncation
point and answers; a record of a mirror entry with room goes into the ring and moves END behind it when it is the next, or
when it follows a gap into an entry that holds none, with TR (the gap is the model's reading, assumption 70, DEDUCED); one below the
truncation point, one for a full ring, or one that would leave a gap above held records goes nowhere. -/
def Claims.JournalAnswers : Prop :=
  (∀ (s : State) (j n : Nat), j < 16 → s.journal.tail.isSome = true → s.tailUnreached = false →
    (s.journalAt j).enabled = true →
    let J := s.journalAt j
    ∃ t, exec (.journalAck j n) s = .next t ∧ t.mm = s.mm ∧ t.journalAt j = { J with dw := max J.dw (min n J.fin) } ∧
      (∀ i, i < 16 → i ≠ j → t.journalAt i = s.journalAt i) ∧
      ∀ h c p, c ∈ (t.hart h).cmds → c.on = .gate j p → (t.journalAt j).dw < p) ∧
  (∀ (s : State) (h j t : Nat), j < 16 → (s.hart h).truncOf j = some t → t ≤ (s.journalAt j).dw →
    s.tailUnreached = false → s.journal.tail.isSome = true →
    let J := s.journalAt j
    let s1 := s.setJournal j { J with tr := max J.tr t }
    exec (.truncationAck h j) s = .next (s1.setHart h ((s1.hart h).answerCmds (fun a => match a with
      | .trunc i u => if i = j ∧ u = t then some (BitVec.ofNat 64 t) else none
      | _ => none)))) ∧
  ∀ (s : State) (p j n e : Nat) (r : List Byte), s.mirrorOf (s.peerOn p) j = some e →
    let s1 := lookMirrors s
    let m := s.mirror e
    let fin := bits m 200 56
    let tr := bits m 144 56
    let room := fin - tr < 2 ^ bits m 136 5
    (n < tr ∨ (fin ≤ n ∧ ¬room) ∨ (fin < n ∧ tr < fin) → exec (.mirrorRecordWrite p j n r) s = .next s1) ∧
    (tr ≤ n → s.portUp p = true → s.journal.closed.contains e = false →
      r.length = 32 → isStackPa (mirrorRing m n) = true →
      let put (v : BitVec 256) : Out := .next (setMirror e v (physWrite (mirrorRing m n) 32 (bytesToNat r) s1))
      (n < fin → exec (.mirrorRecordWrite p j n r) s = put m) ∧
      (n = fin → room → exec (.mirrorRecordWrite p j n r) s = put (putField m 200 56 (n + 1))) ∧
      (fin < n → room → fin ≤ tr → exec (.mirrorRecordWrite p j n r) s = put (putField (putField m 144 56 n) 200 56 (n + 1))))

/-- The journals: the commands of a hart and the answers that come from outside (R380 to R392). -/
def Obligations.JournalsComplete : Prop := Claims.JournalCommands ∧ Claims.JournalAnswers

/-! ## Pipelines (R366 to R379) -/

/-- pl.hash stores the SHA3-256 of a well-formed stage record with its digest and parameters, and answers its first eight
bytes (R366, R367; the digest's bit order is PRESUMED, assumption 26); the device knows the handle's stage by bit 0 of NMODE,
its fixed-order bit (R55). -/
def Claims.StageHash : Prop :=
  ∀ (s : State) (h : Nat) (y x : BitVec 1) (b a d : BitVec 5), s.agent = .scalar h → (s.hart h).settled = true →
    (s.hart h).full [a, b, d] [] →
    let u := (s.hart h).regs.readS a
    let v := (s.hart h).regs.readS b
    let free (t : State) (a n : Nat) : Prop := (t.hart h).owes (onStream 0) = false ∧ ownStalls h a n .read t = false
    u.toNat % 64 = 0 → v.toNat % 32 = 0 → (s.hart h).q0Free v.toNat 64 = true → free s u.toNat 64 → ∀ rd s1 dg s2 prm s3 l s4,
    readSpan (s.who h) (spanPages 64) u.toNat 64 (forceLoads h (onStream 0) s) = .ok rd s1 →
    free s1 v.toNat 32 →
    readSpan (s1.who h) (spanPages 32) v.toNat 32 (forceLoads h (onStream 0) s1) = .ok dg s2 →
    let r := bytesToNat rd
    let pa := r / 2 ^ 288 % 2 ^ 64
    let pn := r / 2 ^ 352 % 2 ^ 32
    stageRecordOk r = true → free s2 pa pn →
    readSpan (s2.who h) (spanPages pn) pa pn (forceLoads h (onStream 0) s2) = .ok prm s3 →
    ownStalls h (v.toNat + 32) 32 .write s3 = false →
    accessBy (s3.who h) (v.toNat + 32) 32 .write s3 = .ok l s4 → l.peer = none →
    let hd := sha3 (handleInput dg r prm)
    Claims.Answers (.plHash y x b a d) s h d (BitVec.ofNat 64 (bytesToNat (hd.take 8)))
      (noteStage (BitVec.ofNat 256 (bytesToNat hd)) (r % 2 == 1) (writeLoc (s3.who h) l (bytesToNat hd) s4))

/-- The pipeline commands of a hart that read a record (R373 to R376): pl.bind of a well-formed record whose stages and
instances all lie here, and that attaches to no entry, launches every stage and answers the new handle; when a
stage's node is not up it answers the refusal with reason 1. pl.send and pl.recv of a well-formed descriptor wait as a pending command
until they can be answered, which may be at once. That a handle's sequence number counts the binds that succeed, and that
reason 1 comes before 3 and 2, is the model's (assumption 49, DESIGN CHOICE and DEDUCED). -/
def Claims.PipelineRecords : Prop :=
  ∀ (s : State) (h : Nat) (x : BitVec 1) (a d : BitVec 5), s.agent = .scalar h → (s.hart h).settled = true →
    (s.hart h).full [a, d] [] →
    let H := s.hart h
    let u := H.regs.readS a
    let free (t : State) (n : Nat) : Prop := (t.hart h).owes (onStream 0) = false ∧ ownStalls h u.toNat n .read t = false
    (u.toNat % 64 = 0 → H.owes (fun _ => true) = false →
      let s0 := forceDone h (fun _ => true) (forceLoads h (fun _ => true) s)
      free s0 64 → ∀ v s2 bs s3,
      let s1 := forceLoads h (onStream 0) s0
      let hd := BitVec.ofNat 512 v
      let n := bits hd 0 5
      readAt (s1.who h) u.toNat 64 s1 = .ok v s2 → ownStalls h (u.toNat + 64) (64 * n) .read s2 = false →
      readSpan (s2.who h) (spanPages (64 * n)) (u.toNat + 64) (64 * n) s2 = .ok bs s3 →
      let st := (List.range n).map (fun i => BitVec.ofNat 512 (bytesToNat ((bs.drop (64 * i)).take 64)))
      bindHeaderOk hd = true → st.all stageEntryOk = true →
      exec (.plBind x a d) s = .next (bindPipeline h hd st d s3) ∧
      let p0 := bits hd 128 40
      let ks := prefixKeys (BitVec.ofNat 256 (bits hd 256 256)) st
      let ph := BitVec.ofNat 64 (s3.links.lkid.toNat * 2 ^ 48 + s3.pipes.seq % 2 ^ 48)
      (∀ k ks', ks = k :: ks' → s3.entryOf k = none → (∀ e ∈ st, s3.isHere (BitVec.ofNat 16 (bits e 80 16)) = true) →
        let L := launchInsts ph ks st p0 (s3.hart h).plev (List.range st.length) s3
        let P : Pipeline := {
          handle := ph, ctx := (s3.hart h).place.lctx.toNat, level := (s3.hart h).plev, header := hd, stages := st
          insts := L.1, depth := 0, st := 1, waits := [] }
        let s5 := setInbox { who := .sink ph, msgs := [], next := p0, ended := false, failed := false }
          { L.2 with pipes := { L.2.pipes with pipes := L.2.pipes.pipes ++ [P] } }
        ∀ s6, queueStages ph st (s3.hart h).plev (List.range st.length) s5 = (none, s6) →
          Claims.Answers (.plBind x a d) s h d ph { s6 with pipes := { s6.pipes with seq := s6.pipes.seq + 1 } }) ∧
      (∀ k ks', ks = k :: ks' → s3.entryOf k = none → (∃ e ∈ st, s3.nodeUp (BitVec.ofNat 16 (bits e 80 16)) = false) →
        leading (st.any (fun e => !s3.isHere (BitVec.ofNat 16 (bits e 80 16)))) (ks.take (sharable st s3)) s3 = (0, s3) →
        Claims.Answers (.plBind x a d) s h d 0xFFFFFFFFFFFFFF01 s3)) ∧
    (u.toNat % 32 = 0 → free s 32 → ∀ v s2,
      let s1 := forceLoads h (onStream 0) s
      let m := BitVec.ofNat 256 v
      let ph := BitVec.ofNat 64 (bits m 0 64)
      let k := bits m 128 4
      let len := bits m 160 16
      readAt (s1.who h) u.toNat 32 s1 = .ok v s2 → descriptorOk m = true →
      (H.gateWaits H.nextId = false → (s.journal.ref && s.ownsJournal H.place.lctx.toNat) = false →
        len ≤ sendLimit ph k s2 → (s2.hart h).owes (fun _ => true) = false →
        let s3 := forceDone h (fun _ => true) (forceLoads h (fun _ => true) s2)
        ∀ data s4, readSpan (s3.who h) (spanPages len) (bits m 192 56) len s3 = .ok data s4 →
          exec (.plSend x a d) s =
            .next (settle (s4.setHart h ((s4.hart h).pendCmd d (.send ph k (bits m 64 40) data))))) ∧
      (∀ s3, checkSpan (s2.who h) (spanPages len) (bits m 192 56) len s2 = .ok () s3 →
        exec (.plRecv x a d) s =
          .next (settle (s3.setHart h ((s3.hart h).pendCmd d (.recv ph k (BitVec.ofNat 64 (bits m 192 56)) len)))))) ∧
    (∀ P, s.pipeline u = some P → P.ctx = H.place.lctx.toNat →
      (2 ≤ P.st.toNat → Claims.Answers (.plEnd x a d) s h d 0 s) ∧
      (P.st.toNat < 2 →
        exec (.plEnd x a d) s = .next (settle (answer h d 0 (pipeArrive P false (closePipeline P false s)))))) ∧
    ((s.pipeline u = none ∨ ∃ P, s.pipeline u = some P ∧ P.ctx ≠ H.place.lctx.toNat) →
      Claims.Answers (.plEnd x a d) s h d (BitVec.allOnes 64) s) ∧
    (∀ P, s.pipeline u = some P → Claims.Answers (.plStat x a d) s h d (s.pipeStatus P) s) ∧
    (s.pipeline u = none → Claims.Answers (.plStat x a d) s h d (BitVec.allOnes 64) s)

/-- When a send or a receive is answered, and what it leaves (R371, R375, R376): a feed of the source answers 3 in a
pipeline that has ended, 1 when the pipeline does not own stage 0, 2 at another position than the next, and 0 with the
message before stage 0 while its inbox has room; it waits when it has none. Of a stage 0 shared on another device the next
position is the one that the device there tells. A receive takes the oldest message, writing its bytes at the address of the
descriptor, block by block, and answering its length and position; it refuses a buffer too small, and sees the end of the stream once no message is left; it waits for one
otherwise. -/
def Claims.Messages : Prop :=
  (∀ (s : State) (ph : Word) (pos : Nat) (data : List Byte) (P : Pipeline) (i : Nat) (X : StageInstance),
    s.pipeline ph = some P → P.insts[0]? = some i → s.stageInst i = some X →
    let B := s.inbox (.stage X.id)
    (2 ≤ P.st.toNat → trySend ph 15 pos data s = (some 3, s)) ∧
    (P.st.toNat < 2 → X.owner ≠ some ph → trySend ph 15 pos data s = (some 1, s)) ∧
    (P.st.toNat < 2 → X.owner = some ph → pos ≠ B.tail → trySend ph 15 pos data s = (some 2, s)) ∧
    (P.st.toNat < 2 → X.owner = some ph → pos = B.tail → s.isHere X.dev = true →
      (B.full = true → trySend ph 15 pos data s = (none, s)) ∧
      (B.full = false → B.ended = false → ∃ t, trySend ph 15 pos data s = (some 0, t) ∧
        t.inbox (.stage X.id) = { B with msgs := B.msgs ++ [⟨pos, data, true⟩] } ∧ t.mm = s.mm ∧ t.harts = s.harts))) ∧
  (∀ (s : State) (p : Nat) (ph y z : Word) (key : List Byte) (X : StageInstance), p < 16 → (s.port p).up = true →
    s.pipes.insts.find? (fun X => X.key == some (BitVec.ofNat 256 (bytesToNat key)) && X.users.contains ph && !s.isHere X.dev) = some X →
    ∃ t, exec (.peerMessageReceive p 10 ph y z key) s = .next t ∧ (t.inbox (.stage X.id)).tail = bits y 0 40 + (s.inbox (.stage X.id)).msgs.length ∧
      t.pipes.insts = s.pipes.insts.map (fun Y => if Y.id = X.id then { X with owner := some ph } else Y)) ∧
  ∀ (s : State) (h : Nat) (ph addr : Word) (k cap : Nat) (r : Receiver), s.receiver ph k = some r →
    let B := s.inbox r
    (∀ m rest, B.msgs = m :: rest →
      (cap < m.data.length →
        tryRecv h ph k addr cap s = (some (BitVec.ofNat 64 (2 ^ 62 + m.data.length * 2 ^ 40)), s)) ∧
      (m.data.length ≤ cap → ∃ t, tryRecv h ph k addr cap s =
        (some (BitVec.ofNat 64 (m.data.length * 2 ^ 40 + m.pos % 2 ^ 40)), t) ∧
        t.inbox r = { B with msgs := rest, next := m.pos + 1 } ∧
        t.mm = (writeSpan (s.who h) (spanPages m.data.length) addr.toNat m.data s).mm ∧
        ∀ s1, m.data ≠ [] → addr.toNat % 4096 + m.data.length ≤ 4096 →
          writeAt (s.who h) addr.toNat m.data.length (bytesToNat m.data) s = .ok () s1 → t.mm = s1.mm)) ∧
    (B.msgs = [] → B.ended = true → tryRecv h ph k addr cap s =
      (some (BitVec.ofNat 64 (2 ^ 63 + (if B.failed then 2 ^ 61 else 0))), s)) ∧
    (B.msgs = [] → B.ended = false → tryRecv h ph k addr cap s = (none, s))

/-- The pipelines: their commands, and how a message is sent and received (R366 to R379). -/
def Obligations.PipelinesComplete : Prop := Claims.StageHash ∧ Claims.PipelineRecords ∧ Claims.Messages

/-! ## The links (R210, R358 to R365) -/

/-- The host link (R210, R358, R359, R423): it comes up at 16, 8 or 4 lanes; in the full service a request for stack memory
that no sealed page covers reads or writes it, one that a sealed page covers is logged with TYPE 9, and before it a request
changes nothing; a snoop of a host line leaves it clean and not owned or gone, and what the host then writes to its own
memory is what the line reads as; an integrity failure takes the link down. How the device knows a sealed page is assumption
14 (DEDUCED), and that TYPE 9 is logged at level 8 is assumption 42 (DEDUCED). -/
def Claims.HostLink : Prop :=
  (∀ (s : State) (w : Nat), (w = 16 ∨ w = 8 ∨ w = 4) →
    exec (.hostLinkTrained w) s = .next { s with links := { s.links with hostUp := true, hostWidth := w } }) ∧
  (∀ (s : State) (a n : Nat) (w : List Byte), s.trust.bstSt ≠ 3 → exec (.cxlMemRequest a w n) s = .next s) ∧
  (∀ (s : State) (a n : Nat) (w : List Byte), s.links.hostUp = true → s.trust.bstSt = 3 →
    (w = [] → 0 < n → isStackPa a = true → isStackPa (a + n - 1) = true →
      (sealedAt s a n = false → exec (.cxlMemRequest a w n) s = .next (physRead a n s)) ∧
      (sealedAt s a n = true →
        exec (.cxlMemRequest a w n) s = .next (logError s 8 ⟨BitVec.ofNat 56 a, 9, 0, 0, 1, 0⟩))) ∧
    (w ≠ [] → isStackPa a = true → isStackPa (a + w.length - 1) = true →
      (sealedAt s a w.length = false → exec (.cxlMemRequest a w n) s = .next (physWrite a w.length (bytesToNat w) s)) ∧
      (sealedAt s a w.length = true →
        exec (.cxlMemRequest a w n) s = .next (logError s 8 ⟨BitVec.ofNat 56 a, 9, 0, 0, 1, 0⟩)))) ∧
  (∀ (s : State) (a : Nat) (line : L2Line), isHostPa a = true → tfind s.mm.l2 (a / 64) = some line →
    (∃ t, exec (.hostSnoop ⟨a, []⟩) s = .next t ∧ t.mm.cells = s.mm.cells ∧
      (Config.freeBool s.free = true →
        tfind t.mm.l2 (a / 64) = some { line with dirty := 0, presence := 0, owned := false }) ∧
      (Config.freeBool s.free = false → tfind t.mm.l2 (a / 64) = none)) ∧
    ∀ w : List Byte, w ≠ [] → a % 64 + w.length ≤ 64 → ∃ (t : State) (m : MemSys), exec (.hostSnoop ⟨a, w⟩) s = .next t ∧
      t.mm = memWrite m none a w.length (bytesToNat w) ∧ m.cells = s.mm.cells ∧ tfind m.l2 (a / 64) = none) ∧
  ∀ (s : State), ∃ t, exec .cxlIdeFailure s = .next t ∧ t.links = { s.links with hostUp := false } ∧ t.mm = s.mm ∧
    t.harts = s.harts

/-- The peer ports (R360 to R365, R423): a port comes up in the full service with a new key epoch; a flit that fails its
CRC or is not the next due is discarded and counted as a retry, and the next one due moves SEQ on; an epoch change starts
the message counter again; an idle flit takes a place in the replay buffer; a message that fails authentication sets
AUTHF and takes the port down, and any other counts; a port that is not live goes down; a request inside the window is
performed, piece by piece where it meets several pages, one outside is logged with TYPE 10. The start and the bit order of the
CRC are PRESUMED (assumption 27), and how a sealed page is known is DEDUCED (assumption 14). -/
def Claims.PeerPorts : Prop :=
  ∀ (s : State) (p : Nat), p < 16 →
    let P := s.port p
    (P.up = false → s.trust.bstSt = 3 → ∀ n w, ∃ Q, exec (.portTrainUp p n w) s = .next (s.setPort p Q) ∧ Q.up = true ∧
      Q.peer = BitVec.ofNat 16 n ∧ Q.lanes = w ∧ Q.rxSeq = 0 ∧ Q.txSeq = 0 ∧ Q.unacked = 0 ∧ Q.rxEpoch = P.rxEpoch + 1 ∧
      Q.txEpoch = P.txEpoch + 1 ∧ Q.rxCount = 0 ∧ Q.lkinb = P.lkinb) ∧
    (P.up = true →
      (∀ r : List Byte, r.length = 144 →
        let hd := BitVec.ofNat 64 (bytesToNat (r.take 8))
        let good := crc64 (r.take 136) = BitVec.ofNat 64 (bytesToNat (r.drop 136)) ∧ bits hd 48 16 = P.rxSeq.toNat
        (¬good → exec (.flitReceive p r) s = .next (s.setPort p { P with retry := min 0xFFFF (P.retry + 1) })) ∧
        (good → ∃ Q, exec (.flitReceive p r) s = .next (s.setPort p Q) ∧ Q.rxSeq = P.rxSeq + 1 ∧ Q.up = true ∧
          Q.peer = P.peer ∧ Q.retry = P.retry ∧ (bits hd 0 4 = 2 → Q.rxEpoch = P.rxEpoch + 1 ∧ Q.rxCount = 0) ∧
          (bits hd 0 4 ≠ 2 → Q.rxEpoch = P.rxEpoch ∧ Q.rxCount = P.rxCount))) ∧
      exec (.keyEpochChange p) s = .next (s.setPort p { P with rxEpoch := P.rxEpoch + 1, rxCount := 0 }) ∧
      (P.unacked < 256 → exec (.idleFlitSend p) s =
        .next (s.setPort p { P with txSeq := P.txSeq + 1, unacked := P.unacked + 1 })) ∧
      (256 ≤ P.unacked → exec (.idleFlitSend p) s = .next s) ∧
      (let Q := { P with up := false, unacked := 0, parts := Vector.replicate 4 0 }
       let s1 := s.setPort p Q
       ((∃ q : Fin 16, q.val ≠ p ∧ s.ports[q].up = true ∧ s.ports[q].peer = P.peer) →
          exec (.portLivenessExpiry p) s = .next s1) ∧
       ((∀ q : Fin 16, q.val ≠ p → ¬(s.ports[q].up = true ∧ s.ports[q].peer = P.peer)) →
          exec (.portLivenessExpiry p) s = .next (nodeLost P.peer s1))) ∧
      (∀ x y z r, exec (.peerMessageReceive p 0 x y z r) s =
        .next (logError (portDown p (s.setPort p { P with authf := true })) 8 ⟨BitVec.ofNat 56 p, 8, 0, p, 1, 0⟩)) ∧
      (∀ k x y z r, k ≠ 0 → exec (.peerMessageReceive p k x y z r) s =
        .next (deliver p k x y z r (s.setPort p { P with rxCount := P.rxCount + 1 }))) ∧
      (∀ k a n r, 0 < n → (k < 2 ∨ n = (AmoOp.of (k - 2)).size) →
        let b := redirected s.mm.mig a
        let ps := inboundPieces (decide (2 ≤ k)) a n s
        ((2 ≤ k ∨ n ≤ 4096 - a % 4096) → ps = [(b, n)]) ∧
        ((inWindow P a n = false ∨ ∃ q ∈ ps, sealedAt s q.1 q.2 = true) → exec (.inboundRequest p k a n r) s =
          .next (logError s 8 ⟨BitVec.ofNat 56 a, 10, 0, p, 1, 0⟩)) ∧
        (inWindow P a n = true → (∀ q ∈ ps, sealedAt s q.1 q.2 = false) →
          (k = 0 → exec (.inboundRequest p k a n r) s = .next (ps.foldl (fun t q => physRead q.1 q.2 t) s)) ∧
          (k = 1 → exec (.inboundRequest p k a n r) s = .next (ps.foldl (fun t q =>
            (t.1.drop q.2, physWrite q.1 q.2 (bytesToNat (t.1.take q.2)) t.2)) (r, s)).2) ∧
          (2 ≤ k →
            let s1 := departConflicts none b n true s
            let op := AmoOp.of (k - 2)
            let l := physLoc b n
            let new := op.new (readLoc l s1) (BitVec.ofNat 64 (bytesToNat (r.take 8)))
              (BitVec.ofNat 64 (bytesToNat (r.drop 8)))
            exec (.inboundRequest p k a n r) s =
              .next (if poisonedLoc l s1 then s1 else writeLoc (unitWho 0 1) l new s1)))))

/-- The host link and the peer ports (R210, R358 to R365). -/
def Obligations.LinksComplete : Prop := Claims.HostLink ∧ Claims.PeerPorts

/-! ## Trust and bring-up (R414 to R426) -/

/-- An image that the ROM takes: its digest is that of its body, its signature verifies under the vendor key whose digest is
fused, its version is not below the fused minimum, and it names this part (R414). -/
def Claims.accepted (m : FirmwareImage) : Prop :=
  m.digest = sha3 m.body ∧ sha3 m.key = Config.vendorKey ∧ m.signature.length = 2420 ∧
    Config.mldsaVerify m.key m.digest m.signature = true ∧ Config.minSvn.toNat ≤ m.svn.toNat ∧ Config.namesPart m.part = true

/-- Reset and bring-up (R414, R415, R423, R424, R426): power-on reset runs the ROM, which extends a measurement with each
image it takes and halts at the first that fails, or begins the reduced service; a stack ends its training trained or
failed; with the eighth that trains the full service begins, and the launch unit waits until quarter 0 holds no launch;
throttling sets and clears its state and nothing else. That the node identifier comes with the third image is the model's
choice (assumption 38, DESIGN CHOICE). -/
def Claims.BringUp : Prop :=
  (∀ (s : State) (a b c d : FirmwareImage) (r : List FirmwareImage) (k : Nat), r = [a, b, c, d] → k ≤ 4 →
    (∀ m ∈ r.take k, Claims.accepted m) → (∀ m, r[k]? = some m → ¬Claims.accepted m) →
    ∃ t, exec (.powerOnReset a b c d) s = .next t ∧ t.harts = State.reset.harts ∧ t.mm = State.reset.mm ∧
      t.ports = State.reset.ports ∧ t.trust.svn = a.svn ∧
      (k = 4 → t.trust.halted = false ∧ t.trust.bstSt = 2 ∧ t.links.lkid = c.node) ∧
      (k < 4 → t.trust.halted = true ∧ t.trust.bstSt = 1 ∧ t.trust.status = BitVec.ofNat 64 (0xDEAD0000 + k) ∧
        t.links.lkid = 0) ∧
      ∀ i : Fin 8,
        (∀ m, i.val < k → r[i.val]? = some m →
          t.trust.meas[i] = BitVec.ofNat 256 (bytesToNat (sha3 (bytesOf 32 0 ++ exactly 32 m.digest)))) ∧
        (k ≤ i.val → t.trust.meas[i] = 0)) ∧
  (∀ (s : State) (x : Nat), x < 8 → s.trust.bstSt = 2 → s.trust.trained.getLsbD x = false →
    s.trust.failed.getLsbD x = false →
    (let all := putBit s.trust.trained x true
     exec (.stackTraining x 1) s = .next { s with trust := { s.trust with
       trained := all, bstSt := if all = 0xFF then 3 else 2, draining := all == 0xFF } }) ∧
    ∃ t, exec (.stackTraining x 0) s = .next t ∧ t.trust.failed = putBit s.trust.failed x true ∧
      t.trust.trained = s.trust.trained ∧ t.trust.bstSt = 2 ∧ t.trust.msix = 1 :: s.trust.msix ∧ t.mm = s.mm) ∧
  (∀ (s : State), s.trust.bstSt = 3 → s.trust.draining = true →
    ((∀ L ∈ s.launch.resident, ∀ c ∈ L.2.cores, quarterOf c.2 ≠ 0) →
      exec .fullServiceEntry s = .next { s with trust := { s.trust with draining := false } }) ∧
    (∀ L ∈ s.launch.resident, ∀ c ∈ L.2.cores, quarterOf c.2 = 0 → exec .fullServiceEntry s = .next s) ∧
    s.launching = false) ∧
  ∀ (s : State), exec .powerThrottle s = .next { s with trust := { s.trust with throttle := true } } ∧
    exec .drawBelowLimit s = .next { s with trust := { s.trust with throttle := false } }

/-- The data area after bytes are put at its start. -/
def Claims.dataAt (d area : List Byte) : List Byte := d ++ area.drop d.length

/-- The mailbox commands of the host (R417): number, event, bytes that come with it, and what runs. -/
noncomputable def Claims.commands (v : Word) (w r : List Byte) (n : Nat) (a : List Word) : List (Word × Instr × List Byte × MailboxJob) :=
  [ (1, .quote r, exactly 32 r, .quote r), (2, .pubkeys, [], .pubkeys),
    (3, .keyload v w r, bytesOf 8 v.toNat ++ exactly 1088 w ++ exactly 48 r, .keyload v w r),
    (4, .keyclr v, bytesOf 8 v.toNat, .keyclr v), (5, .extend v r, bytesOf 8 v.toNat ++ exactly 32 r, .extend v r),
    (6, .event, [], .event), (7, .reply n a, bytesOf 8 n ++ a.flatMap (fun (u : Word) => bytesOf 8 u.toNat), .reply n a),
    (8, .state, [], .state) ]

/-- The mailbox after the ROM (R415 to R420, R424): a write of CMD starts a command, which shows STATUS bit 63 until its turn ends it;
another write meanwhile is dropped and sets bit 62. A command ends with its STATUS code and its bytes in the data area: a quote over
the nonce, the measurements and the versions with its signature; the public keys; the boot state; a measurement from 4 to 7
extended; a key loaded into a slot other than 0 or refused when its tag fails; a key cleared; an unknown code refused. A key
command waits for an update under its slot. -/
def Claims.Mailbox : Prop :=
  (∀ (s : State) (v : Word) w r n a, s.trust.bstSt ≠ 1 →
    let T := s.trust
    let starts (e : Word × Instr × List Byte × MailboxJob) : Prop :=
      let U : TrustState := { T with data := Claims.dataAt e.2.2.1 T.data }
      (T.job = none → exec e.2.1 s =
        .next { s with trust := { U with cmd := e.1, status := 1#64 <<< 63, job := some e.2.2.2 } }) ∧
      (T.job ≠ none → exec e.2.1 s = .next { s with trust := { U with status := T.status ||| (1#64 <<< 62) } })
    (∀ e ∈ Claims.commands v w r n a, starts e) ∧
    (bits v 0 8 = 0 ∨ 8 < bits v 0 8 → starts (v, .unknownMailboxCode v, [], .unknown))) ∧
  ∀ (s : State),
    let T := s.trust
    let t := mailboxTurn s
    let ends (code : Nat) : Prop :=
      t.trust.job = none ∧ t.trust.cmd = T.cmd ∧ t.trust.status = (T.status &&& (1#64 <<< 62)) ||| BitVec.ofNat 64 code
    let gives (d : List Byte) : Prop := ends 0 ∧ t.trust.data = Claims.dataAt d T.data
    (T.job = none → t = s) ∧
    (∀ r, T.job = some (.quote r) → t.trust.meas = T.meas ∧ t.trust.keys = T.keys ∧
      gives (quoteBody r s ++ exactly 2420 (Config.mldsaSign T.identitySeed (sha3 (quoteBody r s)) s.free))) ∧
    (T.job = some .pubkeys →
      gives (exactly 1312 (Config.mldsaPublic T.identitySeed) ++ exactly 1184 (Config.mlkemPublic T.transportSeed))) ∧
    (T.job = some .state → gives (bytesOf 8 T.bstate.toNat)) ∧
    (T.job = some .unknown → ends 1) ∧
    (∀ (v : Word) r, T.job = some (.extend v r) →
      (4 ≤ v.toNat → v.toNat ≤ 7 → ends 0 ∧
        ∀ i : Fin 8, t.trust.meas[i] = if i.val = v.toNat
          then BitVec.ofNat 256 (bytesToNat (sha3 (bytesOf 32 T.meas[i].toNat ++ exactly 32 r))) else T.meas[i]) ∧
      (v.toNat < 4 ∨ 7 < v.toNat → ends 2 ∧ t.trust.meas = T.meas)) ∧
    (∀ (v : Word) w r, T.job = some (.keyload v w r) →
      let n := bits v 0 10
      (n = 0 → ends 2 ∧ t.trust.keys = T.keys) ∧
      (n ≠ 0 → slotAwaited n s = true → t = s) ∧
      (n ≠ 0 → slotAwaited n s = false → (∀ e ∈ t.mm.l2, e.2.slot ≠ n) ∧
        (loadedKey w r T = none → ends 3 ∧ t.trust.keys = T.keys) ∧
        ∀ k, loadedKey w r T = some k → ends 0 ∧ t.trust.keys = tput T.keys n (k.setWidth 512))) ∧
    ∀ (v : Word), T.job = some (.keyclr v) →
      let n := bits v 0 10
      (n = 0 → ends 2 ∧ t.trust.keys = T.keys) ∧
      (n ≠ 0 → slotAwaited n s = true → t = s) ∧
      (n ≠ 0 → slotAwaited n s = false → ends 0 ∧ t.trust.keys = tdrop T.keys n ∧ ∀ e ∈ t.mm.l2, e.2.slot ≠ n)

/-- Host-assisted events (R421, R422): the oldest event of a kind that waits gets the next tag and joins the queue, with a
message to the host, while fewer than 64 are pending; EVENT returns the oldest, whose form is the model's choice
(DESIGN CHOICE, assumption 39); REPLY removes the event, but for one that orders a step of a
retirement before the last (DEDUCED, assumption 68), and does what the answer says, with code 4 for an unknown tag and code 2 for an
answer that the kind does not accept. -/
def Claims.HostEvents : Prop :=
  (∀ (s : State) (k : Nat) (e : HostEvent) (rest : List HostEvent), s.trust.hostq.length < 64 →
    takeEvent k s.trust.waiting = some (e, rest) →
    exec (.hostAssistEvent k) s = .next { s with trust := { s.trust with
      waiting := rest, hostq := s.trust.hostq ++ [{ e with tag := s.trust.nextTag }], nextTag := s.trust.nextTag + 1,
      msix := 0 :: s.trust.msix } }) ∧
  ∀ (s : State),
    (∀ e rest, s.trust.job = some .event → s.trust.hostq = e :: rest → mailboxTurn s = endCommand 0 { s with trust := { s.trust with
      data := Claims.dataAt e.bytes s.trust.data } }) ∧
    ∀ (n : Nat) (a : List Word), s.trust.job = some (.reply n a) →
      (s.trust.hostq.find? (fun e => e.tag.toNat == n) = none → mailboxTurn s = endCommand 4 s) ∧
      ∀ e, s.trust.hostq.find? (fun e => e.tag.toNat == n) = some e →
        (answerOk e.kind a = false → mailboxTurn s = endCommand 2 s) ∧
        (answerOk e.kind a = true → mailboxTurn s = endCommand 0 (answerEvent e a { s with
          trust := { s.trust with hostq := if staysPending e a then s.trust.hostq
            else s.trust.hostq.filter (fun f => f.tag != e.tag) } }))

/-- Bring-up, the mailbox and the host-assisted events (R414 to R426). -/
def Obligations.TrustComplete : Prop := Claims.BringUp ∧ Claims.Mailbox ∧ Claims.HostEvents

/-! ## The whole machine -/

/-- Every instruction and every event has a meaning: it answers a next state in every state, no step is refused, and with
nothing on the agenda a step of an agent of the device answers a next state. -/
def Obligations.EveryInstructionRuns : Prop :=
  (∀ (i : Instr) (s : State), Safe (exec i s)) ∧ (∀ (s : State) (r : Refusal), step s ≠ .refused r) ∧
  ∀ s : State, s.agenda = [] → s.agent.present = true → Safe (step s)

/-- A step runs the instruction that stands where its agent is (R42, R92, R103, R152, R262, R429): a hart with nothing
pending fetches the word at pc, a block instance the word at vpc, or goes on with the one that stands dispatched, the queue takes its
head entry, a near-bank thread the word of its code; what it decodes to is executed, and a word that decodes to nothing is
illegal: cause 0x01 with the word as tval, and on a near-bank thread the end of the job (R20, R42). Behind it a demonstrating
hart notes what it did, and a vector instruction that has come to further elements stands dispatched; then replays depart that a
walker or a fetch has conflicted with, cleared mirror entries are opened again, and what the harts have done is counted. The fetch of an
unconfirmed path may mark nothing, and make no replay depart (R107), and a machine check that is owed holds the vector stream and the
queue (R397, R398). An event on the agenda occurs in the step that reaches it. Before the ROM is done only a reset occurs (R414). The
agenda, whose turns are steps, is the model's (assumption 1, DESIGN CHOICE), and so is how what meets a bank of a channel in reset
waits: the step is taken back and its turn passes (assumption 21, DESIGN CHOICE). Said of agents that do not wait for the host
(R422). -/
def Obligations.StepRunsDecoded : Prop :=
  (∀ (s : State),
    let s0 := { s with steps := s.steps + 1, limit := none, blocked := false, wrote := [], walked := [], agenda := s.agenda.drop 1 }
    let ends (o : Out) : Prop := step s = afterStep s (waitBanks s o)
    let runs (a : Agent) (w : BitVec 32) (s1 : State) : Prop :=
      (∀ i, decode w = .ok i → ends (afterWord a w s1 (exec i s1))) ∧
      (∀ e, decode w = .error e → ends (.next (wrongClass w.toNat s1)))
    (s.agenda = [] → s.trust.bstSt ≠ 1 →
      (∀ h w s1, s.agent = .scalar h → h < 1024 → (s.hart h).status ≠ .idle → (s.hart h).status ≠ .retired →
        (s.hart h).pendingAsync = none → s.assistOf (streamAgent h 0) = none → (s.hart h).pc.toNat % 4 = 0 →
        fetchWord h (s.hart h).pc s0 = .ok w s1 →
        ((s.hart h).settled = true ∨ (s1.mm.cells = s.mm.cells ∧ s1.walkConflicts = false)) →
        ((s.hart h).loop.st ≠ 1 ∨ (s.hart h).checks = []) → runs (.scalar h) (BitVec.ofNat 32 w) s1) ∧
      (∀ h, s.agent = .vector h → h < 1024 → (s.hart h).vec.inst ≠ none → (s.hart h).mcheck = none →
        s.assistOf (streamAgent h 1) = none →
        (∀ w, (s.hart h).vec.begun = some w → runs (.vector h) w s0) ∧
        (∀ w s1, (s.hart h).vec.begun = none → (s.hart h).vec.vpc.toNat % 4 = 0 →
          fetchWord h (s.hart h).vec.vpc s0 = .ok w s1 → runs (.vector h) (BitVec.ofNat 32 w) s1)) ∧
      (∀ h e, s.agent = .queue h → h < 1024 → (s.hart h).headEntry = some e → (s.hart h).vec.inst = none →
        (s.hart h).mcheck = none → s.assistOf (streamAgent h 2) = none → isVblk e.word = false → runs (.queue h) e.word s0) ∧
      ∀ u x J w, s.agent = .nearBank u x → u < 512 → s.threadOf u x J → s.assistOf (nearAgent u) = none → J.code[(J.thread x).pc]? = some w →
        runs (.nearBank u x) w s0) ∧
    (∀ i rest, s.agenda = .event i :: rest → i.hasWord = false → i.wellFormed = true →
      (s.trust.bstSt ≠ 1 ∨ isReset i = true) → ends (exec i s0)) ∧
    (∀ h n rest, s.agenda = .perform h n :: rest → h < 1024 → ends (.next (performTurn h n s0))) ∧
    (∀ h n j rest, s.agenda = .element h n j :: rest → h < 1024 → ends (.next (elementTurn h n j s0))) ∧
    (∀ rest, s.agenda = .mailbox :: rest → ends (.next (mailboxTurn s0))) ∧
    (∀ t, waitBanks s (.next t) = .next (if t.blocked then { s0 with agent := t.agent, free := t.free } else t)) ∧
    ∀ t, afterStep s (.next t) = .next (countStep s (reopenMirrors (departWalked t)))) ∧
  (∀ (t : State) (h w : Nat), Claims.mayTrap (t.hart h) →
    (t.agent = .scalar h → Claims.Enters t h 0x01 (BitVec.ofNat 64 w) 0 (t.hart h).pc (.next (wrongClass w t))) ∧
    (t.agent = .vector h →
      Claims.Enters t h 0x01 (BitVec.ofNat 64 w) (BitVec.ofNat 64 (2 ^ 60)) (t.hart h).pc (.next (wrongClass w t))) ∧
    (t.agent = .queue h →
      Claims.Enters t h 0x01 (BitVec.ofNat 64 w) (BitVec.ofNat 64 (2 * 2 ^ 60)) (t.hart h).pc (.next (wrongClass w t)))) ∧
  (∀ (t : State) (u w : Nat) (J : NbJob), t.agent = .nearBank u false → (t.unit u).running = some J →
    wrongClass w t = t.putJob u { J with endCode := some 0x01 }) ∧
  ∀ (h : Nat) (w : BitVec 32) (s t : State), (t.hart h).vec.inst ≠ none → (t.hart h).vec.vpc = (s.hart h).vec.vpc →
    (t.hart h).vec.estart ≠ (s.hart h).vec.estart → ((noteBegun h w s t).hart h).vec.begun = some w

/-- The words that the spec writes out decode to the instructions it gives them (R10, R20, R42; the worked encodings of
"Working an encoding" and of the instructions' entries), and its illegal words decode to none. -/
def Obligations.SpecWordsDecode : Prop :=
  decode 0x004C5201 = .ok (.add 0 1 6 5 4) ∧ decode 0x01C00001 = .ok (.sub 1 1 0 0 0) ∧
  decode 0x00FE4188 = .ok (.srai 63 1 4 3) ∧ decode 0x048D1289 = .ok (.lui 0x48D1 5) ∧
  decode 0x02CA408B = .ok (.cmpLt 1 1 5 4 1) ∧ decode 0xFFFFD520 = .ok (.bNk 0xFFFFD 0 2) ∧
  decode 0x00010FA1 = .ok (.jal 16 31) ∧ decode 0x0086232E = .ok (.ldD 2 1 1 2 6) ∧
  decode 0x00100238 = .ok (.crd 4 4) ∧ decode 0x00C062BC = .ok (.setlen 1 1 0 6 5) ∧
  decode 0x0000F03E = .ok (.vblk 15) ∧ decode 0x06440441 = .ok (.vintGAdd 1 1 1 2 0 8) ∧
  decode 0x3E0C41C6 = .ok (.vcmpFlt 1 1 0 6 4 3) ∧ decode 0x16588443 = .ok (.vfpFmul 1 1 1 12 8 8) ∧
  decode 0x00406054 = .ok (.nqPush 1 6 0) ∧ decode 0x00CA41D8 = .ok (.go 1 1 5 4 3) ∧
  decode 0x0000000E = .error .unassignedOpcode ∧ decode 0x17000001 = .error .unassignedFunction ∧
  decode 0x3E0C4046 = .error .reservedCode ∧ decode 0x3E0C45C6 = .error .mustBeZero

/-- Decoding an encoded instruction gives it back: every well-formed instruction that has a word, with every operand at
every value that its fields admit (R10, R20). -/
def Obligations.EncodeRoundTrip : Prop :=
  ∀ i : Instr, i.wellFormed = true → i.hasWord = true → decode (encode i) = .ok i

/-- Every word that decodes has one meaning, and no bit of it is ignored: it is the encoding of the instruction it decodes
to, which is well-formed (R20, R42). -/
def Obligations.WordsHaveOneMeaning : Prop :=
  ∀ (w : BitVec 32) (i : Instr), decode w = .ok i → encode i = w ∧ i.wellFormed = true ∧ i.hasWord = true

/-- A word may run only where its class allows (R18, R42): a class V or N word on the scalar stream, and a class S, Q or N
word in a block instance, take cause 0x01 with the word as tval. -/
def Obligations.ClassesKeepApart : Prop :=
  (∀ (i : Instr) (s : State) (h : Nat), s.agent = .scalar h → s.limit = none → i.cls = .V ∨ i.cls = .N →
    exec i s = .next (scalarTrap h 0x01 (BitVec.ofNat 64 (encodeNat i)) false s) ∧
    (Claims.mayTrap (s.hart h) → Claims.Enters s h 0x01 (BitVec.ofNat 64 (encodeNat i)) 0 (s.hart h).pc (exec i s))) ∧
  ∀ (i : Instr) (s : State) (h : Nat), s.agent = .vector h → i.cls = .S ∨ i.cls = .Q ∨ i.cls = .N →
    exec i s = .next (vectorTrap h 0x01 (BitVec.ofNat 64 (encodeNat i)) s)

/-! ## The hard-wired registers and empty sources (R13 to R15, R102) -/

/-- A write to s0 or k0 is discarded: it changes nothing of the hart, no full/empty state among it, and s0 and k0 read as
zero and 1 and are always full. A vector compare or mask instruction whose destination field names m0 is illegal: its word
decodes to no instruction (R13, R14, R42). -/
def Obligations.HardwiredRegisters : Prop :=
  (∀ (H : Hart) (v : Word) (b : Bool), H.putS 0 v = H ∧ H.putK 0 b = H ∧ H.markS 0 = H ∧ H.markK 0 = H ∧
    H.regs.readS 0 = 0 ∧ H.regs.readK 0 = true ∧ H.regs.isEmptyS 0 = false ∧ H.regs.isEmptyK 0 = false) ∧
  (∀ (y x : BitVec 1) (m g : BitVec 3) (b a : BitVec 5), ∀ e ∈ Claims.vcmps,
    decode (encode (e.1 y x m b a 0)) = .error .reservedCode ∧
    decode (encode (e.2.1 y x m g a 0)) = .error .reservedCode) ∧
  ∀ (y x : BitVec 1) (b a : BitVec 3), ∀ e ∈ Claims.vmasks y x b a 0, decode (encode e.1) = .error .reservedCode

/-- A source that is empty is waited for under hold = 1 and takes cause 0x03 under hold = 0, with the register's number,
and bit 5 set for a condition bit, as tval; an instruction whose destination is empty waits (R15, R102). Said of the
two-source integer and condition-bit instructions. -/
def Obligations.EmptySources : Prop :=
  ∀ (s : State) (h : Nat), s.agent = .scalar h →
    let H := s.hart h
    let trapped (i : Instr) (n : Nat) : Prop :=
      Claims.mayTrap H → Claims.Enters s h 0x03 (BitVec.ofNat 64 n) 0 H.pc (exec i s)
    (∀ (y x : BitVec 1) (b a d : BitVec 5), ∀ e ∈ Claims.intPairs,
      (H.regs.isEmptyS a = true → (x = 1 → exec (e.1 y x b a d) s = .next s) ∧ (x = 0 → trapped (e.1 y x b a d) a.toNat)) ∧
      (H.regs.isEmptyS a = false → H.regs.isEmptyS b = true →
        (y = 1 → exec (e.1 y x b a d) s = .next s) ∧ (y = 0 → trapped (e.1 y x b a d) b.toNat)) ∧
      (H.full [a, b] [] → H.regs.isEmptyS d = true → exec (e.1 y x b a d) s = .next s)) ∧
    ∀ (y x : BitVec 1) (b a d : BitVec 3), ∀ e ∈ Claims.bitPairs,
      (H.regs.isEmptyK a = true →
        (x = 1 → exec (e.1 y x b a d) s = .next s) ∧ (x = 0 → trapped (e.1 y x b a d) (32 + a.toNat))) ∧
      (H.regs.isEmptyK a = false → H.regs.isEmptyK b = true →
        (y = 1 → exec (e.1 y x b a d) s = .next s) ∧ (y = 0 → trapped (e.1 y x b a d) (32 + b.toNat))) ∧
      (H.full [] [a, b] → H.regs.isEmptyK d = true → exec (e.1 y x b a d) s = .next s)

/-! ## Traps in a trap, and back (R127, R339, R340) -/

/-- The kernel instructions at user level take cause 0x13 with the word as tval (R7, R127, R128). -/
def Obligations.PrivilegeHolds : Prop :=
  ∀ (s : State) (h : Nat) (x : BitVec 1) (a : BitVec 5), s.agent = .scalar h → Claims.mayTrap (s.hart h) →
    (s.hart h).plev = 0 → ∀ e ∈ [(Instr.tret, tretWord), (.tlbinv x a, tlbinvWord x a), (.tlbsync, tlbsyncWord)],
    Claims.Enters s h 0x13 (BitVec.ofNat 64 e.2) 0 (s.hart h).pc (exec e.1 s)

/-- A trap while TS is 1 is a double trap (R340): whatever its cause, of the scalar or the vector stream, trap and brk among
them, the log of level 0 takes an entry of TYPE 5, with the launch's context and the core, the hart stops issuing, and its launch
is terminated. What the entry's address and syndrome hold is left open and free. A translation fault is such a trap when the host
does not serve it (R422). A tret in a trap whose tpc is off a word changes only the record and starts the handler again; so does one
that would resume a block instance at a tvpc off a word, which is the model's reading (assumption 15, DEDUCED). -/
def Obligations.DoubleTraps : Prop :=
  (∀ (s : State) (h : Nat), (s.hart h).trapWaits = false → (s.hart h).trap.ts = true →
    let doubled (o : Out) : Prop := ∃ (s1 : State) (e : LogEntry),
      o = .next (terminateLaunch (s.hart h).place.launch (stopHart h s1)) ∧ ((stopHart h s1).hart h).status = .retired ∧
      s1.harts = s.harts ∧ s1.mm = s.mm ∧ s1.logs[0].entries.getLast? = some e ∧ e.type = 5 ∧
      (s.logs[0].entries = [] → e.ctx = (s.hart h).place.lctx.toNat ∧ e.src = coreOf h)
    (∀ (cause : Nat) (tval : Word) (skip : Bool),
      ((s.hart h).settled = true → cause ≠ 0x06 ∨ (s.assistOf (streamAgent h 0) = none ∧ s.handsOver 0 = false) →
        doubled (.next (scalarTrap h cause tval skip s))) ∧
      (cause ≠ 0x06 ∨ (s.assistOf (streamAgent h 1) = none ∧ s.handsOver 0 = false) → doubled (.next (vectorTrap h cause tval s)))) ∧
    (s.agent = .scalar h → (s.hart h).settled = true → doubled (exec .brk s) ∧ ∀ c, doubled (exec (.trap c) s))) ∧
  ∀ (s : State) (h : Nat), s.agent = .scalar h → (s.hart h).settled = true → 1 ≤ (s.hart h).plev.toNat →
    (s.hart h).vectorIdle = true → (s.hart h).trap.ts = true →
    let H := s.hart h
    let again (a : Word) : Prop := exec .tret s = .next (s.setHart h { H with
      pc := H.trap.tvec
      trap := { H.trap with tcause := 0x04, tval := a, tinfo := 0 } })
    (H.trap.tpc.toNat % 4 ≠ 0 → again H.trap.tpc) ∧
    (H.trap.tpc.toNat % 4 = 0 → H.trap.vf = true → H.vec.frozen ≠ none → H.trap.tvpc.toNat % 4 ≠ 0 → again H.trap.tvpc)

/-- A breakpoint and the return from it put the hart back (R334 to R339): with no register empty, no frozen set before and
trace off, brk and then tret leave pc, the level, the registers and condition bits, the flags, the vector registers, the
queue and the running instance with its vpc, element and arguments as they were, and memory as entering leaves it, with the
vector accesses that have been dispatched performed. The return counts as an instruction that has completed (R406). -/
def Obligations.TrapsReturn : Prop :=
  ∀ (s : State) (h : Nat), s.agent = .scalar h → Claims.mayTrap (s.hart h) → (s.hart h).pc.toNat % 4 = 0 →
    (s.hart h).regs.empty = 0 → (s.hart h).trap.vf = false → (s.hart h).vec.hqueue = [] →
    (s.hart h).obs.trcfg.getLsbD 63 = false → (s.hart h).trap.loaded = false →
    ((s.hart h).vec.inst ≠ none → (s.hart h).vec.vpc.toNat % 4 = 0) →
    let H := s.hart h
    ∃ s1 s2, exec .brk s = .next s1 ∧ exec .tret s1 = .next s2 ∧ (s1.hart h).pc = H.trap.tvec ∧ (s1.hart h).plev = 1 ∧
      (s2.hart h).pc = H.pc ∧ (s2.hart h).plev = H.plev ∧ (s2.hart h).regs = { H.regs with ran := H.regs.ran + 1 } ∧
      (s2.hart h).frm = H.frm ∧
      (s2.hart h).vec.v = H.vec.v ∧ (s2.hart h).vec.m = H.vec.m ∧ (s2.hart h).vec.queue = H.vec.queue ∧
      (s2.hart h).vec.inst = H.vec.inst ∧ (s2.hart h).vec.len = H.vec.len ∧ (s2.hart h).vec.fmt = H.vec.fmt ∧
      (H.vec.inst ≠ none → (s2.hart h).vec.vpc = H.vec.vpc ∧ (s2.hart h).vec.estart = H.vec.estart ∧
        (s2.hart h).vec.g = H.vec.g) ∧
      s2.mm = (leaveWait h s).mm

/-! ## Memory (R3, R121) -/

/-- A pending store to plain memory that is not at a peer, sealed or migrating writes exactly its bytes when a turn performs
it: they read back as the low bytes of its data, every other byte of memory reads as before, and no register of any hart
changes (R3, R121). -/
def Obligations.StoredBytes : Prop :=
  ∀ (s : State) (h n : Nat) (p : PendingLoad), (s.hart h).loads[n]? = some p → p.kind = .store → p.due = true →
    (∀ (m : Nat) (q : PendingLoad), (s.hart h).loads[m]? = some q → p.upTo q = true → m ≠ n →
      q.due = false ∧ q.remote = false) →
    s.undisturbed (some h) → p.loc.kopt = none → p.loc.size = p.size → p.loc.n1 = p.size → s.mm.seals = [] →
    s.mm.mig.busy = false → s.mm.mig.done = false →
    let t := performTurn h n s
    readLoc p.loc t = p.data.toNat % 256 ^ p.size ∧ (t.hart h).loads = (s.hart h).loads.eraseIdx n ∧
      (∀ k, k < p.loc.key ∨ p.loc.key + p.size ≤ k → byteAt t.mm.cells k = byteAt s.mm.cells k) ∧
      ∀ g, (t.hart g).regs = (s.hart g).regs ∧ (t.hart g).trap = (s.hart g).trap ∧ (t.hart g).vec = (s.hart g).vec

/-- Memory keeps its canonical form: the keys strictly rising and no byte listed that an unlisted key reads as. Every step
keeps it, whatever the agent and the instruction. -/
def Obligations.MemoryStaysCanonical : Prop :=
  ∀ s t : State, Memory.wf s.mm.cells = true → step s = .next t → Memory.wf t.mm.cells = true

/-- The machine right after reset has memory in canonical form, with nothing listed: that memory is zero before anything
writes it is the model's (assumption 2, DESIGN CHOICE). -/
def Obligations.ResetMemoryCanonical : Prop := Memory.wf State.reset.mm.cells = true ∧ State.reset.mm.cells = []

/-- What reset leaves, as the spec states it: no hart placed, the weights of hshare 8, tkage 16, lklive 64, rtthr 16, the
scrub intervals 64, the queues disabled, the ports down, the journals disabled, the bring-up state 1 (R96, R314, R391,
R413, R424); the registers for which it states no value are zero, which is the model's choice (DESIGN CHOICE). -/
def Obligations.ResetValues : Prop :=
  (∀ h, (State.reset.hart h).status = .idle) ∧ (∀ c, (State.reset.core c).hshare = 0x8888 ∧ (State.reset.core c).retired = false) ∧
  (∀ q, (State.reset.scheduler q).tkage = 16 ∧ (State.reset.scheduler q).tasks = []) ∧ State.reset.links.lklive = 64 ∧
  State.reset.retire.rtthr = 16 ∧ (∀ i : Fin 6, State.reset.retire.scrub[i] = 64) ∧
  (∀ n, (State.reset.queueAt n).en = false ∧ (State.reset.queueAt n).entries = []) ∧
  (∀ p, (State.reset.port p).up = false) ∧ (∀ j, (State.reset.journalAt j).enabled = false) ∧ State.reset.trust.bstSt = 1 ∧
  State.reset.trust.pwlim = 2600 ∧ ∀ h r, (State.reset.hart h).regs.readS r = 0 ∧ (State.reset.hart h).regs.isEmptyS r = false
end

