-- ==== Sys2Proof/Laws/State.lean ====
section
/-!
SUPPORT. What each update of the state leaves alone: one lemma for each field of State and each update.
-/
namespace Sys2Proof.Machine

/-! ## State.setHart -/

@[simp] theorem State.setHart_agent (s : State) (h : Nat) (H : Hart) : (s.setHart h H).agent = s.agent := rfl
@[simp] theorem State.setHart_agenda (s : State) (h : Nat) (H : Hart) : (s.setHart h H).agenda = s.agenda := rfl
@[simp] theorem State.setHart_limit (s : State) (h : Nat) (H : Hart) : (s.setHart h H).limit = s.limit := rfl
@[simp] theorem State.setHart_blocked (s : State) (h : Nat) (H : Hart) : (s.setHart h H).blocked = s.blocked := rfl
@[simp] theorem State.setHart_wrote (s : State) (h : Nat) (H : Hart) : (s.setHart h H).wrote = s.wrote := rfl
@[simp] theorem State.setHart_walked (s : State) (h : Nat) (H : Hart) : (s.setHart h H).walked = s.walked := rfl
@[simp] theorem State.setHart_steps (s : State) (h : Nat) (H : Hart) : (s.setHart h H).steps = s.steps := rfl
@[simp] theorem State.setHart_free (s : State) (h : Nat) (H : Hart) : (s.setHart h H).free = s.free := rfl
@[simp] theorem State.setHart_mm (s : State) (h : Nat) (H : Hart) : (s.setHart h H).mm = s.mm := rfl
@[simp] theorem State.setHart_cores (s : State) (h : Nat) (H : Hart) : (s.setHart h H).cores = s.cores := rfl
@[simp] theorem State.setHart_launch (s : State) (h : Nat) (H : Hart) : (s.setHart h H).launch = s.launch := rfl
@[simp] theorem State.setHart_near (s : State) (h : Nat) (H : Hart) : (s.setHart h H).near = s.near := rfl
@[simp] theorem State.setHart_sched (s : State) (h : Nat) (H : Hart) : (s.setHart h H).sched = s.sched := rfl
@[simp] theorem State.setHart_evsel (s : State) (h : Nat) (H : Hart) : (s.setHart h H).evsel = s.evsel := rfl
@[simp] theorem State.setHart_evbase (s : State) (h : Nat) (H : Hart) : (s.setHart h H).evbase = s.evbase := rfl
@[simp] theorem State.setHart_ports (s : State) (h : Nat) (H : Hart) : (s.setHart h H).ports = s.ports := rfl
@[simp] theorem State.setHart_logs (s : State) (h : Nat) (H : Hart) : (s.setHart h H).logs = s.logs := rfl
@[simp] theorem State.setHart_elsel (s : State) (h : Nat) (H : Hart) : (s.setHart h H).elsel = s.elsel := rfl
@[simp] theorem State.setHart_links (s : State) (h : Nat) (H : Hart) : (s.setHart h H).links = s.links := rfl
@[simp] theorem State.setHart_journal (s : State) (h : Nat) (H : Hart) : (s.setHart h H).journal = s.journal := rfl
@[simp] theorem State.setHart_pipes (s : State) (h : Nat) (H : Hart) : (s.setHart h H).pipes = s.pipes := rfl
@[simp] theorem State.setHart_retire (s : State) (h : Nat) (H : Hart) : (s.setHart h H).retire = s.retire := rfl
@[simp] theorem State.setHart_energy (s : State) (h : Nat) (H : Hart) : (s.setHart h H).energy = s.energy := rfl
@[simp] theorem State.setHart_trust (s : State) (h : Nat) (H : Hart) : (s.setHart h H).trust = s.trust := rfl

/-! ## State.setMem -/

@[simp] theorem State.setMem_agent (s : State) (m : MemSys) : (s.setMem m).agent = s.agent := rfl
@[simp] theorem State.setMem_agenda (s : State) (m : MemSys) : (s.setMem m).agenda = s.agenda := rfl
@[simp] theorem State.setMem_limit (s : State) (m : MemSys) : (s.setMem m).limit = s.limit := rfl
@[simp] theorem State.setMem_blocked (s : State) (m : MemSys) : (s.setMem m).blocked = s.blocked := rfl
@[simp] theorem State.setMem_wrote (s : State) (m : MemSys) : (s.setMem m).wrote = s.wrote := rfl
@[simp] theorem State.setMem_walked (s : State) (m : MemSys) : (s.setMem m).walked = s.walked := rfl
@[simp] theorem State.setMem_steps (s : State) (m : MemSys) : (s.setMem m).steps = s.steps := rfl
@[simp] theorem State.setMem_free (s : State) (m : MemSys) : (s.setMem m).free = s.free := rfl
@[simp] theorem State.setMem_harts (s : State) (m : MemSys) : (s.setMem m).harts = s.harts := rfl
@[simp] theorem State.setMem_cores (s : State) (m : MemSys) : (s.setMem m).cores = s.cores := rfl
@[simp] theorem State.setMem_launch (s : State) (m : MemSys) : (s.setMem m).launch = s.launch := rfl
@[simp] theorem State.setMem_near (s : State) (m : MemSys) : (s.setMem m).near = s.near := rfl
@[simp] theorem State.setMem_sched (s : State) (m : MemSys) : (s.setMem m).sched = s.sched := rfl
@[simp] theorem State.setMem_evsel (s : State) (m : MemSys) : (s.setMem m).evsel = s.evsel := rfl
@[simp] theorem State.setMem_evbase (s : State) (m : MemSys) : (s.setMem m).evbase = s.evbase := rfl
@[simp] theorem State.setMem_ports (s : State) (m : MemSys) : (s.setMem m).ports = s.ports := rfl
@[simp] theorem State.setMem_logs (s : State) (m : MemSys) : (s.setMem m).logs = s.logs := rfl
@[simp] theorem State.setMem_elsel (s : State) (m : MemSys) : (s.setMem m).elsel = s.elsel := rfl
@[simp] theorem State.setMem_links (s : State) (m : MemSys) : (s.setMem m).links = s.links := rfl
@[simp] theorem State.setMem_journal (s : State) (m : MemSys) : (s.setMem m).journal = s.journal := rfl
@[simp] theorem State.setMem_pipes (s : State) (m : MemSys) : (s.setMem m).pipes = s.pipes := rfl
@[simp] theorem State.setMem_retire (s : State) (m : MemSys) : (s.setMem m).retire = s.retire := rfl
@[simp] theorem State.setMem_energy (s : State) (m : MemSys) : (s.setMem m).energy = s.energy := rfl
@[simp] theorem State.setMem_trust (s : State) (m : MemSys) : (s.setMem m).trust = s.trust := rfl

/-! ## State.setCore -/

@[simp] theorem State.setCore_agent (s : State) (c : Nat) (C : CoreState) : (s.setCore c C).agent = s.agent := rfl
@[simp] theorem State.setCore_agenda (s : State) (c : Nat) (C : CoreState) : (s.setCore c C).agenda = s.agenda := rfl
@[simp] theorem State.setCore_limit (s : State) (c : Nat) (C : CoreState) : (s.setCore c C).limit = s.limit := rfl
@[simp] theorem State.setCore_blocked (s : State) (c : Nat) (C : CoreState) : (s.setCore c C).blocked = s.blocked := rfl
@[simp] theorem State.setCore_wrote (s : State) (c : Nat) (C : CoreState) : (s.setCore c C).wrote = s.wrote := rfl
@[simp] theorem State.setCore_walked (s : State) (c : Nat) (C : CoreState) : (s.setCore c C).walked = s.walked := rfl
@[simp] theorem State.setCore_steps (s : State) (c : Nat) (C : CoreState) : (s.setCore c C).steps = s.steps := rfl
@[simp] theorem State.setCore_free (s : State) (c : Nat) (C : CoreState) : (s.setCore c C).free = s.free := rfl
@[simp] theorem State.setCore_mm (s : State) (c : Nat) (C : CoreState) : (s.setCore c C).mm = s.mm := rfl
@[simp] theorem State.setCore_harts (s : State) (c : Nat) (C : CoreState) : (s.setCore c C).harts = s.harts := rfl
@[simp] theorem State.setCore_launch (s : State) (c : Nat) (C : CoreState) : (s.setCore c C).launch = s.launch := rfl
@[simp] theorem State.setCore_near (s : State) (c : Nat) (C : CoreState) : (s.setCore c C).near = s.near := rfl
@[simp] theorem State.setCore_sched (s : State) (c : Nat) (C : CoreState) : (s.setCore c C).sched = s.sched := rfl
@[simp] theorem State.setCore_evsel (s : State) (c : Nat) (C : CoreState) : (s.setCore c C).evsel = s.evsel := rfl
@[simp] theorem State.setCore_evbase (s : State) (c : Nat) (C : CoreState) : (s.setCore c C).evbase = s.evbase := rfl
@[simp] theorem State.setCore_ports (s : State) (c : Nat) (C : CoreState) : (s.setCore c C).ports = s.ports := rfl
@[simp] theorem State.setCore_logs (s : State) (c : Nat) (C : CoreState) : (s.setCore c C).logs = s.logs := rfl
@[simp] theorem State.setCore_elsel (s : State) (c : Nat) (C : CoreState) : (s.setCore c C).elsel = s.elsel := rfl
@[simp] theorem State.setCore_links (s : State) (c : Nat) (C : CoreState) : (s.setCore c C).links = s.links := rfl
@[simp] theorem State.setCore_journal (s : State) (c : Nat) (C : CoreState) : (s.setCore c C).journal = s.journal := rfl
@[simp] theorem State.setCore_pipes (s : State) (c : Nat) (C : CoreState) : (s.setCore c C).pipes = s.pipes := rfl
@[simp] theorem State.setCore_retire (s : State) (c : Nat) (C : CoreState) : (s.setCore c C).retire = s.retire := rfl
@[simp] theorem State.setCore_energy (s : State) (c : Nat) (C : CoreState) : (s.setCore c C).energy = s.energy := rfl
@[simp] theorem State.setCore_trust (s : State) (c : Nat) (C : CoreState) : (s.setCore c C).trust = s.trust := rfl

/-! ## State.setUnit -/

@[simp] theorem State.setUnit_agent (s : State) (u : Nat) (U : NbUnit) : (s.setUnit u U).agent = s.agent := rfl
@[simp] theorem State.setUnit_agenda (s : State) (u : Nat) (U : NbUnit) : (s.setUnit u U).agenda = s.agenda := rfl
@[simp] theorem State.setUnit_limit (s : State) (u : Nat) (U : NbUnit) : (s.setUnit u U).limit = s.limit := rfl
@[simp] theorem State.setUnit_blocked (s : State) (u : Nat) (U : NbUnit) : (s.setUnit u U).blocked = s.blocked := rfl
@[simp] theorem State.setUnit_wrote (s : State) (u : Nat) (U : NbUnit) : (s.setUnit u U).wrote = s.wrote := rfl
@[simp] theorem State.setUnit_walked (s : State) (u : Nat) (U : NbUnit) : (s.setUnit u U).walked = s.walked := rfl
@[simp] theorem State.setUnit_steps (s : State) (u : Nat) (U : NbUnit) : (s.setUnit u U).steps = s.steps := rfl
@[simp] theorem State.setUnit_free (s : State) (u : Nat) (U : NbUnit) : (s.setUnit u U).free = s.free := rfl
@[simp] theorem State.setUnit_mm (s : State) (u : Nat) (U : NbUnit) : (s.setUnit u U).mm = s.mm := rfl
@[simp] theorem State.setUnit_harts (s : State) (u : Nat) (U : NbUnit) : (s.setUnit u U).harts = s.harts := rfl
@[simp] theorem State.setUnit_cores (s : State) (u : Nat) (U : NbUnit) : (s.setUnit u U).cores = s.cores := rfl
@[simp] theorem State.setUnit_launch (s : State) (u : Nat) (U : NbUnit) : (s.setUnit u U).launch = s.launch := rfl
@[simp] theorem State.setUnit_sched (s : State) (u : Nat) (U : NbUnit) : (s.setUnit u U).sched = s.sched := rfl
@[simp] theorem State.setUnit_evsel (s : State) (u : Nat) (U : NbUnit) : (s.setUnit u U).evsel = s.evsel := rfl
@[simp] theorem State.setUnit_evbase (s : State) (u : Nat) (U : NbUnit) : (s.setUnit u U).evbase = s.evbase := rfl
@[simp] theorem State.setUnit_ports (s : State) (u : Nat) (U : NbUnit) : (s.setUnit u U).ports = s.ports := rfl
@[simp] theorem State.setUnit_logs (s : State) (u : Nat) (U : NbUnit) : (s.setUnit u U).logs = s.logs := rfl
@[simp] theorem State.setUnit_elsel (s : State) (u : Nat) (U : NbUnit) : (s.setUnit u U).elsel = s.elsel := rfl
@[simp] theorem State.setUnit_links (s : State) (u : Nat) (U : NbUnit) : (s.setUnit u U).links = s.links := rfl
@[simp] theorem State.setUnit_journal (s : State) (u : Nat) (U : NbUnit) : (s.setUnit u U).journal = s.journal := rfl
@[simp] theorem State.setUnit_pipes (s : State) (u : Nat) (U : NbUnit) : (s.setUnit u U).pipes = s.pipes := rfl
@[simp] theorem State.setUnit_retire (s : State) (u : Nat) (U : NbUnit) : (s.setUnit u U).retire = s.retire := rfl
@[simp] theorem State.setUnit_energy (s : State) (u : Nat) (U : NbUnit) : (s.setUnit u U).energy = s.energy := rfl
@[simp] theorem State.setUnit_trust (s : State) (u : Nat) (U : NbUnit) : (s.setUnit u U).trust = s.trust := rfl

/-! ## State.setLaunch -/

@[simp] theorem State.setLaunch_agent (s : State) (n : Nat) (L : Launch) : (s.setLaunch n L).agent = s.agent := rfl
@[simp] theorem State.setLaunch_agenda (s : State) (n : Nat) (L : Launch) : (s.setLaunch n L).agenda = s.agenda := rfl
@[simp] theorem State.setLaunch_limit (s : State) (n : Nat) (L : Launch) : (s.setLaunch n L).limit = s.limit := rfl
@[simp] theorem State.setLaunch_blocked (s : State) (n : Nat) (L : Launch) : (s.setLaunch n L).blocked = s.blocked := rfl
@[simp] theorem State.setLaunch_wrote (s : State) (n : Nat) (L : Launch) : (s.setLaunch n L).wrote = s.wrote := rfl
@[simp] theorem State.setLaunch_walked (s : State) (n : Nat) (L : Launch) : (s.setLaunch n L).walked = s.walked := rfl
@[simp] theorem State.setLaunch_steps (s : State) (n : Nat) (L : Launch) : (s.setLaunch n L).steps = s.steps := rfl
@[simp] theorem State.setLaunch_free (s : State) (n : Nat) (L : Launch) : (s.setLaunch n L).free = s.free := rfl
@[simp] theorem State.setLaunch_mm (s : State) (n : Nat) (L : Launch) : (s.setLaunch n L).mm = s.mm := rfl
@[simp] theorem State.setLaunch_harts (s : State) (n : Nat) (L : Launch) : (s.setLaunch n L).harts = s.harts := rfl
@[simp] theorem State.setLaunch_cores (s : State) (n : Nat) (L : Launch) : (s.setLaunch n L).cores = s.cores := rfl
@[simp] theorem State.setLaunch_near (s : State) (n : Nat) (L : Launch) : (s.setLaunch n L).near = s.near := rfl
@[simp] theorem State.setLaunch_sched (s : State) (n : Nat) (L : Launch) : (s.setLaunch n L).sched = s.sched := rfl
@[simp] theorem State.setLaunch_evsel (s : State) (n : Nat) (L : Launch) : (s.setLaunch n L).evsel = s.evsel := rfl
@[simp] theorem State.setLaunch_evbase (s : State) (n : Nat) (L : Launch) : (s.setLaunch n L).evbase = s.evbase := rfl
@[simp] theorem State.setLaunch_ports (s : State) (n : Nat) (L : Launch) : (s.setLaunch n L).ports = s.ports := rfl
@[simp] theorem State.setLaunch_logs (s : State) (n : Nat) (L : Launch) : (s.setLaunch n L).logs = s.logs := rfl
@[simp] theorem State.setLaunch_elsel (s : State) (n : Nat) (L : Launch) : (s.setLaunch n L).elsel = s.elsel := rfl
@[simp] theorem State.setLaunch_links (s : State) (n : Nat) (L : Launch) : (s.setLaunch n L).links = s.links := rfl
@[simp] theorem State.setLaunch_journal (s : State) (n : Nat) (L : Launch) : (s.setLaunch n L).journal = s.journal := rfl
@[simp] theorem State.setLaunch_pipes (s : State) (n : Nat) (L : Launch) : (s.setLaunch n L).pipes = s.pipes := rfl
@[simp] theorem State.setLaunch_retire (s : State) (n : Nat) (L : Launch) : (s.setLaunch n L).retire = s.retire := rfl
@[simp] theorem State.setLaunch_energy (s : State) (n : Nat) (L : Launch) : (s.setLaunch n L).energy = s.energy := rfl
@[simp] theorem State.setLaunch_trust (s : State) (n : Nat) (L : Launch) : (s.setLaunch n L).trust = s.trust := rfl

/-! ## State.setScheduler -/

@[simp] theorem State.setScheduler_agent (s : State) (q : Nat) (Q : Scheduler) : (s.setScheduler q Q).agent = s.agent := by
  unfold State.setScheduler; split <;> rfl
@[simp] theorem State.setScheduler_agenda (s : State) (q : Nat) (Q : Scheduler) : (s.setScheduler q Q).agenda = s.agenda := by
  unfold State.setScheduler; split <;> rfl
@[simp] theorem State.setScheduler_limit (s : State) (q : Nat) (Q : Scheduler) : (s.setScheduler q Q).limit = s.limit := by
  unfold State.setScheduler; split <;> rfl
@[simp] theorem State.setScheduler_blocked (s : State) (q : Nat) (Q : Scheduler) : (s.setScheduler q Q).blocked = s.blocked := by
  unfold State.setScheduler; split <;> rfl
@[simp] theorem State.setScheduler_wrote (s : State) (q : Nat) (Q : Scheduler) : (s.setScheduler q Q).wrote = s.wrote := by
  unfold State.setScheduler; split <;> rfl
@[simp] theorem State.setScheduler_walked (s : State) (q : Nat) (Q : Scheduler) : (s.setScheduler q Q).walked = s.walked := by
  unfold State.setScheduler; split <;> rfl
@[simp] theorem State.setScheduler_steps (s : State) (q : Nat) (Q : Scheduler) : (s.setScheduler q Q).steps = s.steps := by
  unfold State.setScheduler; split <;> rfl
@[simp] theorem State.setScheduler_free (s : State) (q : Nat) (Q : Scheduler) : (s.setScheduler q Q).free = s.free := by
  unfold State.setScheduler; split <;> rfl
@[simp] theorem State.setScheduler_mm (s : State) (q : Nat) (Q : Scheduler) : (s.setScheduler q Q).mm = s.mm := by
  unfold State.setScheduler; split <;> rfl
@[simp] theorem State.setScheduler_harts (s : State) (q : Nat) (Q : Scheduler) : (s.setScheduler q Q).harts = s.harts := by
  unfold State.setScheduler; split <;> rfl
@[simp] theorem State.setScheduler_cores (s : State) (q : Nat) (Q : Scheduler) : (s.setScheduler q Q).cores = s.cores := by
  unfold State.setScheduler; split <;> rfl
@[simp] theorem State.setScheduler_launch (s : State) (q : Nat) (Q : Scheduler) : (s.setScheduler q Q).launch = s.launch := by
  unfold State.setScheduler; split <;> rfl
@[simp] theorem State.setScheduler_near (s : State) (q : Nat) (Q : Scheduler) : (s.setScheduler q Q).near = s.near := by
  unfold State.setScheduler; split <;> rfl
@[simp] theorem State.setScheduler_evsel (s : State) (q : Nat) (Q : Scheduler) : (s.setScheduler q Q).evsel = s.evsel := by
  unfold State.setScheduler; split <;> rfl
@[simp] theorem State.setScheduler_evbase (s : State) (q : Nat) (Q : Scheduler) : (s.setScheduler q Q).evbase = s.evbase := by
  unfold State.setScheduler; split <;> rfl
@[simp] theorem State.setScheduler_ports (s : State) (q : Nat) (Q : Scheduler) : (s.setScheduler q Q).ports = s.ports := by
  unfold State.setScheduler; split <;> rfl
@[simp] theorem State.setScheduler_logs (s : State) (q : Nat) (Q : Scheduler) : (s.setScheduler q Q).logs = s.logs := by
  unfold State.setScheduler; split <;> rfl
@[simp] theorem State.setScheduler_elsel (s : State) (q : Nat) (Q : Scheduler) : (s.setScheduler q Q).elsel = s.elsel := by
  unfold State.setScheduler; split <;> rfl
@[simp] theorem State.setScheduler_links (s : State) (q : Nat) (Q : Scheduler) : (s.setScheduler q Q).links = s.links := by
  unfold State.setScheduler; split <;> rfl
@[simp] theorem State.setScheduler_journal (s : State) (q : Nat) (Q : Scheduler) : (s.setScheduler q Q).journal = s.journal := by
  unfold State.setScheduler; split <;> rfl
@[simp] theorem State.setScheduler_pipes (s : State) (q : Nat) (Q : Scheduler) : (s.setScheduler q Q).pipes = s.pipes := by
  unfold State.setScheduler; split <;> rfl
@[simp] theorem State.setScheduler_retire (s : State) (q : Nat) (Q : Scheduler) : (s.setScheduler q Q).retire = s.retire := by
  unfold State.setScheduler; split <;> rfl
@[simp] theorem State.setScheduler_energy (s : State) (q : Nat) (Q : Scheduler) : (s.setScheduler q Q).energy = s.energy := by
  unfold State.setScheduler; split <;> rfl
@[simp] theorem State.setScheduler_trust (s : State) (q : Nat) (Q : Scheduler) : (s.setScheduler q Q).trust = s.trust := by
  unfold State.setScheduler; split <;> rfl

/-! ## State.setJournal -/

@[simp] theorem State.setJournal_agent (s : State) (j : Nat) (J : Journal) : (s.setJournal j J).agent = s.agent := by
  unfold State.setJournal; split <;> rfl
@[simp] theorem State.setJournal_agenda (s : State) (j : Nat) (J : Journal) : (s.setJournal j J).agenda = s.agenda := by
  unfold State.setJournal; split <;> rfl
@[simp] theorem State.setJournal_limit (s : State) (j : Nat) (J : Journal) : (s.setJournal j J).limit = s.limit := by
  unfold State.setJournal; split <;> rfl
@[simp] theorem State.setJournal_blocked (s : State) (j : Nat) (J : Journal) : (s.setJournal j J).blocked = s.blocked := by
  unfold State.setJournal; split <;> rfl
@[simp] theorem State.setJournal_wrote (s : State) (j : Nat) (J : Journal) : (s.setJournal j J).wrote = s.wrote := by
  unfold State.setJournal; split <;> rfl
@[simp] theorem State.setJournal_walked (s : State) (j : Nat) (J : Journal) : (s.setJournal j J).walked = s.walked := by
  unfold State.setJournal; split <;> rfl
@[simp] theorem State.setJournal_steps (s : State) (j : Nat) (J : Journal) : (s.setJournal j J).steps = s.steps := by
  unfold State.setJournal; split <;> rfl
@[simp] theorem State.setJournal_free (s : State) (j : Nat) (J : Journal) : (s.setJournal j J).free = s.free := by
  unfold State.setJournal; split <;> rfl
@[simp] theorem State.setJournal_mm (s : State) (j : Nat) (J : Journal) : (s.setJournal j J).mm = s.mm := by
  unfold State.setJournal; split <;> rfl
@[simp] theorem State.setJournal_harts (s : State) (j : Nat) (J : Journal) : (s.setJournal j J).harts = s.harts := by
  unfold State.setJournal; split <;> rfl
@[simp] theorem State.setJournal_cores (s : State) (j : Nat) (J : Journal) : (s.setJournal j J).cores = s.cores := by
  unfold State.setJournal; split <;> rfl
@[simp] theorem State.setJournal_launch (s : State) (j : Nat) (J : Journal) : (s.setJournal j J).launch = s.launch := by
  unfold State.setJournal; split <;> rfl
@[simp] theorem State.setJournal_near (s : State) (j : Nat) (J : Journal) : (s.setJournal j J).near = s.near := by
  unfold State.setJournal; split <;> rfl
@[simp] theorem State.setJournal_sched (s : State) (j : Nat) (J : Journal) : (s.setJournal j J).sched = s.sched := by
  unfold State.setJournal; split <;> rfl
@[simp] theorem State.setJournal_evsel (s : State) (j : Nat) (J : Journal) : (s.setJournal j J).evsel = s.evsel := by
  unfold State.setJournal; split <;> rfl
@[simp] theorem State.setJournal_evbase (s : State) (j : Nat) (J : Journal) : (s.setJournal j J).evbase = s.evbase := by
  unfold State.setJournal; split <;> rfl
@[simp] theorem State.setJournal_ports (s : State) (j : Nat) (J : Journal) : (s.setJournal j J).ports = s.ports := by
  unfold State.setJournal; split <;> rfl
@[simp] theorem State.setJournal_logs (s : State) (j : Nat) (J : Journal) : (s.setJournal j J).logs = s.logs := by
  unfold State.setJournal; split <;> rfl
@[simp] theorem State.setJournal_elsel (s : State) (j : Nat) (J : Journal) : (s.setJournal j J).elsel = s.elsel := by
  unfold State.setJournal; split <;> rfl
@[simp] theorem State.setJournal_links (s : State) (j : Nat) (J : Journal) : (s.setJournal j J).links = s.links := by
  unfold State.setJournal; split <;> rfl
@[simp] theorem State.setJournal_pipes (s : State) (j : Nat) (J : Journal) : (s.setJournal j J).pipes = s.pipes := by
  unfold State.setJournal; split <;> rfl
@[simp] theorem State.setJournal_retire (s : State) (j : Nat) (J : Journal) : (s.setJournal j J).retire = s.retire := by
  unfold State.setJournal; split <;> rfl
@[simp] theorem State.setJournal_energy (s : State) (j : Nat) (J : Journal) : (s.setJournal j J).energy = s.energy := by
  unfold State.setJournal; split <;> rfl
@[simp] theorem State.setJournal_trust (s : State) (j : Nat) (J : Journal) : (s.setJournal j J).trust = s.trust := by
  unfold State.setJournal; split <;> rfl

/-! ## State.setQueue -/

@[simp] theorem State.setQueue_agent (s : State) (n : Nat) (Q : LaunchQueue) : (s.setQueue n Q).agent = s.agent := by
  unfold State.setQueue; split <;> rfl
@[simp] theorem State.setQueue_agenda (s : State) (n : Nat) (Q : LaunchQueue) : (s.setQueue n Q).agenda = s.agenda := by
  unfold State.setQueue; split <;> rfl
@[simp] theorem State.setQueue_limit (s : State) (n : Nat) (Q : LaunchQueue) : (s.setQueue n Q).limit = s.limit := by
  unfold State.setQueue; split <;> rfl
@[simp] theorem State.setQueue_blocked (s : State) (n : Nat) (Q : LaunchQueue) : (s.setQueue n Q).blocked = s.blocked := by
  unfold State.setQueue; split <;> rfl
@[simp] theorem State.setQueue_wrote (s : State) (n : Nat) (Q : LaunchQueue) : (s.setQueue n Q).wrote = s.wrote := by
  unfold State.setQueue; split <;> rfl
@[simp] theorem State.setQueue_walked (s : State) (n : Nat) (Q : LaunchQueue) : (s.setQueue n Q).walked = s.walked := by
  unfold State.setQueue; split <;> rfl
@[simp] theorem State.setQueue_steps (s : State) (n : Nat) (Q : LaunchQueue) : (s.setQueue n Q).steps = s.steps := by
  unfold State.setQueue; split <;> rfl
@[simp] theorem State.setQueue_free (s : State) (n : Nat) (Q : LaunchQueue) : (s.setQueue n Q).free = s.free := by
  unfold State.setQueue; split <;> rfl
@[simp] theorem State.setQueue_mm (s : State) (n : Nat) (Q : LaunchQueue) : (s.setQueue n Q).mm = s.mm := by
  unfold State.setQueue; split <;> rfl
@[simp] theorem State.setQueue_harts (s : State) (n : Nat) (Q : LaunchQueue) : (s.setQueue n Q).harts = s.harts := by
  unfold State.setQueue; split <;> rfl
@[simp] theorem State.setQueue_cores (s : State) (n : Nat) (Q : LaunchQueue) : (s.setQueue n Q).cores = s.cores := by
  unfold State.setQueue; split <;> rfl
@[simp] theorem State.setQueue_near (s : State) (n : Nat) (Q : LaunchQueue) : (s.setQueue n Q).near = s.near := by
  unfold State.setQueue; split <;> rfl
@[simp] theorem State.setQueue_sched (s : State) (n : Nat) (Q : LaunchQueue) : (s.setQueue n Q).sched = s.sched := by
  unfold State.setQueue; split <;> rfl
@[simp] theorem State.setQueue_evsel (s : State) (n : Nat) (Q : LaunchQueue) : (s.setQueue n Q).evsel = s.evsel := by
  unfold State.setQueue; split <;> rfl
@[simp] theorem State.setQueue_evbase (s : State) (n : Nat) (Q : LaunchQueue) : (s.setQueue n Q).evbase = s.evbase := by
  unfold State.setQueue; split <;> rfl
@[simp] theorem State.setQueue_ports (s : State) (n : Nat) (Q : LaunchQueue) : (s.setQueue n Q).ports = s.ports := by
  unfold State.setQueue; split <;> rfl
@[simp] theorem State.setQueue_logs (s : State) (n : Nat) (Q : LaunchQueue) : (s.setQueue n Q).logs = s.logs := by
  unfold State.setQueue; split <;> rfl
@[simp] theorem State.setQueue_elsel (s : State) (n : Nat) (Q : LaunchQueue) : (s.setQueue n Q).elsel = s.elsel := by
  unfold State.setQueue; split <;> rfl
@[simp] theorem State.setQueue_links (s : State) (n : Nat) (Q : LaunchQueue) : (s.setQueue n Q).links = s.links := by
  unfold State.setQueue; split <;> rfl
@[simp] theorem State.setQueue_journal (s : State) (n : Nat) (Q : LaunchQueue) : (s.setQueue n Q).journal = s.journal := by
  unfold State.setQueue; split <;> rfl
@[simp] theorem State.setQueue_pipes (s : State) (n : Nat) (Q : LaunchQueue) : (s.setQueue n Q).pipes = s.pipes := by
  unfold State.setQueue; split <;> rfl
@[simp] theorem State.setQueue_retire (s : State) (n : Nat) (Q : LaunchQueue) : (s.setQueue n Q).retire = s.retire := by
  unfold State.setQueue; split <;> rfl
@[simp] theorem State.setQueue_energy (s : State) (n : Nat) (Q : LaunchQueue) : (s.setQueue n Q).energy = s.energy := by
  unfold State.setQueue; split <;> rfl
@[simp] theorem State.setQueue_trust (s : State) (n : Nat) (Q : LaunchQueue) : (s.setQueue n Q).trust = s.trust := by
  unfold State.setQueue; split <;> rfl

/-! ## State.setPort -/

@[simp] theorem State.setPort_agent (s : State) (p : Nat) (P : Port) : (s.setPort p P).agent = s.agent := by
  unfold State.setPort; split <;> rfl
@[simp] theorem State.setPort_agenda (s : State) (p : Nat) (P : Port) : (s.setPort p P).agenda = s.agenda := by
  unfold State.setPort; split <;> rfl
@[simp] theorem State.setPort_limit (s : State) (p : Nat) (P : Port) : (s.setPort p P).limit = s.limit := by
  unfold State.setPort; split <;> rfl
@[simp] theorem State.setPort_blocked (s : State) (p : Nat) (P : Port) : (s.setPort p P).blocked = s.blocked := by
  unfold State.setPort; split <;> rfl
@[simp] theorem State.setPort_wrote (s : State) (p : Nat) (P : Port) : (s.setPort p P).wrote = s.wrote := by
  unfold State.setPort; split <;> rfl
@[simp] theorem State.setPort_walked (s : State) (p : Nat) (P : Port) : (s.setPort p P).walked = s.walked := by
  unfold State.setPort; split <;> rfl
@[simp] theorem State.setPort_steps (s : State) (p : Nat) (P : Port) : (s.setPort p P).steps = s.steps := by
  unfold State.setPort; split <;> rfl
@[simp] theorem State.setPort_free (s : State) (p : Nat) (P : Port) : (s.setPort p P).free = s.free := by
  unfold State.setPort; split <;> rfl
@[simp] theorem State.setPort_mm (s : State) (p : Nat) (P : Port) : (s.setPort p P).mm = s.mm := by
  unfold State.setPort; split <;> rfl
@[simp] theorem State.setPort_harts (s : State) (p : Nat) (P : Port) : (s.setPort p P).harts = s.harts := by
  unfold State.setPort; split <;> rfl
@[simp] theorem State.setPort_cores (s : State) (p : Nat) (P : Port) : (s.setPort p P).cores = s.cores := by
  unfold State.setPort; split <;> rfl
@[simp] theorem State.setPort_launch (s : State) (p : Nat) (P : Port) : (s.setPort p P).launch = s.launch := by
  unfold State.setPort; split <;> rfl
@[simp] theorem State.setPort_near (s : State) (p : Nat) (P : Port) : (s.setPort p P).near = s.near := by
  unfold State.setPort; split <;> rfl
@[simp] theorem State.setPort_sched (s : State) (p : Nat) (P : Port) : (s.setPort p P).sched = s.sched := by
  unfold State.setPort; split <;> rfl
@[simp] theorem State.setPort_evsel (s : State) (p : Nat) (P : Port) : (s.setPort p P).evsel = s.evsel := by
  unfold State.setPort; split <;> rfl
@[simp] theorem State.setPort_evbase (s : State) (p : Nat) (P : Port) : (s.setPort p P).evbase = s.evbase := by
  unfold State.setPort; split <;> rfl
@[simp] theorem State.setPort_logs (s : State) (p : Nat) (P : Port) : (s.setPort p P).logs = s.logs := by
  unfold State.setPort; split <;> rfl
@[simp] theorem State.setPort_elsel (s : State) (p : Nat) (P : Port) : (s.setPort p P).elsel = s.elsel := by
  unfold State.setPort; split <;> rfl
@[simp] theorem State.setPort_links (s : State) (p : Nat) (P : Port) : (s.setPort p P).links = s.links := by
  unfold State.setPort; split <;> rfl
@[simp] theorem State.setPort_journal (s : State) (p : Nat) (P : Port) : (s.setPort p P).journal = s.journal := by
  unfold State.setPort; split <;> rfl
@[simp] theorem State.setPort_pipes (s : State) (p : Nat) (P : Port) : (s.setPort p P).pipes = s.pipes := by
  unfold State.setPort; split <;> rfl
@[simp] theorem State.setPort_retire (s : State) (p : Nat) (P : Port) : (s.setPort p P).retire = s.retire := by
  unfold State.setPort; split <;> rfl
@[simp] theorem State.setPort_energy (s : State) (p : Nat) (P : Port) : (s.setPort p P).energy = s.energy := by
  unfold State.setPort; split <;> rfl
@[simp] theorem State.setPort_trust (s : State) (p : Nat) (P : Port) : (s.setPort p P).trust = s.trust := by
  unfold State.setPort; split <;> rfl

/-! ## Reading back -/

theorem tget_tput {α : Type} (d v : α) (t : Assoc α) (j i : Nat) :
    tget d (tput t j v) i = if i = j then v else tget d t i := by
  induction t with
  | nil => simp only [tput, tget, eq_comm]
  | cons e t ih =>
    obtain ⟨k, w⟩ := e
    simp only [tput]
    by_cases h1 : j < k
    · simp only [h1, if_true, tget, eq_comm]
    · by_cases h2 : k = j
      · subst h2
        by_cases h : k = i
        · subst h; simp [tget]
        · simp [tget, h, show i ≠ k from fun x => h x.symm]
      · simp only [h1, h2, if_false, tget, ih]
        by_cases h : k = i
        · subst h; simp [h2]
        · simp [h]

@[simp] theorem State.setHart_hart (s : State) (h : Nat) (H : Hart) : (s.setHart h H).hart h = H := by
  simp [State.hart, State.setHart, tget_tput]

theorem State.setHart_hart_of_ne (s : State) (h g : Nat) (H : Hart) (n : g ≠ h) : (s.setHart h H).hart g = s.hart g := by
  simp [State.hart, State.setHart, tget_tput, n]

@[simp] theorem State.setHart_core (s : State) (h c : Nat) (H : Hart) : (s.setHart h H).core c = s.core c := rfl
@[simp] theorem State.setMem_hart (s : State) (m : MemSys) (h : Nat) : (s.setMem m).hart h = s.hart h := rfl
@[simp] theorem State.setCore_hart (s : State) (c h : Nat) (C : CoreState) : (s.setCore c C).hart h = s.hart h := rfl
@[simp] theorem State.setUnit_hart (s : State) (u h : Nat) (U : NbUnit) : (s.setUnit u U).hart h = s.hart h := rfl

@[simp] theorem State.setCore_core (s : State) (c : Nat) (C : CoreState) : (s.setCore c C).core c = C := by
  simp [State.core, State.setCore, tget_tput]

@[simp] theorem State.setUnit_unit (s : State) (u : Nat) (U : NbUnit) : (s.setUnit u U).unit u = U := by
  simp [State.unit, State.setUnit, tget_tput]

theorem tput_tput {α : Type} (t : Assoc α) (j : Nat) (v w : α) : tput (tput t j v) j w = tput t j w := by
  induction t with
  | nil => simp [tput]
  | cons e t ih =>
    obtain ⟨k, x⟩ := e
    simp only [tput]
    split
    · simp [tput]
    · split
      · simp [tput]
      · rename_i h1 h2; simp [tput, h1, h2, ih]

@[simp] theorem State.setHart_setHart (s : State) (h : Nat) (H G : Hart) : (s.setHart h H).setHart h G = s.setHart h G := by
  simp [State.setHart, tput_tput]

end Sys2Proof.Machine
end

