-- ==== Sys2Proof/Laws/Access.lean ====
section
/-!
SUPPORT. What performing an access can change of a hart that it is an access of: its L1 and the list of its vector accesses, and
nothing else.
-/
namespace Sys2Proof.Machine

/-- From s to t the hart h keeps all but its L1 and its vector accesses. -/
def State.keeps (h : Nat) (s t : State) : Prop :=
  ∃ l v, t.hart h = { s.hart h with l1 := l, vaccs := v }

theorem State.keeps_rfl (h : Nat) (s : State) : State.keeps h s s := ⟨_, _, rfl⟩

theorem State.keeps_of_hart {h : Nat} {s t : State} (e : t.hart h = s.hart h) : State.keeps h s t := ⟨_, _, e⟩

theorem State.keeps_trans {h : Nat} {s t u : State} (a : State.keeps h s t) (b : State.keeps h t u) : State.keeps h s u := by
  obtain ⟨l, v, e⟩ := a
  obtain ⟨l', v', e'⟩ := b
  exact ⟨l', v', by rw [e', e]⟩

theorem keeps_foldl {α : Type} {h : Nat} (f : State → α → State) (hf : ∀ t a, State.keeps h t (f t a)) (l : List α) :
    ∀ s, State.keeps h s (l.foldl f s) := by
  induction l with
  | nil => exact State.keeps_rfl h
  | cons a l ih => exact fun s => State.keeps_trans (hf s a) (ih (f s a))

/-! ## Lines of the caches (R206 to R208) -/

theorem dropL1_hart (ln : Nat) (mask : BitVec 8) (own : Option Nat) (h : Nat) (harts : Assoc Hart) :
    ∃ l, tget Hart.initial (dropL1 ln mask own harts) h = { tget Hart.initial harts h with l1 := l } := by
  unfold dropL1
  split
  · exact ⟨_, rfl⟩
  · induction harts with
    | nil => exact ⟨_, rfl⟩
    | cons e t ih =>
      obtain ⟨k, H⟩ := e
      by_cases he : k = h
      · refine ⟨if mask.getLsbD (k / 32 % 8) && own != some k then H.l1.filter (· != ln) else H.l1, ?_⟩
        rw [List.map_cons]
        dsimp only
        split <;> simp only [tget, he, if_true]
      · obtain ⟨l, ih⟩ := ih
        refine ⟨l, ?_⟩
        rw [List.map_cons]
        dsimp only
        split <;> simpa only [tget, he, if_false] using ih

theorem keeps_dropL1 (h ln : Nat) (mask : BitVec 8) (own : Option Nat) (s : State) :
    State.keeps h s { s with harts := dropL1 ln mask own s.harts } := by
  obtain ⟨l, e⟩ := dropL1_hart ln mask own h s.harts
  exact ⟨l, _, e⟩

@[simp] theorem logError_hart (s : State) (level : Nat) (e : LogEntry) (h : Nat) : (logError s level e).hart h = s.hart h := by
  unfold logError enterLog wantHost
  split <;> split <;> rfl

@[simp] theorem queuePage_hart (pa : Nat) (s : State) (h : Nat) : (queuePage pa s).hart h = s.hart h := by
  unfold queuePage wantHost
  split
  · rfl
  · split
    · rfl
    · dsimp only
      split
      · rfl
      · rw [logError_hart]; split <;> rfl

theorem keeps_evictLine (h ln : Nat) (line : L2Line) (s : State) : State.keeps h s (evictLine ln line s) := by
  unfold evictLine
  refine State.keeps_trans (keeps_dropL1 h ln line.presence none s)
    (State.keeps_trans (t := State.setMem _ _) (State.keeps_of_hart rfl) (keeps_foldl _ (fun t i => ?_) _ _))
  refine State.keeps_of_hart ?_
  split
  · unfold leaveBad; split <;> simp
  · rfl

theorem keeps_putLine (h ln : Nat) (line : L2Line) (s : State) : State.keeps h s (putLine ln line s) := by
  unfold putLine
  dsimp only
  split
  · exact State.keeps_of_hart rfl
  · exact State.keeps_trans (keeps_evictLine h _ _ (drawWord s).2) (State.keeps_of_hart rfl)

theorem keeps_touchLine (h ln k n slot : Nat) (own : Option Nat) (s : State) :
    State.keeps h s (touchLine ln k n slot own s) := by
  unfold touchLine
  exact State.keeps_trans (keeps_dropL1 h ln _ own s) (keeps_putLine h ln _ _)

theorem keeps_onLines (h : Nat) (f : Nat → State → State) (hf : ∀ ln s, State.keeps h s (f ln s)) (k n : Nat) (s : State) :
    State.keeps h s (onLines f k n s) := by
  have key : ∀ last m ln s, State.keeps h s (linesFrom f last m ln s) := by
    intro last m
    induction m with
    | zero => exact fun _ s => State.keeps_rfl h s
    | succ m ih =>
      intro ln s
      unfold linesFrom
      split
      · exact State.keeps_rfl h s
      · exact State.keeps_trans (hf ln s) (ih (ln + 1) _)
  unfold onLines
  split
  · exact State.keeps_rfl h s
  · exact key _ _ _ _

/-- A write at a location changes no hart but for lines of the L1s. -/
theorem keeps_writeLoc (h : Nat) (w : Who) (l : Loc) (v : Nat) (s : State) : State.keeps h s (writeLoc w l v s) := by
  have touch (b : Bool) (k n slot : Nat) (t : State) : State.keeps h t (if b then touchLines k n slot w.hart t else t) := by
    cases b
    · exact State.keeps_rfl h t
    · exact keeps_onLines h _ (fun ln => keeps_touchLine h ln k n slot w.hart) k n t
  unfold writeLoc
  extract_lets s1 s2 s3
  have e1 : State.keeps h s s1 := State.keeps_of_hart (State.setMem_hart s _ h)
  have e2 : State.keeps h s1 s2 := by
    show State.keeps h s1 (if _ then _ else _)
    split
    · exact State.keeps_of_hart (State.setMem_hart s1 _ h)
    · exact State.keeps_rfl h s1
  have e3 : State.keeps h s2 s3 := touch l.cached1 _ _ _ s2
  exact State.keeps_trans e1 (State.keeps_trans e2 (State.keeps_trans e3 (touch l.cached2 _ _ _ s3)))

/-! ## Departures (R273, R286) -/

/-- An access of the hart's own makes no replay of it depart. -/
theorem departReplays_own (h k n : Nat) (w : Bool) (s : State) : (departReplays (some h) k n w s).hart h = s.hart h := by
  have key : ∀ (l : Assoc Hart) (t : State), t.hart h = s.hart h →
      (l.foldl (fun t e => if conflicting (some h) k n w s e then t.setHart e.1 (e.2.depart e.2.loop.lpwm.toNat 1) else t) t).hart h =
        s.hart h := by
    intro l
    induction l with
    | nil => exact fun t ht => ht
    | cons e l ih =>
      intro t ht
      rw [List.foldl_cons]
      refine ih _ ?_
      split
      · rename_i hc
        have hne : h ≠ e.1 := by
          intro he
          simp [conflicting, he] at hc
        rw [State.setHart_hart_of_ne _ _ _ _ hne, ht]
      · exact ht
  exact key s.harts s rfl

theorem departConflicts_own (h k n : Nat) (w : Bool) (s : State) : (departConflicts (some h) k n w s).hart h = s.hart h := by
  rw [← departReplays_own h k n w s]
  unfold departConflicts holdBanks
  split <;> rfl

theorem departLoc_own (h : Nat) (l : Loc) (w : Bool) (s : State) : (departLoc (some h) l w s).hart h = s.hart h := by
  unfold departLoc
  dsimp only
  split <;> simp only [departConflicts_own]

/-! ## Vector accesses (R222, R223) -/

theorem keeps_setVaccs (h : Nat) (f : List VecAccess → List VecAccess) (s : State) : State.keeps h s (setVaccs h f s) :=
  ⟨_, _, by rw [setVaccs, State.setHart_hart]⟩

theorem setVaccs_hart (h : Nat) (f : List VecAccess → List VecAccess) (s : State) :
    (setVaccs h f s).hart h = { s.hart h with vaccs := f (s.hart h).vaccs } := by rw [setVaccs, State.setHart_hart]

theorem foldl_clearCovered_hart (h : Nat) (l : List VecAccess) (s : State) :
    (l.foldl (fun t A => clearCovered A.did t) s).hart h = s.hart h := by
  induction l generalizing s with
  | nil => rfl
  | cons A l ih => rw [List.foldl_cons, ih]; rfl

/-- Accesses that are over leave, and nothing else of the hart changes. -/
theorem leaveVaccs_hart (h : Nat) (s : State) : ∃ v, (leaveVaccs h s).hart h = { s.hart h with vaccs := v } := by
  unfold leaveVaccs
  dsimp only
  rw [setVaccs_hart, foldl_clearCovered_hart]
  exact ⟨_, rfl⟩

theorem keeps_performAll (h : Nat) (A : VecAccess) (s : State) : State.keeps h s (performAll h A s) := by
  unfold performAll
  refine State.keeps_trans ?_ (keeps_setVaccs h _ _)
  split
  · exact State.keeps_rfl h s
  · rename_i hk
    refine keeps_foldl _ (fun t e => ?_) _ _
    unfold VecElem.perform
    refine State.keeps_trans (t := departLoc (some h) e.loc (A.kind != .load) t) (State.keeps_of_hart (departLoc_own ..)) ?_
    cases hA : A.kind with
    | load => exact absurd hA hk
    | store => exact keeps_writeLoc h _ _ _ _
    | add =>
      dsimp only
      split
      · exact State.keeps_rfl h _
      · exact keeps_writeLoc h _ _ _ _

/-- Forcing vector accesses of a hart changes nothing of it but its L1 and the list of them. -/
theorem keeps_forceVaccs (h : Nat) (f : VecAccess → Bool) (s : State) : State.keeps h s (forceVaccs h f s) := by
  unfold forceVaccs
  split
  · exact State.keeps_rfl h s
  · obtain ⟨v, e⟩ := leaveVaccs_hart h (List.foldl (fun t A => performAll h A t) s (neededVaccs f (s.hart h).vaccs))
    exact State.keeps_trans (keeps_foldl _ (fun t A => keeps_performAll h A t) _ s) ⟨_, v, e⟩

theorem keeps_closeVacc (h : Nat) (s : State) : State.keeps h s (closeVacc h s) := by
  unfold closeVacc
  split
  · exact State.keeps_rfl h s
  · obtain ⟨v, e⟩ := leaveVaccs_hart h (setVaccs h (fun l => l.map (fun A => { A with going := false })) s)
    exact State.keeps_trans (keeps_setVaccs h _ s) ⟨_, v, e⟩

theorem keeps_finishVaccs (h : Nat) (s : State) : State.keeps h s (finishVaccs h s) :=
  State.keeps_trans (keeps_closeVacc h s) (keeps_forceVaccs h _ _)

/-- Before its handler is entered a hart keeps all but its L1 and its vector accesses. -/
theorem keeps_leaveWait (h : Nat) (s : State) : State.keeps h s (leaveWait h s) := by
  unfold leaveWait
  refine State.keeps_trans (keeps_finishVaccs h s) (State.keeps_of_hart ?_)
  dsimp only
  split <;> rfl

/-- Settling loads changes of the hart its vector accesses alone. -/
theorem settleLoads_hart (h : Nat) (f : Nat → Bool) (s : State) :
    ∃ v, (settleLoads h f s).hart h = { s.hart h with vaccs := v } := by
  unfold settleLoads
  split
  · exact ⟨_, rfl⟩
  · obtain ⟨v, e⟩ := leaveVaccs_hart h (setVaccs h (fun l => l.map (fun A =>
      if A.kind = .load && !A.going then { A with todo := A.todo.filter (fun e => !f e.reg) } else A)) s)
    exact ⟨v, by rw [e, setVaccs_hart]⟩

theorem foldl_clearCovered (l : List VecAccess) (s : State) :
    ∃ m, l.foldl (fun t A => clearCovered A.did t) s = s.setMem m := by
  induction l generalizing s with
  | nil => exact ⟨s.mm, rfl⟩
  | cons A l ih =>
    obtain ⟨m, e⟩ := ih (clearCovered A.did s)
    exact ⟨m, by rw [List.foldl_cons, e]; rfl⟩

/-- Settling loads changes the state, if at all, in the poison of memory and in that hart's vector accesses alone. -/
theorem settleLoads_frame (h : Nat) (f : Nat → Bool) (s : State) :
    settleLoads h f s = s ∨ ∃ m v, settleLoads h f s = (s.setMem m).setHart h { s.hart h with vaccs := v } := by
  unfold settleLoads
  split
  · exact Or.inl rfl
  · right
    unfold leaveVaccs
    dsimp only
    obtain ⟨m, e⟩ := foldl_clearCovered _ (setVaccs h _ s)
    rw [e]
    simp only [setVaccs, State.setMem_hart, State.setHart_hart]
    exact ⟨m, _, State.setHart_setHart (s.setMem m) h _ _⟩

@[simp] theorem settleLoads_agent (h : Nat) (f : Nat → Bool) (s : State) : (settleLoads h f s).agent = s.agent := by
  rcases settleLoads_frame h f s with e | ⟨m, v, e⟩ <;> rw [e] <;> rfl

@[simp] theorem settleLoads_limit (h : Nat) (f : Nat → Bool) (s : State) : (settleLoads h f s).limit = s.limit := by
  rcases settleLoads_frame h f s with e | ⟨m, v, e⟩ <;> rw [e] <;> rfl

@[simp] theorem settleLoads_core (h : Nat) (f : Nat → Bool) (s : State) (c : Nat) : (settleLoads h f s).core c = s.core c := by
  rcases settleLoads_frame h f s with e | ⟨m, v, e⟩ <;> rw [e] <;> rfl

@[simp] theorem settleLoads_trust (h : Nat) (f : Nat → Bool) (s : State) : (settleLoads h f s).trust = s.trust := by
  rcases settleLoads_frame h f s with e | ⟨m, v, e⟩ <;> rw [e] <;> rfl

end Sys2Proof.Machine
end

