-- ==== Sys2Proof/Laws/Memory.lean ====
section
/-!
SUPPORT. Memory: what a byte write reads back as, and that every write keeps the canonical form.
-/
namespace Sys2Proof.Machine

/-! ## The canonical form -/

theorem Memory.wf_cons (c : Host.Cell) (t : List Host.Cell) :
    Memory.wf (c :: t) = true ↔ c.2 ≠ unwritten ∧ (∀ e ∈ t, c.1 < e.1) ∧ Memory.wf t = true := by
  induction t generalizing c with
  | nil => simp [Memory.wf]
  | cons d t ih =>
    simp only [Memory.wf, Bool.and_eq_true, decide_eq_true_eq, bne_iff_ne, List.mem_cons, forall_eq_or_imp]
    constructor
    · rintro ⟨⟨h1, h2⟩, h3⟩
      exact ⟨h2, ⟨h1, fun e he => Nat.lt_trans h1 (((ih d).mp h3).2.1 e he)⟩, h3⟩
    · rintro ⟨h1, ⟨h2, -⟩, h3⟩
      exact ⟨⟨h2, h1⟩, h3⟩

theorem mem_tput {α : Type} (t : Assoc α) (j : Nat) (v : α) (e : Nat × α) (h : e ∈ tput t j v) : e = (j, v) ∨ e ∈ t := by
  induction t with
  | nil => simpa [tput] using h
  | cons c t ih =>
    obtain ⟨k, w⟩ := c
    simp only [tput] at h
    split at h
    · simpa using h
    · split at h
      · rcases List.mem_cons.mp h with h | h <;> simp [h]
      · rcases List.mem_cons.mp h with h | h
        · simp [h]
        · rcases ih h with h | h <;> simp [h]

theorem Memory.wf_tput (t : List Host.Cell) (j : Nat) (b : Byte) (hb : b ≠ unwritten) (w : Memory.wf t = true) :
    Memory.wf (tput t j b) = true := by
  induction t with
  | nil => simpa [tput, Memory.wf] using hb
  | cons c t ih =>
    obtain ⟨k, x⟩ := c
    obtain ⟨h1, h2, h3⟩ := (Memory.wf_cons _ _).mp w
    simp only [tput]
    split
    · rename_i hj
      exact (Memory.wf_cons _ _).mpr ⟨hb, fun e he => by
        rcases List.mem_cons.mp he with he | he
        · subst he; exact hj
        · exact Nat.lt_trans hj (h2 e he), w⟩
    · split
      · rename_i hk; subst hk
        exact (Memory.wf_cons _ _).mpr ⟨hb, h2, h3⟩
      · rename_i n1 n2
        refine (Memory.wf_cons _ _).mpr ⟨h1, fun e he => ?_, ih h3⟩
        rcases mem_tput t j b e he with he | he
        · subst he; change k < j; change ¬ j < k at n1; omega
        · exact h2 e he

theorem Memory.wf_tdrop (t : List Host.Cell) (j : Nat) (w : Memory.wf t = true) : Memory.wf (tdrop t j) = true := by
  induction t with
  | nil => rfl
  | cons c t ih =>
    obtain ⟨h1, h2, h3⟩ := (Memory.wf_cons _ _).mp w
    simp only [tdrop, List.filter_cons] at ih ⊢
    split
    · exact (Memory.wf_cons _ _).mpr ⟨h1, fun e he => h2 e (List.mem_filter.mp he).1, ih h3⟩
    · exact ih h3

theorem Memory.wf_setByte (t : List Host.Cell) (k : Nat) (b : Byte) (w : Memory.wf t = true) :
    Memory.wf (setByte t k b) = true := by
  unfold setByte
  split
  · exact Memory.wf_tdrop t k w
  · exact Memory.wf_tput t k b ‹_› w

theorem Memory.wf_writeLE (t : List Host.Cell) (k n v : Nat) (w : Memory.wf t = true) :
    Memory.wf (writeLE t k n v) = true := by
  induction n generalizing t k v with
  | zero => exact w
  | succ n ih => exact ih _ _ _ (Memory.wf_setByte t k _ w)

/-! ## Poison and seals leave the bytes alone; every write keeps the form -/

@[simp] theorem mendUnits_cells (f : Nat → Nat → Bool) (ms : MemSys) : (mendUnits f ms).cells = ms.cells := by
  unfold mendUnits; split <;> rfl

@[simp] theorem clearPoison_cells (ms : MemSys) (k n : Nat) : (clearPoison ms k n).cells = ms.cells := mendUnits_cells _ _

@[simp] theorem addPoison_cells (ms : MemSys) (k n : Nat) : (addPoison ms k n).cells = ms.cells := rfl
@[simp] theorem taintSectors_cells (ms : MemSys) (k n : Nat) : (taintSectors ms k n).cells = ms.cells := rfl

@[simp] theorem poisonWrite_cells (ms : MemSys) (c : Bool) (k n : Nat) : (poisonWrite ms c k n).cells = ms.cells := by
  unfold poisonWrite; extract_lets m1
  have h1 : m1.cells = ms.cells := by simp only [m1]; split <;> rfl
  split <;> simpa using h1

theorem Memory.wf_writeView (ms : MemSys) (o : Option (BitVec 512)) (k n v : Nat) (w : Memory.wf ms.cells = true) :
    Memory.wf (writeView ms o k n v).cells = true := by
  induction n generalizing ms k v with
  | zero => exact w
  | succ n ih => exact ih _ _ _ (Memory.wf_writeLE _ _ _ _ w)

theorem Memory.wf_memWriteOne (ms : MemSys) (o : Option (BitVec 512)) (k n v : Nat) (w : Memory.wf ms.cells = true) :
    Memory.wf (memWriteOne ms o k n v).cells = true := by
  unfold memWriteOne
  rw [clearPoison_cells]
  split
  · exact Memory.wf_writeLE _ _ _ _ w
  · exact Memory.wf_writeView _ _ _ _ _ w

theorem Memory.wf_memWrite (ms : MemSys) (o : Option (BitVec 512)) (k n v : Nat) (w : Memory.wf ms.cells = true) :
    Memory.wf (memWrite ms o k n v).cells = true := by
  unfold memWrite
  split
  · exact Memory.wf_memWriteOne _ _ _ _ _ w
  · exact Memory.wf_memWriteOne _ _ _ _ _ (Memory.wf_memWriteOne _ _ _ _ _ w)

/-! ## Reading back -/

theorem tget_tdrop {α : Type} (d : α) (t : Assoc α) (j i : Nat) :
    tget d (tdrop t j) i = if i = j then d else tget d t i := by
  induction t with
  | nil => simp [tdrop, tget]
  | cons c t ih =>
    obtain ⟨k, w⟩ := c
    simp only [tdrop, List.filter_cons] at ih ⊢
    by_cases hk : k = j
    · subst hk
      simp only [bne_self_eq_false, Bool.false_eq_true, if_false, ih, tget]
      by_cases hi : i = k
      · simp [hi]
      · simp [hi, show k ≠ i from fun h => hi h.symm]
    · have hb : (k != j) = true := by simpa using hk
      simp only [hb, if_true, tget, ih]
      by_cases hi : k = i
      · subst hi; simp [hk]
      · simp [hi]

/-- A byte that is written reads back; every other byte reads as before. -/
theorem byteAt_setByte (t : List Host.Cell) (k j : Nat) (b : Byte) :
    byteAt (setByte t k b) j = if j = k then b else byteAt t j := by
  unfold setByte byteAt
  split
  · rename_i h; subst h; exact tget_tdrop _ _ _ _
  · exact tget_tput _ _ _ _ _

/-- A little-endian write leaves every byte outside it alone. -/
theorem byteAt_writeLE_outside (t : List Host.Cell) (k n v j : Nat) (h : j < k ∨ k + n ≤ j) :
    byteAt (writeLE t k n v) j = byteAt t j := by
  induction n generalizing t k v with
  | zero => rfl
  | succ n ih =>
    rw [writeLE, ih _ _ _ (by omega), byteAt_setByte, if_neg (by omega)]

/-- The bytes of a little-endian write, lowest first (R3). -/
theorem byteAt_writeLE (t : List Host.Cell) (k n v i : Nat) (h : i < n) :
    byteAt (writeLE t k n v) (k + i) = BitVec.ofNat 8 (v / 256 ^ i) := by
  induction n generalizing t k v i with
  | zero => omega
  | succ n ih =>
    cases i with
    | zero => rw [writeLE, byteAt_writeLE_outside _ _ _ _ _ (by omega), byteAt_setByte]; simp
    | succ i =>
      rw [writeLE, show k + (i + 1) = k + 1 + i by omega, ih _ _ _ _ (by omega), Nat.div_div_eq_div_mul,
        Nat.pow_succ, Nat.mul_comm]

end Sys2Proof.Machine
end

