-- ==== Sys2Proof/Laws/Ops.lean ====
section
/-!
SUPPORT. The shared operations: when each gate of an instruction is open, what a near-bank thread's instruction amounts
to, and what taking an exception leaves.
-/
namespace Sys2Proof.Machine

/-! ## Gates -/

theorem Gate.need_go {b : Bool} (h : b = true) (c : Nat) (t : Word) : Gate.need b c t = .go := by simp [Gate.need, h]
theorem Gate.need_trap {b : Bool} (h : b = false) (c : Nat) (t : Word) : Gate.need b c t = .trap c t := by
  simp [Gate.need, h]
theorem Gate.until_go {b : Bool} (h : b = true) : Gate.until b = .go := by simp [Gate.until, h]
theorem Gate.until_wait {b : Bool} (h : b = false) : Gate.until b = .wait := by simp [Gate.until, h]

theorem Hart.srcS_go (H : Hart) (r : BitVec 5) (x : BitVec 1) (f : H.regs.isEmptyS r = false) : H.srcS r x = .go := by
  simp [Hart.srcS, f]
theorem Hart.srcK_go (H : Hart) (r : BitVec 3) (x : BitVec 1) (f : H.regs.isEmptyK r = false) : H.srcK r x = .go := by
  simp [Hart.srcK, f]
theorem Hart.dstS_go (H : Hart) (r : BitVec 5) (f : H.regs.isEmptyS r = false) : H.dstS r = .go := by simp [Hart.dstS, f]
theorem Hart.dstK_go (H : Hart) (r : BitVec 3) (f : H.regs.isEmptyK r = false) : H.dstK r = .go := by simp [Hart.dstK, f]
theorem Hart.confirmed_go (H : Hart) (f : H.settled = true) : H.confirmed = .go := by simp [Hart.confirmed, f]

theorem Hart.replayHolds_idle {H : Hart} (h k n : Nat) (s : State) (hl : H.loop.st ≠ 3) :
    H.replayHolds h k n s = false := by simp [Hart.replayHolds, hl]

theorem Hart.settled_checks {H : Hart} (h : H.settled = true) : H.checks = [] := by
  simp only [Hart.settled, Bool.and_eq_true, List.isEmpty_iff] at h; exact h.1
theorem Hart.settled_tentative {H : Hart} (h : H.settled = true) : H.tentative = false := by
  simp only [Hart.settled, Bool.and_eq_true, Bool.not_eq_true'] at h; exact h.2

/-! ## Near-bank threads -/

/-- The running job of a unit is the one its threads act on, while the thread has not halted. -/
theorem onJob_running {u : Nat} {t : Bool} {s : State} {J : NbJob} (hj : s.threadOf u t J) (f : NbJob → State) :
    onJob u t s f = f J := by
  simp only [onJob, hj.1]; rw [if_neg (by simp [hj.2])]

/-- An instruction of a thread that only computes writes the thread's registers and moves its pc. -/
theorem nearCompute_moved {u : Nat} {t : Bool} {s : State} {J : NbJob} (hj : s.threadOf u t J)
    (f : ScalarRegs → ScalarRegs) : nearCompute u t f s = s.threadMoved u t J (f (J.thread t).regs) := by
  simp only [nearCompute, onJob_running hj, State.threadMoved]
  cases t <;> rfl

/-! ## Departures and banks in reset (R273, R286) -/

/-- Where no other hart replays, no replay departs. -/
theorem departReplays_undisturbed {s : State} {own : Option Nat} (hu : s.undisturbed own) (k n : Nat) (w : Bool) :
    departReplays own k n w s = s := by
  have key : ∀ (l : Assoc Hart) (t : State), (∀ e ∈ l, own ≠ some e.1 → e.2.loop.st ≠ 3) →
      l.foldl (fun t e => if conflicting own k n w s e then t.setHart e.1 (e.2.depart e.2.loop.lpwm.toNat 1) else t) t = t := by
    intro l
    induction l with
    | nil => intro t _; rfl
    | cons e l ih =>
      intro t hl
      have he : conflicting own k n w s e = false := by
        by_cases h : own = some e.1
        · simp [conflicting, h]
        · simp [conflicting, Hart.replayMeets, hl e (List.mem_cons_self ..) h]
      rw [List.foldl_cons, he]
      exact ih t (fun e he => hl e (List.mem_cons_of_mem _ he))
  exact key s.harts s hu.1

theorem departConflicts_undisturbed {s : State} {own : Option Nat} (hu : s.undisturbed own) (k n : Nat) (w : Bool) :
    departConflicts own k n w s = s := by
  rw [departConflicts, departReplays_undisturbed hu]
  simp [holdBanks, hu.2]

theorem departLoc_undisturbed {s : State} {own : Option Nat} (hu : s.undisturbed own) (l : Loc) (w : Bool) :
    departLoc own l w s = s := by
  simp [departLoc, departConflicts_undisturbed hu]

/-- A step whose walkers and fetches have accessed nothing makes no replay depart. -/
theorem departWalked_none {s : State} (h : s.walked = []) : departWalked s = s := by
  cases s; subst h; rfl

/-! ## Pending accesses (R120, R122) -/

/-- Where nothing that f selects is due, nothing is forced. -/
theorem forceLoads_none {s : State} {h : Nat} {f : PendingLoad → Bool}
    (hn : ∀ p ∈ (s.hart h).loads, (f p && p.due) = false) : forceLoads h f s = s := by
  have key : ∀ m n, forceFrom h f m n s = s := by
    intro m
    induction m with
    | zero => intro n; rfl
    | succ m ih =>
      intro n
      unfold forceFrom
      cases hp : (s.hart h).loads[n]? with
      | none => rfl
      | some p => simp [hn p (List.mem_of_getElem? hp), ih]
  exact key _ _

/-- Performing a pending load or amo, undisturbed: it takes its value, and nothing else changes. -/
theorem performAt_read {s : State} {h n : Nat} {p : PendingLoad} (hk : p.kind ≠ .store) (hu : s.undisturbed (some h)) :
    performAt h n p s = s.setHart h ((s.hart h).setLoad n (p.perform s.mm)) := by
  unfold performAt
  rw [departLoc_undisturbed hu]
  cases hp : p.kind <;> simp_all

/-- Performing a pending store, undisturbed: its bytes are written, and it leaves. -/
theorem performAt_store {s : State} {h n : Nat} {p : PendingLoad} (hk : p.kind = .store) (hu : s.undisturbed (some h)) :
    performAt h n p s =
      let t := writeLoc (s.who h) p.loc (p.data.toNat % 256 ^ p.size) s
      t.setHart h ((t.hart h).dropLoad n) := by
  unfold performAt
  rw [departLoc_undisturbed hu]
  simp [hk]

/-! ## Accesses of an agent without a pending list (R119, R121, R249, R285, R364) -/

/-- No copy of the hart owes the bytes and no replay of it runs: its access waits for neither. -/
theorem ownStalls_none {h a n : Nat} {k : Acc} {s : State} (hc : (s.hart h).copyStalls (fun _ => true) a n = false)
    (hl : (s.hart h).loop.st ≠ 3) : ownStalls h a n k s = false := by
  simp [ownStalls, hc, Hart.replayHoldsAt, hl]

/-- A read on this device of good data answers its bytes, and its sectors come into the home L2. -/
theorem readAt_local {w : Who} {a n : Nat} {s s1 : State} {l : Loc} (h : accessBy w a n .read s = .ok l s1)
    (hp : l.peer = none) (hg : poisonedLoc l s1 = false) : readAt w a n s = .ok (readLoc l s1) (fillLoc l s1) := by
  simp [readAt, readFrom, h, peerError, peerPoison, hp, hg]

/-- A read that answers has passed its checks: the value is what stands at the location, which is not poisoned. -/
theorem readAt_ok {w : Who} {a n v : Nat} {s t : State} (h : readAt w a n s = .ok v t) :
    ∃ l s1 s2, accessBy w a n .read s = .ok l s1 ∧ poisonedLoc l s2 = false ∧ v = readLoc l s2 ∧ t = fillLoc l s2 ∧
      (l.peer = none → s2 = s1) := by
  unfold readAt at h
  split at h
  · cases h
  · rename_i l s1 ha
    unfold readFrom at h
    dsimp only at h
    split at h
    · cases h
    split at h
    · cases h
    · rename_i hb
      cases h
      refine ⟨l, s1, _, ha, ?_, rfl, rfl, fun hp => by simp [peerError, peerPoison, hp]⟩
      simp only [Bool.or_eq_true, not_or, Bool.not_eq_true] at hb
      exact hb.2

/-- A write on this device puts its bytes at the location. -/
theorem writeAt_local {w : Who} {a n v : Nat} {s s1 : State} {l : Loc} (h : accessBy w a n .write s = .ok l s1)
    (hp : l.peer = none) : writeAt w a n v s = .ok () (writeLoc w l v s1) := by
  simp [writeAt, h, peerError, writeOut, hp]

/-! ## What a trace record leaves alone -/

@[simp] theorem Hart.trace_regs (H : Hart) (k : Nat) (a b : Word) (c : Nat) : (H.trace k a b c).regs = H.regs := by
  unfold Hart.trace; split <;> rfl
@[simp] theorem Hart.trace_loop (H : Hart) (k : Nat) (a b : Word) (c : Nat) : (H.trace k a b c).loop = H.loop := by
  unfold Hart.trace; split <;> rfl
@[simp] theorem Hart.trace_frm (H : Hart) (k : Nat) (a b : Word) (c : Nat) : (H.trace k a b c).frm = H.frm := by
  unfold Hart.trace; split <;> rfl
@[simp] theorem Hart.trace_vec (H : Hart) (k : Nat) (a b : Word) (c : Nat) : (H.trace k a b c).vec = H.vec := by
  unfold Hart.trace; split <;> rfl
@[simp] theorem Hart.trace_streams (H : Hart) (k : Nat) (a b : Word) (c : Nat) :
    (H.trace k a b c).streams = H.streams := by unfold Hart.trace; split <;> rfl
@[simp] theorem Hart.trace_chans (H : Hart) (k : Nat) (a b : Word) (c : Nat) : (H.trace k a b c).chans = H.chans := by
  unfold Hart.trace; split <;> rfl
@[simp] theorem Hart.trace_binds (H : Hart) (k : Nat) (a b : Word) (c : Nat) : (H.trace k a b c).binds = H.binds := by
  unfold Hart.trace; split <;> rfl
@[simp] theorem Hart.trace_handBack (H : Hart) (k : Nat) (a b : Word) (c : Nat) :
    (H.trace k a b c).handBack = H.handBack := by unfold Hart.trace; split <;> rfl
@[simp] theorem Hart.trace_trap (H : Hart) (k : Nat) (a b : Word) (c : Nat) : (H.trace k a b c).trap = H.trap := by
  unfold Hart.trace; split <;> rfl
@[simp] theorem Hart.trace_mcheck (H : Hart) (k : Nat) (a b : Word) (c : Nat) : (H.trace k a b c).mcheck = H.mcheck := by
  unfold Hart.trace; split <;> rfl
@[simp] theorem Hart.trace_taskFaults (H : Hart) (k : Nat) (a b : Word) (c : Nat) :
    (H.trace k a b c).taskFaults = H.taskFaults := by unfold Hart.trace; split <;> rfl
@[simp] theorem Hart.trace_loadTraps (H : Hart) (k : Nat) (a b : Word) (c : Nat) :
    (H.trace k a b c).loadTraps = H.loadTraps := by unfold Hart.trace; split <;> rfl

/-! ## Taking an exception (R334 to R337) -/

theorem Hart.endWatch_obs (H : Hart) : ∃ o, H.endWatch = { H with obs := o } := by
  unfold Hart.endWatch; split
  · exact ⟨H.obs, rfl⟩
  · exact ⟨_, rfl⟩

theorem Hart.cancelYounger_settled {H : Hart} (hc : H.checks = []) : H.cancelYounger = H := by
  unfold Hart.cancelYounger; rw [hc]

/-- What a scalar instruction's write of a condition bit changes. -/
theorem ScalarRegs.putK_frame (R : ScalarRegs) (k : BitVec 3) (b : Bool) :
    R.putK k b = { R with k := (R.putK k b).k, empty := (R.putK k b).empty, replay := (R.putK k b).replay } := by
  unfold ScalarRegs.putK ScalarRegs.note ScalarRegs.writeK; split <;> split <;> rfl

/-- A producer changes what a departure would restore in a replay only. -/
theorem MarkedLoop.atConf_other {L : MarkedLoop} (h : L.st ≠ 3) (id : Option Nat) (f : ScalarRegs → ScalarRegs) :
    L.atConf id f = L := by
  unfold MarkedLoop.atConf
  rw [if_neg]
  intro hc
  simp only [Bool.and_eq_true, beq_iff_eq] at hc
  exact h (by simpa [MarkedLoop.st, bits] using hc.1.1)

/-- A demonstration that has ended is in ST 2. -/
theorem MarkedLoop.breach_st {L : MarkedLoop} (h : L.st = 1) (d : Nat) : (L.breach d).st ≠ 3 := by
  have hx := L.lpst.isLt
  unfold MarkedLoop.breach
  rw [if_pos h]
  simp only [MarkedLoop.st, MarkedLoop.setDep, MarkedLoop.setSt, setBits, bits, BitVec.toNat_ofNat]
  omega

/-- What the end of a demonstration changes: the loop, and the condition bit whose verdict was awaited (R279, R281). -/
theorem Hart.breachDemo_frame (H : Hart) (d : Nat) : ∃ k e r c, H.breachDemo d =
    { H with loop := H.loop.breach d, regs := { H.regs with k := k, empty := e, replay := r }, checks := c } ∧
      (H.checks = [] → c = []) := by
  unfold Hart.breachDemo
  split
  · rename_i b _
    by_cases hs : H.loop.st = 1
    · refine ⟨(H.regs.putK b false).k, (H.regs.putK b false).empty, (H.regs.putK b false).replay, (H.fillK b false).checks, ?_,
        fun h => ?_⟩
      · rw [← H.regs.putK_frame b false]; simp only [hs, if_true]
        unfold Hart.fillK
        simp only [MarkedLoop.atConf_other (MarkedLoop.breach_st hs d)]; rfl
      · simp [Hart.fillK, h]
    · exact ⟨H.regs.k, H.regs.empty, H.regs.replay, H.checks, by simp only [hs, if_false], id⟩
  · exact ⟨H.regs.k, H.regs.empty, H.regs.replay, H.checks, rfl, id⟩

/-- What entering a handler leaves of a hart with no unconfirmed branch: the trap record, the level, the handler's
address, and every register as the end of a demonstration leaves it, full. -/
theorem Hart.enter_settled (H : Hart) (hc : H.checks = []) (cause : Nat) (tval info : Word) (skip : Bool) :
    let H' := H.enter cause tval info skip
    let D := H.breachDemo (if cause = 0x11 then 4 else 6)
    H'.pc = H.trap.tvec ∧ H'.status = .running ∧ H'.plev = 1 ∧ H'.trap.tpc = (if skip then H.pc + 4 else H.pc) ∧
    H'.trap.tcause = BitVec.ofNat 8 cause ∧ H'.trap.tval = tval ∧ H'.trap.tinfo = info ∧ H'.trap.ppl = H.plev ∧
    H'.trap.ts = true ∧ H'.trap.tfe = D.regs.empty ∧ H'.regs.empty = 0 ∧ H'.regs.s = H.regs.s ∧
    H'.regs.k = D.regs.k ∧ H'.loop = D.loop ∧ H'.regs.fst = H.regs.fst ∧ H'.regs.srctr = H.regs.srctr ∧ H'.frm = H.frm ∧
    H'.trap.prq = H.trap.prq ∧ H'.trap.tvec = H.trap.tvec ∧ H'.trap.tscratch = H.trap.tscratch := by
  obtain ⟨k, e, r, c, hd, hx⟩ := H.breachDemo_frame (if cause = 0x11 then 4 else 6)
  unfold Hart.enter
  rw [hd, Hart.cancelYounger_settled (hx hc)]
  obtain ⟨o, ho⟩ := Hart.endWatch_obs { H with
    loop := H.loop.breach (if cause = 0x11 then 4 else 6), regs := { H.regs with k := k, empty := e, replay := r }, checks := c }
  rw [ho]
  cases skip <;> simp [Hart.freeze, ScalarRegs.completed]

/-- The vector side of entering a handler: the running instance is frozen with its place, the queue and the vector
registers stay. -/
theorem Hart.enter_vector (H : Hart) (hc : H.checks = []) (cause : Nat) (tval info : Word) (skip : Bool) :
    let H' := H.enter cause tval info skip
    H'.trap.vf = (H.vec.inst.isSome || !H.vec.queue.isEmpty) ∧ H'.trap.tva = H.vec.inst.isSome ∧
    H'.vec.frozen = H.vec.inst ∧ H'.vec.inst = none ∧ H'.vec.queue = H.vec.queue ∧
    (H.vec.inst ≠ none → H'.trap.tvpc = H.vec.vpc ∧ H'.trap.telem = H.vec.estart ∧ H'.trap.tg = H.vec.g) ∧
    H'.vec.v = H.vec.v ∧ H'.vec.m = H.vec.m ∧ H'.vec.len = H.vec.len ∧ H'.vec.rows = H.vec.rows ∧
    H'.vec.fmt = H.vec.fmt := by
  obtain ⟨k, e, r, c, hd, hx⟩ := H.breachDemo_frame (if cause = 0x11 then 4 else 6)
  unfold Hart.enter
  rw [hd, Hart.cancelYounger_settled (hx hc)]
  obtain ⟨o, ho⟩ := Hart.endWatch_obs { H with
    loop := H.loop.breach (if cause = 0x11 then 4 else 6), regs := { H.regs with k := k, empty := e, replay := r }, checks := c }
  rw [ho]
  simp only [Hart.freeze]
  cases hi : H.vec.inst <;> simp

/-- What entering a handler leaves pending: every other cause. -/
theorem Hart.enter_pending (H : Hart) (hc : H.checks = []) (cause : Nat) (tval info : Word) (skip : Bool) :
    let H' := H.enter cause tval info skip
    H'.mcheck = H.mcheck ∧ H'.taskFaults = H.taskFaults ∧ H'.loadTraps = H.loadTraps ∧ H'.streams = H.streams ∧
    H'.chans = H.chans ∧ H'.binds = H.binds ∧ H'.handBack = H.handBack := by
  obtain ⟨k, e, r, c, hd, hx⟩ := H.breachDemo_frame (if cause = 0x11 then 4 else 6)
  unfold Hart.enter
  rw [hd, Hart.cancelYounger_settled (hx hc)]
  obtain ⟨o, ho⟩ := Hart.endWatch_obs { H with
    loop := H.loop.breach (if cause = 0x11 then 4 else 6), regs := { H.regs with k := k, empty := e, replay := r }, checks := c }
  rw [ho]
  cases skip <;> simp [Hart.freeze]

theorem servedFault_other (agent ctx cause : Nat) (va : Word) (s : State) (h : cause ≠ 0x06) :
    servedFault agent ctx cause va s = (some cause, s) := by
  unfold servedFault; rw [if_pos h]

/-- With no vector access dispatched and still to do, there is none to perform. -/
theorem finishVaccs_none {h : Nat} {s : State} (hv : (s.hart h).vaccs = []) : finishVaccs h s = s := by
  simp [finishVaccs, closeVacc, forceVaccs, hv]

/-- What leaving a wait changes, with no vector access to perform: waiters of the hart, and what its streams asked of the host
(R307, R422). -/
theorem leaveWait_frame (h : Nat) (s : State) (hv : (s.hart h).vaccs = []) :
    ∃ q, leaveWait h s = { s with
      sched := q, trust := { s.trust with assists := s.trust.assists.filter (fun a => !(a.agent / 4 == h)) } } ∧
      ((s.hart h).status ≠ .waiting .event → q = s.sched) := by
  unfold leaveWait; rw [finishVaccs_none hv]; dsimp only; split
  · exact ⟨_, rfl, fun hn => absurd ‹_› hn⟩
  · exact ⟨s.sched, rfl, fun _ => rfl⟩

/-- A hart whose streams ask nothing of the host, and that waits for no event, leaves nothing behind. -/
theorem leaveWait_none {h : Nat} {s : State} (ha : ∀ a ∈ s.trust.assists, a.agent / 4 ≠ h)
    (hs : (s.hart h).status ≠ .waiting .event) (hv : (s.hart h).vaccs = []) : leaveWait h s = s := by
  unfold leaveWait forgetAssists
  rw [finishVaccs_none hv]; dsimp only
  rw [if_neg hs]
  have : s.trust.assists.filter (fun a => !(a.agent / 4 == h)) = s.trust.assists :=
    List.filter_eq_self.mpr (fun a m => by simp [ha a m])
  rw [this]

/-- With no vector access to perform, leaving a wait changes no hart. -/
theorem leaveWait_hart {h : Nat} {s : State} (hv : (s.hart h).vaccs = []) (g : Nat) : (leaveWait h s).hart g = s.hart g := by
  obtain ⟨q, e, _⟩ := leaveWait_frame h s hv
  rw [e]; rfl

/-- Outside a trap, with nothing older to wait for, a trap is taken at once. -/
theorem takeTrap_enter (h cause : Nat) (tval info : Word) (skip : Bool) (s : State)
    (hw : (s.hart h).trapWaits = false) (ht : (s.hart h).trap.ts = false) :
    takeTrap h cause tval info skip s = (leaveWait h s).setHart h (((leaveWait h s).hart h).enter cause tval info skip) := by
  simp [takeTrap, hw, ht]

/-- While it waits for older producers the step is to be taken back. -/
theorem takeTrap_waits (h cause : Nat) (tval info : Word) (skip : Bool) (s : State) (hw : (s.hart h).trapWaits = true) :
    takeTrap h cause tval info skip s = { s with blocked := true } := by simp [takeTrap, hw]

/-- In a trap it is a double trap. -/
theorem takeTrap_double (h cause : Nat) (tval info : Word) (skip : Bool) (s : State)
    (hw : (s.hart h).trapWaits = false) (ht : (s.hart h).trap.ts = true) :
    takeTrap h cause tval info skip s = doubleTrap h s := by
  simp [takeTrap, hw, ht]

/-- A confirmed scalar instruction that traps with a cause other than a translation fault enters the handler. -/
theorem scalarTrap_enter (h cause : Nat) (tval : Word) (skip : Bool) (s : State) (hs : (s.hart h).settled = true)
    (hw : (s.hart h).trapWaits = false) (ht : (s.hart h).trap.ts = false) (hc : cause ≠ 0x06) :
    scalarTrap h cause tval skip s =
      (leaveWait h s).setHart h (((leaveWait h s).hart h).enter cause tval (trapInfo 0 0) skip) := by
  unfold scalarTrap streamTrap
  rw [if_pos hs, servedFault_other _ _ _ _ _ hc]
  exact takeTrap_enter h cause tval _ skip s hw ht

/-! ## What ending work changes -/

/-- Telling a hart of its tasks' faults changes its list of them and the schedulers. -/
theorem tellTasks_hart (h order : Nat) (s : State) :
    (∃ f, (tellTasks h order s).hart h = { s.hart h with taskFaults := f }) ∧ (tellTasks h order s).mm = s.mm := by
  unfold tellTasks
  generalize List.range 4 = l
  induction l generalizing s with
  | nil => exact ⟨⟨_, rfl⟩, rfl⟩
  | cons q l ih =>
    obtain ⟨⟨f, e1⟩, e2⟩ := ih _
    exact ⟨⟨f, by rw [List.foldl_cons, e1, State.setHart_hart]⟩, by rw [List.foldl_cons, e2]; simp⟩

/-- tret's release changes no memory, and of the hart at most its channels and the faults of its tasks that it learns. -/
theorem releaseTrap_hart (h : Nat) (T : TrapRegs) (s : State) :
    (∃ c f, (releaseTrap h T s).hart h = { s.hart h with chans := c, taskFaults := f }) ∧
      (releaseTrap h T s).mm = s.mm := by
  unfold releaseTrap
  extract_lets s1 H1 s2
  have hs1 : s1.hart h = s.hart h ∧ s1.mm = s.mm := by
    simp only [s1]; split
    · exact ⟨rfl, rfl⟩
    · simp [State.hart]
  have hs2 : ∃ c, s2.hart h = { s.hart h with chans := c } ∧ s2.mm = s.mm := by
    simp only [s2]; split
    · exact ⟨(s.hart h).chans, hs1.1, hs1.2⟩
    · split
      · exact ⟨_, by rw [State.setHart_hart, show H1 = s.hart h from hs1.1], hs1.2⟩
      · exact ⟨(s.hart h).chans, hs1.1, hs1.2⟩
  obtain ⟨c, hc1, hc2⟩ := hs2
  split
  · split
    · exact ⟨⟨c, (s.hart h).taskFaults, hc1⟩, hc2⟩
    · rename_i L _
      obtain ⟨⟨f, e1⟩, e2⟩ := tellTasks_hart h L.order
        (s2.setLaunch (s2.hart h).place.launch { L with parked := L.parked.filter (· != h) })
      have e3 : (s2.setLaunch (s2.hart h).place.launch { L with parked := L.parked.filter (· != h) }).hart h = s2.hart h := rfl
      exact ⟨⟨c, f, by rw [e1, e3, hc1]⟩, by rw [e2]; exact hc2⟩
  · exact ⟨⟨c, (s.hart h).taskFaults, hc1⟩, hc2⟩

/-- A hart that retires with no store to perform, while others of its launch live: its status, its groups, and its place
among the living. -/
theorem retireHart_others (h : Nat) (s : State) (L : Launch)
    (hn : ∀ p ∈ (s.hart h).loads, (p.kind == PendKind.store && p.due) = false)
    (hv : (s.hart h).vaccs = []) (hL : s.launchAt (s.hart h).place.launch = some L) (hg : ∃ g ∈ L.live, g ≠ h) :
    retireHart h s =
      (s.setHart h { s.hart h with status := .retired, checks := [], loads := [], cmds := [], regs := (s.hart h).regs.completed }).setLaunch
        (s.hart h).place.launch { L with
          live := L.live.filter (fun g => g != h)
          groups := L.groups.map (fun g => (g.1, g.2.leave (s.hart h).place.lvh.toNat)) } := by
  unfold retireHart
  rw [forceLoads_none hn, finishVaccs_none hv]
  have e : (s.setHart h { s.hart h with status := .retired, checks := [], loads := [], cmds := [], regs := (s.hart h).regs.completed }).launchAt
      (s.hart h).place.launch = some L := hL
  simp only [e]
  rw [if_neg]
  obtain ⟨g, h1, h2⟩ := hg
  have : (L.live.filter (fun g => g != h)).isEmpty = false := by
    simp; exact ⟨g, h1, h2⟩
  simp [this]

end Sys2Proof.Machine
end

