-- ==== Sys2Proof/Laws/PerInstr.lean ====
section
/-!
SUPPORT. Per instruction: its word fits in 32 bits, so nothing of it is lost when it is stored (R9); an event has none.
-/
set_option Elab.async false

namespace Sys2Proof.Laws.Encoded

/-- The value of the instruction's word fits in 32 bits; a row without a word encodes to zero. -/
def Statement (i : Instr) : Prop := encodeNat i < 2 ^ 32 ∧ (i.hasWord = false → encodeNat i = 0)

theorem add (y : BitVec 1) (x : BitVec 1) (b : BitVec 5) (a : BitVec 5) (d : BitVec 5) : Statement (.add y x b a d) := ⟨by
  simp only [encodeNat, addWord]; omega, nofun⟩
theorem sub (y : BitVec 1) (x : BitVec 1) (b : BitVec 5) (a : BitVec 5) (d : BitVec 5) : Statement (.sub y x b a d) := ⟨by
  simp only [encodeNat, subWord]; omega, nofun⟩
theorem and (y : BitVec 1) (x : BitVec 1) (b : BitVec 5) (a : BitVec 5) (d : BitVec 5) : Statement (.and y x b a d) := ⟨by
  simp only [encodeNat, andWord]; omega, nofun⟩
theorem or (y : BitVec 1) (x : BitVec 1) (b : BitVec 5) (a : BitVec 5) (d : BitVec 5) : Statement (.or y x b a d) := ⟨by
  simp only [encodeNat, orWord]; omega, nofun⟩
theorem xor (y : BitVec 1) (x : BitVec 1) (b : BitVec 5) (a : BitVec 5) (d : BitVec 5) : Statement (.xor y x b a d) := ⟨by
  simp only [encodeNat, xorWord]; omega, nofun⟩
theorem sll (y : BitVec 1) (x : BitVec 1) (b : BitVec 5) (a : BitVec 5) (d : BitVec 5) : Statement (.sll y x b a d) := ⟨by
  simp only [encodeNat, sllWord]; omega, nofun⟩
theorem srl (y : BitVec 1) (x : BitVec 1) (b : BitVec 5) (a : BitVec 5) (d : BitVec 5) : Statement (.srl y x b a d) := ⟨by
  simp only [encodeNat, srlWord]; omega, nofun⟩
theorem sra (y : BitVec 1) (x : BitVec 1) (b : BitVec 5) (a : BitVec 5) (d : BitVec 5) : Statement (.sra y x b a d) := ⟨by
  simp only [encodeNat, sraWord]; omega, nofun⟩
theorem mul (y : BitVec 1) (x : BitVec 1) (b : BitVec 5) (a : BitVec 5) (d : BitVec 5) : Statement (.mul y x b a d) := ⟨by
  simp only [encodeNat, mulWord]; omega, nofun⟩
theorem mulh (y : BitVec 1) (x : BitVec 1) (b : BitVec 5) (a : BitVec 5) (d : BitVec 5) : Statement (.mulh y x b a d) := ⟨by
  simp only [encodeNat, mulhWord]; omega, nofun⟩
theorem mulhu (y : BitVec 1) (x : BitVec 1) (b : BitVec 5) (a : BitVec 5) (d : BitVec 5) : Statement (.mulhu y x b a d) := ⟨by
  simp only [encodeNat, mulhuWord]; omega, nofun⟩
theorem div (y : BitVec 1) (x : BitVec 1) (b : BitVec 5) (a : BitVec 5) (d : BitVec 5) : Statement (.div y x b a d) := ⟨by
  simp only [encodeNat, divWord]; omega, nofun⟩
theorem divu (y : BitVec 1) (x : BitVec 1) (b : BitVec 5) (a : BitVec 5) (d : BitVec 5) : Statement (.divu y x b a d) := ⟨by
  simp only [encodeNat, divuWord]; omega, nofun⟩
theorem rem (y : BitVec 1) (x : BitVec 1) (b : BitVec 5) (a : BitVec 5) (d : BitVec 5) : Statement (.rem y x b a d) := ⟨by
  simp only [encodeNat, remWord]; omega, nofun⟩
theorem remu (y : BitVec 1) (x : BitVec 1) (b : BitVec 5) (a : BitVec 5) (d : BitVec 5) : Statement (.remu y x b a d) := ⟨by
  simp only [encodeNat, remuWord]; omega, nofun⟩
theorem min (y : BitVec 1) (x : BitVec 1) (b : BitVec 5) (a : BitVec 5) (d : BitVec 5) : Statement (.min y x b a d) := ⟨by
  simp only [encodeNat, minWord]; omega, nofun⟩
theorem max (y : BitVec 1) (x : BitVec 1) (b : BitVec 5) (a : BitVec 5) (d : BitVec 5) : Statement (.max y x b a d) := ⟨by
  simp only [encodeNat, maxWord]; omega, nofun⟩
theorem minu (y : BitVec 1) (x : BitVec 1) (b : BitVec 5) (a : BitVec 5) (d : BitVec 5) : Statement (.minu y x b a d) := ⟨by
  simp only [encodeNat, minuWord]; omega, nofun⟩
theorem maxu (y : BitVec 1) (x : BitVec 1) (b : BitVec 5) (a : BitVec 5) (d : BitVec 5) : Statement (.maxu y x b a d) := ⟨by
  simp only [encodeNat, maxuWord]; omega, nofun⟩
theorem clz (x : BitVec 1) (a : BitVec 5) (d : BitVec 5) : Statement (.clz x a d) := ⟨by
  simp only [encodeNat, clzWord]; omega, nofun⟩
theorem ctz (x : BitVec 1) (a : BitVec 5) (d : BitVec 5) : Statement (.ctz x a d) := ⟨by
  simp only [encodeNat, ctzWord]; omega, nofun⟩
theorem pop (x : BitVec 1) (a : BitVec 5) (d : BitVec 5) : Statement (.pop x a d) := ⟨by
  simp only [encodeNat, popWord]; omega, nofun⟩
theorem rng (y : BitVec 1) (x : BitVec 1) (b : BitVec 5) (a : BitVec 5) (d : BitVec 5) : Statement (.rng y x b a d) := ⟨by
  simp only [encodeNat, rngWord]; omega, nofun⟩
theorem addi (i : BitVec 14) (x : BitVec 1) (a : BitVec 5) (d : BitVec 5) : Statement (.addi i x a d) := ⟨by
  simp only [encodeNat, addiWord]; omega, nofun⟩
theorem andi (i : BitVec 14) (x : BitVec 1) (a : BitVec 5) (d : BitVec 5) : Statement (.andi i x a d) := ⟨by
  simp only [encodeNat, andiWord]; omega, nofun⟩
theorem ori (i : BitVec 14) (x : BitVec 1) (a : BitVec 5) (d : BitVec 5) : Statement (.ori i x a d) := ⟨by
  simp only [encodeNat, oriWord]; omega, nofun⟩
theorem xori (i : BitVec 14) (x : BitVec 1) (a : BitVec 5) (d : BitVec 5) : Statement (.xori i x a d) := ⟨by
  simp only [encodeNat, xoriWord]; omega, nofun⟩
theorem slli (s : BitVec 6) (x : BitVec 1) (a : BitVec 5) (d : BitVec 5) : Statement (.slli s x a d) := ⟨by
  simp only [encodeNat, slliWord]; omega, nofun⟩
theorem srli (s : BitVec 6) (x : BitVec 1) (a : BitVec 5) (d : BitVec 5) : Statement (.srli s x a d) := ⟨by
  simp only [encodeNat, srliWord]; omega, nofun⟩
theorem srai (s : BitVec 6) (x : BitVec 1) (a : BitVec 5) (d : BitVec 5) : Statement (.srai s x a d) := ⟨by
  simp only [encodeNat, sraiWord]; omega, nofun⟩
theorem lui (i : BitVec 20) (d : BitVec 5) : Statement (.lui i d) := ⟨by
  simp only [encodeNat, luiWord]; omega, nofun⟩
theorem adr (i : BitVec 20) (d : BitVec 5) : Statement (.adr i d) := ⟨by
  simp only [encodeNat, adrWord]; omega, nofun⟩
theorem cmpEq (y : BitVec 1) (x : BitVec 1) (b : BitVec 5) (a : BitVec 5) (k : BitVec 3) : Statement (.cmpEq y x b a k) := ⟨by
  simp only [encodeNat, cmpEqWord]; omega, nofun⟩
theorem cmpNe (y : BitVec 1) (x : BitVec 1) (b : BitVec 5) (a : BitVec 5) (k : BitVec 3) : Statement (.cmpNe y x b a k) := ⟨by
  simp only [encodeNat, cmpNeWord]; omega, nofun⟩
theorem cmpLt (y : BitVec 1) (x : BitVec 1) (b : BitVec 5) (a : BitVec 5) (k : BitVec 3) : Statement (.cmpLt y x b a k) := ⟨by
  simp only [encodeNat, cmpLtWord]; omega, nofun⟩
theorem cmpLtu (y : BitVec 1) (x : BitVec 1) (b : BitVec 5) (a : BitVec 5) (k : BitVec 3) : Statement (.cmpLtu y x b a k) := ⟨by
  simp only [encodeNat, cmpLtuWord]; omega, nofun⟩
theorem feqD (y : BitVec 1) (x : BitVec 1) (b : BitVec 5) (a : BitVec 5) (k : BitVec 3) : Statement (.feqD y x b a k) := ⟨by
  simp only [encodeNat, feqDWord]; omega, nofun⟩
theorem fltD (y : BitVec 1) (x : BitVec 1) (b : BitVec 5) (a : BitVec 5) (k : BitVec 3) : Statement (.fltD y x b a k) := ⟨by
  simp only [encodeNat, fltDWord]; omega, nofun⟩
theorem fleD (y : BitVec 1) (x : BitVec 1) (b : BitVec 5) (a : BitVec 5) (k : BitVec 3) : Statement (.fleD y x b a k) := ⟨by
  simp only [encodeNat, fleDWord]; omega, nofun⟩
theorem funD (y : BitVec 1) (x : BitVec 1) (b : BitVec 5) (a : BitVec 5) (k : BitVec 3) : Statement (.funD y x b a k) := ⟨by
  simp only [encodeNat, funDWord]; omega, nofun⟩
theorem feqS (y : BitVec 1) (x : BitVec 1) (b : BitVec 5) (a : BitVec 5) (k : BitVec 3) : Statement (.feqS y x b a k) := ⟨by
  simp only [encodeNat, feqSWord]; omega, nofun⟩
theorem fltS (y : BitVec 1) (x : BitVec 1) (b : BitVec 5) (a : BitVec 5) (k : BitVec 3) : Statement (.fltS y x b a k) := ⟨by
  simp only [encodeNat, fltSWord]; omega, nofun⟩
theorem fleS (y : BitVec 1) (x : BitVec 1) (b : BitVec 5) (a : BitVec 5) (k : BitVec 3) : Statement (.fleS y x b a k) := ⟨by
  simp only [encodeNat, fleSWord]; omega, nofun⟩
theorem funS (y : BitVec 1) (x : BitVec 1) (b : BitVec 5) (a : BitVec 5) (k : BitVec 3) : Statement (.funS y x b a k) := ⟨by
  simp only [encodeNat, funSWord]; omega, nofun⟩
theorem cmpiEq (i : BitVec 14) (x : BitVec 1) (a : BitVec 5) (k : BitVec 3) : Statement (.cmpiEq i x a k) := ⟨by
  simp only [encodeNat, cmpiEqWord]; omega, nofun⟩
theorem cmpiNe (i : BitVec 14) (x : BitVec 1) (a : BitVec 5) (k : BitVec 3) : Statement (.cmpiNe i x a k) := ⟨by
  simp only [encodeNat, cmpiNeWord]; omega, nofun⟩
theorem cmpiLt (i : BitVec 14) (x : BitVec 1) (a : BitVec 5) (k : BitVec 3) : Statement (.cmpiLt i x a k) := ⟨by
  simp only [encodeNat, cmpiLtWord]; omega, nofun⟩
theorem cmpiLtu (i : BitVec 14) (x : BitVec 1) (a : BitVec 5) (k : BitVec 3) : Statement (.cmpiLtu i x a k) := ⟨by
  simp only [encodeNat, cmpiLtuWord]; omega, nofun⟩
theorem kand (y : BitVec 1) (x : BitVec 1) (b : BitVec 3) (a : BitVec 3) (d : BitVec 3) : Statement (.kand y x b a d) := ⟨by
  simp only [encodeNat, kandWord]; omega, nofun⟩
theorem kor (y : BitVec 1) (x : BitVec 1) (b : BitVec 3) (a : BitVec 3) (d : BitVec 3) : Statement (.kor y x b a d) := ⟨by
  simp only [encodeNat, korWord]; omega, nofun⟩
theorem kxor (y : BitVec 1) (x : BitVec 1) (b : BitVec 3) (a : BitVec 3) (d : BitVec 3) : Statement (.kxor y x b a d) := ⟨by
  simp only [encodeNat, kxorWord]; omega, nofun⟩
theorem kset (x : BitVec 1) (a : BitVec 5) (d : BitVec 3) : Statement (.kset x a d) := ⟨by
  simp only [encodeNat, ksetWord]; omega, nofun⟩
theorem kget (x : BitVec 1) (a : BitVec 3) (d : BitVec 5) : Statement (.kget x a d) := ⟨by
  simp only [encodeNat, kgetWord]; omega, nofun⟩
theorem faddD (y : BitVec 1) (x : BitVec 1) (b : BitVec 5) (a : BitVec 5) (d : BitVec 5) : Statement (.faddD y x b a d) := ⟨by
  simp only [encodeNat, faddDWord]; omega, nofun⟩
theorem fsubD (y : BitVec 1) (x : BitVec 1) (b : BitVec 5) (a : BitVec 5) (d : BitVec 5) : Statement (.fsubD y x b a d) := ⟨by
  simp only [encodeNat, fsubDWord]; omega, nofun⟩
theorem fmulD (y : BitVec 1) (x : BitVec 1) (b : BitVec 5) (a : BitVec 5) (d : BitVec 5) : Statement (.fmulD y x b a d) := ⟨by
  simp only [encodeNat, fmulDWord]; omega, nofun⟩
theorem fdivD (y : BitVec 1) (x : BitVec 1) (b : BitVec 5) (a : BitVec 5) (d : BitVec 5) : Statement (.fdivD y x b a d) := ⟨by
  simp only [encodeNat, fdivDWord]; omega, nofun⟩
theorem fsqrtD (x : BitVec 1) (a : BitVec 5) (d : BitVec 5) : Statement (.fsqrtD x a d) := ⟨by
  simp only [encodeNat, fsqrtDWord]; omega, nofun⟩
theorem fminD (y : BitVec 1) (x : BitVec 1) (b : BitVec 5) (a : BitVec 5) (d : BitVec 5) : Statement (.fminD y x b a d) := ⟨by
  simp only [encodeNat, fminDWord]; omega, nofun⟩
theorem fmaxD (y : BitVec 1) (x : BitVec 1) (b : BitVec 5) (a : BitVec 5) (d : BitVec 5) : Statement (.fmaxD y x b a d) := ⟨by
  simp only [encodeNat, fmaxDWord]; omega, nofun⟩
theorem faddS (y : BitVec 1) (x : BitVec 1) (b : BitVec 5) (a : BitVec 5) (d : BitVec 5) : Statement (.faddS y x b a d) := ⟨by
  simp only [encodeNat, faddSWord]; omega, nofun⟩
theorem fsubS (y : BitVec 1) (x : BitVec 1) (b : BitVec 5) (a : BitVec 5) (d : BitVec 5) : Statement (.fsubS y x b a d) := ⟨by
  simp only [encodeNat, fsubSWord]; omega, nofun⟩
theorem fmulS (y : BitVec 1) (x : BitVec 1) (b : BitVec 5) (a : BitVec 5) (d : BitVec 5) : Statement (.fmulS y x b a d) := ⟨by
  simp only [encodeNat, fmulSWord]; omega, nofun⟩
theorem fdivS (y : BitVec 1) (x : BitVec 1) (b : BitVec 5) (a : BitVec 5) (d : BitVec 5) : Statement (.fdivS y x b a d) := ⟨by
  simp only [encodeNat, fdivSWord]; omega, nofun⟩
theorem fsqrtS (x : BitVec 1) (a : BitVec 5) (d : BitVec 5) : Statement (.fsqrtS x a d) := ⟨by
  simp only [encodeNat, fsqrtSWord]; omega, nofun⟩
theorem fminS (y : BitVec 1) (x : BitVec 1) (b : BitVec 5) (a : BitVec 5) (d : BitVec 5) : Statement (.fminS y x b a d) := ⟨by
  simp only [encodeNat, fminSWord]; omega, nofun⟩
theorem fmaxS (y : BitVec 1) (x : BitVec 1) (b : BitVec 5) (a : BitVec 5) (d : BitVec 5) : Statement (.fmaxS y x b a d) := ⟨by
  simp only [encodeNat, fmaxSWord]; omega, nofun⟩
theorem cvtDL (x : BitVec 1) (a : BitVec 5) (d : BitVec 5) : Statement (.cvtDL x a d) := ⟨by
  simp only [encodeNat, cvtDLWord]; omega, nofun⟩
theorem cvtLD (x : BitVec 1) (a : BitVec 5) (d : BitVec 5) : Statement (.cvtLD x a d) := ⟨by
  simp only [encodeNat, cvtLDWord]; omega, nofun⟩
theorem cvtSL (x : BitVec 1) (a : BitVec 5) (d : BitVec 5) : Statement (.cvtSL x a d) := ⟨by
  simp only [encodeNat, cvtSLWord]; omega, nofun⟩
theorem cvtLS (x : BitVec 1) (a : BitVec 5) (d : BitVec 5) : Statement (.cvtLS x a d) := ⟨by
  simp only [encodeNat, cvtLSWord]; omega, nofun⟩
theorem cvtDS (x : BitVec 1) (a : BitVec 5) (d : BitVec 5) : Statement (.cvtDS x a d) := ⟨by
  simp only [encodeNat, cvtDSWord]; omega, nofun⟩
theorem cvtSD (x : BitVec 1) (a : BitVec 5) (d : BitVec 5) : Statement (.cvtSD x a d) := ⟨by
  simp only [encodeNat, cvtSDWord]; omega, nofun⟩
theorem fmaddD (c : BitVec 5) (b : BitVec 5) (a : BitVec 5) (d : BitVec 5) : Statement (.fmaddD c b a d) := ⟨by
  simp only [encodeNat, fmaddDWord]; omega, nofun⟩
theorem fmsubD (c : BitVec 5) (b : BitVec 5) (a : BitVec 5) (d : BitVec 5) : Statement (.fmsubD c b a d) := ⟨by
  simp only [encodeNat, fmsubDWord]; omega, nofun⟩
theorem fmaddS (c : BitVec 5) (b : BitVec 5) (a : BitVec 5) (d : BitVec 5) : Statement (.fmaddS c b a d) := ⟨by
  simp only [encodeNat, fmaddSWord]; omega, nofun⟩
theorem fmsubS (c : BitVec 5) (b : BitVec 5) (a : BitVec 5) (d : BitVec 5) : Statement (.fmsubS c b a d) := ⟨by
  simp only [encodeNat, fmsubSWord]; omega, nofun⟩
theorem bK (o : BitVec 20) (p : BitVec 1) (k : BitVec 3) : Statement (.bK o p k) := ⟨by
  simp only [encodeNat, bKWord]; omega, nofun⟩
theorem bNk (o : BitVec 20) (p : BitVec 1) (k : BitVec 3) : Statement (.bNk o p k) := ⟨by
  simp only [encodeNat, bNkWord]; omega, nofun⟩
theorem branchConfirm (h : Nat) : Statement (.branchConfirm h) := ⟨by simp [encodeNat], fun _ => rfl⟩
theorem jal (i : BitVec 20) (d : BitVec 5) : Statement (.jal i d) := ⟨by
  simp only [encodeNat, jalWord]; omega, nofun⟩
theorem jalr (i : BitVec 14) (x : BitVec 1) (a : BitVec 5) (d : BitVec 5) : Statement (.jalr i x a d) := ⟨by
  simp only [encodeNat, jalrWord]; omega, nofun⟩
theorem ldB (i : BitVec 10) (s : BitVec 2) (x : BitVec 1) (a : BitVec 5) (d : BitVec 5) : Statement (.ldB i s x a d) := ⟨by
  simp only [encodeNat, ldBWord]; omega, nofun⟩
theorem ldBu (i : BitVec 10) (s : BitVec 2) (x : BitVec 1) (a : BitVec 5) (d : BitVec 5) : Statement (.ldBu i s x a d) := ⟨by
  simp only [encodeNat, ldBuWord]; omega, nofun⟩
theorem ldH (i : BitVec 10) (s : BitVec 2) (x : BitVec 1) (a : BitVec 5) (d : BitVec 5) : Statement (.ldH i s x a d) := ⟨by
  simp only [encodeNat, ldHWord]; omega, nofun⟩
theorem ldHu (i : BitVec 10) (s : BitVec 2) (x : BitVec 1) (a : BitVec 5) (d : BitVec 5) : Statement (.ldHu i s x a d) := ⟨by
  simp only [encodeNat, ldHuWord]; omega, nofun⟩
theorem ldW (i : BitVec 10) (s : BitVec 2) (x : BitVec 1) (a : BitVec 5) (d : BitVec 5) : Statement (.ldW i s x a d) := ⟨by
  simp only [encodeNat, ldWWord]; omega, nofun⟩
theorem ldWu (i : BitVec 10) (s : BitVec 2) (x : BitVec 1) (a : BitVec 5) (d : BitVec 5) : Statement (.ldWu i s x a d) := ⟨by
  simp only [encodeNat, ldWuWord]; omega, nofun⟩
theorem ldD (i : BitVec 10) (s : BitVec 2) (x : BitVec 1) (a : BitVec 5) (d : BitVec 5) : Statement (.ldD i s x a d) := ⟨by
  simp only [encodeNat, ldDWord]; omega, nofun⟩
theorem loadDataReturn (h : Nat) (n : Nat) : Statement (.loadDataReturn h n) := ⟨by simp [encodeNat], fun _ => rfl⟩
theorem stB (i : BitVec 10) (s : BitVec 2) (x : BitVec 1) (a : BitVec 5) (d : BitVec 5) : Statement (.stB i s x a d) := ⟨by
  simp only [encodeNat, stBWord]; omega, nofun⟩
theorem stH (i : BitVec 10) (s : BitVec 2) (x : BitVec 1) (a : BitVec 5) (d : BitVec 5) : Statement (.stH i s x a d) := ⟨by
  simp only [encodeNat, stHWord]; omega, nofun⟩
theorem stW (i : BitVec 10) (s : BitVec 2) (x : BitVec 1) (a : BitVec 5) (d : BitVec 5) : Statement (.stW i s x a d) := ⟨by
  simp only [encodeNat, stWWord]; omega, nofun⟩
theorem stD (i : BitVec 10) (s : BitVec 2) (x : BitVec 1) (a : BitVec 5) (d : BitVec 5) : Statement (.stD i s x a d) := ⟨by
  simp only [encodeNat, stDWord]; omega, nofun⟩
theorem amoAddW (c : BitVec 3) (y : BitVec 1) (x : BitVec 1) (b : BitVec 5) (a : BitVec 5) (d : BitVec 5) : Statement (.amoAddW c y x b a d) := ⟨by
  simp only [encodeNat, amoAddWWord]; omega, nofun⟩
theorem amoAddD (c : BitVec 3) (y : BitVec 1) (x : BitVec 1) (b : BitVec 5) (a : BitVec 5) (d : BitVec 5) : Statement (.amoAddD c y x b a d) := ⟨by
  simp only [encodeNat, amoAddDWord]; omega, nofun⟩
theorem amoMinD (c : BitVec 3) (y : BitVec 1) (x : BitVec 1) (b : BitVec 5) (a : BitVec 5) (d : BitVec 5) : Statement (.amoMinD c y x b a d) := ⟨by
  simp only [encodeNat, amoMinDWord]; omega, nofun⟩
theorem amoMaxD (c : BitVec 3) (y : BitVec 1) (x : BitVec 1) (b : BitVec 5) (a : BitVec 5) (d : BitVec 5) : Statement (.amoMaxD c y x b a d) := ⟨by
  simp only [encodeNat, amoMaxDWord]; omega, nofun⟩
theorem amoMinuD (c : BitVec 3) (y : BitVec 1) (x : BitVec 1) (b : BitVec 5) (a : BitVec 5) (d : BitVec 5) : Statement (.amoMinuD c y x b a d) := ⟨by
  simp only [encodeNat, amoMinuDWord]; omega, nofun⟩
theorem amoMaxuD (c : BitVec 3) (y : BitVec 1) (x : BitVec 1) (b : BitVec 5) (a : BitVec 5) (d : BitVec 5) : Statement (.amoMaxuD c y x b a d) := ⟨by
  simp only [encodeNat, amoMaxuDWord]; omega, nofun⟩
theorem amoSwapD (c : BitVec 3) (y : BitVec 1) (x : BitVec 1) (b : BitVec 5) (a : BitVec 5) (d : BitVec 5) : Statement (.amoSwapD c y x b a d) := ⟨by
  simp only [encodeNat, amoSwapDWord]; omega, nofun⟩
theorem amoCasD (c : BitVec 3) (y : BitVec 1) (x : BitVec 1) (b : BitVec 5) (a : BitVec 5) (d : BitVec 5) : Statement (.amoCasD c y x b a d) := ⟨by
  simp only [encodeNat, amoCasDWord]; omega, nofun⟩
theorem amoFaddS (c : BitVec 3) (y : BitVec 1) (x : BitVec 1) (b : BitVec 5) (a : BitVec 5) (d : BitVec 5) : Statement (.amoFaddS c y x b a d) := ⟨by
  simp only [encodeNat, amoFaddSWord]; omega, nofun⟩
theorem amoFaddD (c : BitVec 3) (y : BitVec 1) (x : BitVec 1) (b : BitVec 5) (a : BitVec 5) (d : BitVec 5) : Statement (.amoFaddD c y x b a d) := ⟨by
  simp only [encodeNat, amoFaddDWord]; omega, nofun⟩
theorem amoReturn (h : Nat) (n : Nat) : Statement (.amoReturn h n) := ⟨by simp [encodeNat], fun _ => rfl⟩
theorem sbar (c : BitVec 3) (m : BitVec 16) : Statement (.sbar c m) := ⟨by
  simp only [encodeNat, sbarWord]; omega, nofun⟩
theorem fence (c : BitVec 3) : Statement (.fence c) := ⟨by
  simp only [encodeNat, fenceWord]; omega, nofun⟩
theorem gsync (c : BitVec 3) (g : BitVec 8) : Statement (.gsync c g) := ⟨by
  simp only [encodeNat, gsyncWord]; omega, nofun⟩
theorem garrive (c : BitVec 3) (g : BitVec 8) : Statement (.garrive c g) := ⟨by
  simp only [encodeNat, garriveWord]; omega, nofun⟩
theorem gwait (c : BitVec 3) (g : BitVec 8) : Statement (.gwait c g) := ⟨by
  simp only [encodeNat, gwaitWord]; omega, nofun⟩
theorem groupArrivalSend (h : Nat) (m : Nat) : Statement (.groupArrivalSend h m) := ⟨by simp [encodeNat], fun _ => rfl⟩
theorem crd (n : BitVec 12) (d : BitVec 5) : Statement (.crd n d) := ⟨by
  simp only [encodeNat, crdWord]; omega, nofun⟩
theorem cwr (n : BitVec 12) (x : BitVec 1) (a : BitVec 5) (d : BitVec 5) : Statement (.cwr n x a d) := ⟨by
  simp only [encodeNat, cwrWord]; omega, nofun⟩
theorem trap (c : BitVec 20) : Statement (.trap c) := ⟨by
  simp only [encodeNat, trapWord]; omega, nofun⟩
theorem tret : Statement .tret := ⟨by decide, nofun⟩
theorem halt : Statement .halt := ⟨by decide, nofun⟩
theorem idle : Statement .idle := ⟨by decide, nofun⟩
theorem brk : Statement .brk := ⟨by decide, nofun⟩
theorem yield : Statement .yield := ⟨by decide, nofun⟩
theorem idleWake (h : Nat) : Statement (.idleWake h) := ⟨by simp [encodeNat], fun _ => rfl⟩
theorem hartRetire (h : Nat) : Statement (.hartRetire h) := ⟨by simp [encodeNat], fun _ => rfl⟩
theorem l1inv (x : BitVec 1) (a : BitVec 5) : Statement (.l1inv x a) := ⟨by
  simp only [encodeNat, l1invWord]; omega, nofun⟩
theorem l2wb (x : BitVec 1) (a : BitVec 5) : Statement (.l2wb x a) := ⟨by
  simp only [encodeNat, l2wbWord]; omega, nofun⟩
theorem tlbinv (x : BitVec 1) (a : BitVec 5) : Statement (.tlbinv x a) := ⟨by
  simp only [encodeNat, tlbinvWord]; omega, nofun⟩
theorem tlbsync : Statement .tlbsync := ⟨by decide, nofun⟩
theorem setlen (y : BitVec 1) (x : BitVec 1) (b : BitVec 5) (a : BitVec 5) (d : BitVec 5) : Statement (.setlen y x b a d) := ⟨by
  simp only [encodeNat, setlenWord]; omega, nofun⟩
theorem setrows (x : BitVec 1) (a : BitVec 5) (d : BitVec 5) : Statement (.setrows x a d) := ⟨by
  simp only [encodeNat, setrowsWord]; omega, nofun⟩
theorem setfmt (x : BitVec 1) (a : BitVec 5) (d : BitVec 5) : Statement (.setfmt x a d) := ⟨by
  simp only [encodeNat, setfmtWord]; omega, nofun⟩
theorem vdrain : Statement .vdrain := ⟨by decide, nofun⟩
theorem vstat (d : BitVec 5) : Statement (.vstat d) := ⟨by
  simp only [encodeNat, vstatWord]; omega, nofun⟩
theorem hwpub (y : BitVec 1) (x : BitVec 1) (b : BitVec 5) (a : BitVec 5) : Statement (.hwpub y x b a) := ⟨by
  simp only [encodeNat, hwpubWord]; omega, nofun⟩
theorem setfmti (i : BitVec 13) (d : BitVec 5) : Statement (.setfmti i d) := ⟨by
  simp only [encodeNat, setfmtiWord]; omega, nofun⟩
theorem vblk (i : BitVec 20) : Statement (.vblk i) := ⟨by
  simp only [encodeNat, vblkWord]; omega, nofun⟩
theorem blockInstanceBegin (h : Nat) : Statement (.blockInstanceBegin h) := ⟨by simp [encodeNat], fun _ => rfl⟩
theorem vbind (x : BitVec 1) (k : BitVec 3) (a : BitVec 5) (d : BitVec 5) : Statement (.vbind x k a d) := ⟨by
  simp only [encodeNat, vbindWord]; omega, nofun⟩
theorem vunbind (d : BitVec 5) : Statement (.vunbind d) := ⟨by
  simp only [encodeNat, vunbindWord]; omega, nofun⟩
theorem qpat (x : BitVec 1) (a : BitVec 5) (q : BitVec 4) : Statement (.qpat x a q) := ⟨by
  simp only [encodeNat, qpatWord]; omega, nofun⟩
theorem qstat (q : BitVec 4) (d : BitVec 5) : Statement (.qstat q d) := ⟨by
  simp only [encodeNat, qstatWord]; omega, nofun⟩
theorem streamChunkArrive (h : Nat) (q : Nat) : Statement (.streamChunkArrive h q) := ⟨by simp [encodeNat], fun _ => rfl⟩
theorem vintAdd (y : BitVec 1) (x : BitVec 1) (m : BitVec 3) (b : BitVec 5) (a : BitVec 5) (d : BitVec 5) : Statement (.vintAdd y x m b a d) := ⟨by
  simp only [encodeNat, vintAddWord]; omega, nofun⟩
theorem vintSub (y : BitVec 1) (x : BitVec 1) (m : BitVec 3) (b : BitVec 5) (a : BitVec 5) (d : BitVec 5) : Statement (.vintSub y x m b a d) := ⟨by
  simp only [encodeNat, vintSubWord]; omega, nofun⟩
theorem vintMul (y : BitVec 1) (x : BitVec 1) (m : BitVec 3) (b : BitVec 5) (a : BitVec 5) (d : BitVec 5) : Statement (.vintMul y x m b a d) := ⟨by
  simp only [encodeNat, vintMulWord]; omega, nofun⟩
theorem vintMulh (y : BitVec 1) (x : BitVec 1) (m : BitVec 3) (b : BitVec 5) (a : BitVec 5) (d : BitVec 5) : Statement (.vintMulh y x m b a d) := ⟨by
  simp only [encodeNat, vintMulhWord]; omega, nofun⟩
theorem vintMulhu (y : BitVec 1) (x : BitVec 1) (m : BitVec 3) (b : BitVec 5) (a : BitVec 5) (d : BitVec 5) : Statement (.vintMulhu y x m b a d) := ⟨by
  simp only [encodeNat, vintMulhuWord]; omega, nofun⟩
theorem vintMin (y : BitVec 1) (x : BitVec 1) (m : BitVec 3) (b : BitVec 5) (a : BitVec 5) (d : BitVec 5) : Statement (.vintMin y x m b a d) := ⟨by
  simp only [encodeNat, vintMinWord]; omega, nofun⟩
theorem vintMax (y : BitVec 1) (x : BitVec 1) (m : BitVec 3) (b : BitVec 5) (a : BitVec 5) (d : BitVec 5) : Statement (.vintMax y x m b a d) := ⟨by
  simp only [encodeNat, vintMaxWord]; omega, nofun⟩
theorem vintMinu (y : BitVec 1) (x : BitVec 1) (m : BitVec 3) (b : BitVec 5) (a : BitVec 5) (d : BitVec 5) : Statement (.vintMinu y x m b a d) := ⟨by
  simp only [encodeNat, vintMinuWord]; omega, nofun⟩
theorem vintMaxu (y : BitVec 1) (x : BitVec 1) (m : BitVec 3) (b : BitVec 5) (a : BitVec 5) (d : BitVec 5) : Statement (.vintMaxu y x m b a d) := ⟨by
  simp only [encodeNat, vintMaxuWord]; omega, nofun⟩
theorem vintAnd (y : BitVec 1) (x : BitVec 1) (m : BitVec 3) (b : BitVec 5) (a : BitVec 5) (d : BitVec 5) : Statement (.vintAnd y x m b a d) := ⟨by
  simp only [encodeNat, vintAndWord]; omega, nofun⟩
theorem vintOr (y : BitVec 1) (x : BitVec 1) (m : BitVec 3) (b : BitVec 5) (a : BitVec 5) (d : BitVec 5) : Statement (.vintOr y x m b a d) := ⟨by
  simp only [encodeNat, vintOrWord]; omega, nofun⟩
theorem vintXor (y : BitVec 1) (x : BitVec 1) (m : BitVec 3) (b : BitVec 5) (a : BitVec 5) (d : BitVec 5) : Statement (.vintXor y x m b a d) := ⟨by
  simp only [encodeNat, vintXorWord]; omega, nofun⟩
theorem vintSll (y : BitVec 1) (x : BitVec 1) (m : BitVec 3) (b : BitVec 5) (a : BitVec 5) (d : BitVec 5) : Statement (.vintSll y x m b a d) := ⟨by
  simp only [encodeNat, vintSllWord]; omega, nofun⟩
theorem vintSrl (y : BitVec 1) (x : BitVec 1) (m : BitVec 3) (b : BitVec 5) (a : BitVec 5) (d : BitVec 5) : Statement (.vintSrl y x m b a d) := ⟨by
  simp only [encodeNat, vintSrlWord]; omega, nofun⟩
theorem vintSra (y : BitVec 1) (x : BitVec 1) (m : BitVec 3) (b : BitVec 5) (a : BitVec 5) (d : BitVec 5) : Statement (.vintSra y x m b a d) := ⟨by
  simp only [encodeNat, vintSraWord]; omega, nofun⟩
theorem vintAdds (y : BitVec 1) (x : BitVec 1) (m : BitVec 3) (b : BitVec 5) (a : BitVec 5) (d : BitVec 5) : Statement (.vintAdds y x m b a d) := ⟨by
  simp only [encodeNat, vintAddsWord]; omega, nofun⟩
theorem vintSubs (y : BitVec 1) (x : BitVec 1) (m : BitVec 3) (b : BitVec 5) (a : BitVec 5) (d : BitVec 5) : Statement (.vintSubs y x m b a d) := ⟨by
  simp only [encodeNat, vintSubsWord]; omega, nofun⟩
theorem vintAddsu (y : BitVec 1) (x : BitVec 1) (m : BitVec 3) (b : BitVec 5) (a : BitVec 5) (d : BitVec 5) : Statement (.vintAddsu y x m b a d) := ⟨by
  simp only [encodeNat, vintAddsuWord]; omega, nofun⟩
theorem vintSubsu (y : BitVec 1) (x : BitVec 1) (m : BitVec 3) (b : BitVec 5) (a : BitVec 5) (d : BitVec 5) : Statement (.vintSubsu y x m b a d) := ⟨by
  simp only [encodeNat, vintSubsuWord]; omega, nofun⟩
theorem vintMov (y : BitVec 1) (m : BitVec 3) (b : BitVec 5) (d : BitVec 5) : Statement (.vintMov y m b d) := ⟨by
  simp only [encodeNat, vintMovWord]; omega, nofun⟩
theorem vintGAdd (y : BitVec 1) (x : BitVec 1) (m : BitVec 3) (b : BitVec 3) (a : BitVec 5) (d : BitVec 5) : Statement (.vintGAdd y x m b a d) := ⟨by
  simp only [encodeNat, vintGAddWord]; omega, nofun⟩
theorem vintGSub (y : BitVec 1) (x : BitVec 1) (m : BitVec 3) (b : BitVec 3) (a : BitVec 5) (d : BitVec 5) : Statement (.vintGSub y x m b a d) := ⟨by
  simp only [encodeNat, vintGSubWord]; omega, nofun⟩
theorem vintGMul (y : BitVec 1) (x : BitVec 1) (m : BitVec 3) (b : BitVec 3) (a : BitVec 5) (d : BitVec 5) : Statement (.vintGMul y x m b a d) := ⟨by
  simp only [encodeNat, vintGMulWord]; omega, nofun⟩
theorem vintGMulh (y : BitVec 1) (x : BitVec 1) (m : BitVec 3) (b : BitVec 3) (a : BitVec 5) (d : BitVec 5) : Statement (.vintGMulh y x m b a d) := ⟨by
  simp only [encodeNat, vintGMulhWord]; omega, nofun⟩
theorem vintGMulhu (y : BitVec 1) (x : BitVec 1) (m : BitVec 3) (b : BitVec 3) (a : BitVec 5) (d : BitVec 5) : Statement (.vintGMulhu y x m b a d) := ⟨by
  simp only [encodeNat, vintGMulhuWord]; omega, nofun⟩
theorem vintGMin (y : BitVec 1) (x : BitVec 1) (m : BitVec 3) (b : BitVec 3) (a : BitVec 5) (d : BitVec 5) : Statement (.vintGMin y x m b a d) := ⟨by
  simp only [encodeNat, vintGMinWord]; omega, nofun⟩
theorem vintGMax (y : BitVec 1) (x : BitVec 1) (m : BitVec 3) (b : BitVec 3) (a : BitVec 5) (d : BitVec 5) : Statement (.vintGMax y x m b a d) := ⟨by
  simp only [encodeNat, vintGMaxWord]; omega, nofun⟩
theorem vintGMinu (y : BitVec 1) (x : BitVec 1) (m : BitVec 3) (b : BitVec 3) (a : BitVec 5) (d : BitVec 5) : Statement (.vintGMinu y x m b a d) := ⟨by
  simp only [encodeNat, vintGMinuWord]; omega, nofun⟩
theorem vintGMaxu (y : BitVec 1) (x : BitVec 1) (m : BitVec 3) (b : BitVec 3) (a : BitVec 5) (d : BitVec 5) : Statement (.vintGMaxu y x m b a d) := ⟨by
  simp only [encodeNat, vintGMaxuWord]; omega, nofun⟩
theorem vintGAnd (y : BitVec 1) (x : BitVec 1) (m : BitVec 3) (b : BitVec 3) (a : BitVec 5) (d : BitVec 5) : Statement (.vintGAnd y x m b a d) := ⟨by
  simp only [encodeNat, vintGAndWord]; omega, nofun⟩
theorem vintGOr (y : BitVec 1) (x : BitVec 1) (m : BitVec 3) (b : BitVec 3) (a : BitVec 5) (d : BitVec 5) : Statement (.vintGOr y x m b a d) := ⟨by
  simp only [encodeNat, vintGOrWord]; omega, nofun⟩
theorem vintGXor (y : BitVec 1) (x : BitVec 1) (m : BitVec 3) (b : BitVec 3) (a : BitVec 5) (d : BitVec 5) : Statement (.vintGXor y x m b a d) := ⟨by
  simp only [encodeNat, vintGXorWord]; omega, nofun⟩
theorem vintGSll (y : BitVec 1) (x : BitVec 1) (m : BitVec 3) (b : BitVec 3) (a : BitVec 5) (d : BitVec 5) : Statement (.vintGSll y x m b a d) := ⟨by
  simp only [encodeNat, vintGSllWord]; omega, nofun⟩
theorem vintGSrl (y : BitVec 1) (x : BitVec 1) (m : BitVec 3) (b : BitVec 3) (a : BitVec 5) (d : BitVec 5) : Statement (.vintGSrl y x m b a d) := ⟨by
  simp only [encodeNat, vintGSrlWord]; omega, nofun⟩
theorem vintGSra (y : BitVec 1) (x : BitVec 1) (m : BitVec 3) (b : BitVec 3) (a : BitVec 5) (d : BitVec 5) : Statement (.vintGSra y x m b a d) := ⟨by
  simp only [encodeNat, vintGSraWord]; omega, nofun⟩
theorem vintGAdds (y : BitVec 1) (x : BitVec 1) (m : BitVec 3) (b : BitVec 3) (a : BitVec 5) (d : BitVec 5) : Statement (.vintGAdds y x m b a d) := ⟨by
  simp only [encodeNat, vintGAddsWord]; omega, nofun⟩
theorem vintGSubs (y : BitVec 1) (x : BitVec 1) (m : BitVec 3) (b : BitVec 3) (a : BitVec 5) (d : BitVec 5) : Statement (.vintGSubs y x m b a d) := ⟨by
  simp only [encodeNat, vintGSubsWord]; omega, nofun⟩
theorem vintGAddsu (y : BitVec 1) (x : BitVec 1) (m : BitVec 3) (b : BitVec 3) (a : BitVec 5) (d : BitVec 5) : Statement (.vintGAddsu y x m b a d) := ⟨by
  simp only [encodeNat, vintGAddsuWord]; omega, nofun⟩
theorem vintGSubsu (y : BitVec 1) (x : BitVec 1) (m : BitVec 3) (b : BitVec 3) (a : BitVec 5) (d : BitVec 5) : Statement (.vintGSubsu y x m b a d) := ⟨by
  simp only [encodeNat, vintGSubsuWord]; omega, nofun⟩
theorem vintGMov (y : BitVec 1) (m : BitVec 3) (b : BitVec 3) (d : BitVec 5) : Statement (.vintGMov y m b d) := ⟨by
  simp only [encodeNat, vintGMovWord]; omega, nofun⟩
theorem vintIAdd (y : BitVec 1) (x : BitVec 1) (m : BitVec 3) (i : BitVec 5) (a : BitVec 5) (d : BitVec 5) : Statement (.vintIAdd y x m i a d) := ⟨by
  simp only [encodeNat, vintIAddWord]; omega, nofun⟩
theorem vintISub (y : BitVec 1) (x : BitVec 1) (m : BitVec 3) (i : BitVec 5) (a : BitVec 5) (d : BitVec 5) : Statement (.vintISub y x m i a d) := ⟨by
  simp only [encodeNat, vintISubWord]; omega, nofun⟩
theorem vintIMul (y : BitVec 1) (x : BitVec 1) (m : BitVec 3) (i : BitVec 5) (a : BitVec 5) (d : BitVec 5) : Statement (.vintIMul y x m i a d) := ⟨by
  simp only [encodeNat, vintIMulWord]; omega, nofun⟩
theorem vintIMulh (y : BitVec 1) (x : BitVec 1) (m : BitVec 3) (i : BitVec 5) (a : BitVec 5) (d : BitVec 5) : Statement (.vintIMulh y x m i a d) := ⟨by
  simp only [encodeNat, vintIMulhWord]; omega, nofun⟩
theorem vintIMulhu (y : BitVec 1) (x : BitVec 1) (m : BitVec 3) (i : BitVec 5) (a : BitVec 5) (d : BitVec 5) : Statement (.vintIMulhu y x m i a d) := ⟨by
  simp only [encodeNat, vintIMulhuWord]; omega, nofun⟩
theorem vintIMin (y : BitVec 1) (x : BitVec 1) (m : BitVec 3) (i : BitVec 5) (a : BitVec 5) (d : BitVec 5) : Statement (.vintIMin y x m i a d) := ⟨by
  simp only [encodeNat, vintIMinWord]; omega, nofun⟩
theorem vintIMax (y : BitVec 1) (x : BitVec 1) (m : BitVec 3) (i : BitVec 5) (a : BitVec 5) (d : BitVec 5) : Statement (.vintIMax y x m i a d) := ⟨by
  simp only [encodeNat, vintIMaxWord]; omega, nofun⟩
theorem vintIMinu (y : BitVec 1) (x : BitVec 1) (m : BitVec 3) (i : BitVec 5) (a : BitVec 5) (d : BitVec 5) : Statement (.vintIMinu y x m i a d) := ⟨by
  simp only [encodeNat, vintIMinuWord]; omega, nofun⟩
theorem vintIMaxu (y : BitVec 1) (x : BitVec 1) (m : BitVec 3) (i : BitVec 5) (a : BitVec 5) (d : BitVec 5) : Statement (.vintIMaxu y x m i a d) := ⟨by
  simp only [encodeNat, vintIMaxuWord]; omega, nofun⟩
theorem vintIAnd (y : BitVec 1) (x : BitVec 1) (m : BitVec 3) (i : BitVec 5) (a : BitVec 5) (d : BitVec 5) : Statement (.vintIAnd y x m i a d) := ⟨by
  simp only [encodeNat, vintIAndWord]; omega, nofun⟩
theorem vintIOr (y : BitVec 1) (x : BitVec 1) (m : BitVec 3) (i : BitVec 5) (a : BitVec 5) (d : BitVec 5) : Statement (.vintIOr y x m i a d) := ⟨by
  simp only [encodeNat, vintIOrWord]; omega, nofun⟩
theorem vintIXor (y : BitVec 1) (x : BitVec 1) (m : BitVec 3) (i : BitVec 5) (a : BitVec 5) (d : BitVec 5) : Statement (.vintIXor y x m i a d) := ⟨by
  simp only [encodeNat, vintIXorWord]; omega, nofun⟩
theorem vintISll (y : BitVec 1) (x : BitVec 1) (m : BitVec 3) (i : BitVec 5) (a : BitVec 5) (d : BitVec 5) : Statement (.vintISll y x m i a d) := ⟨by
  simp only [encodeNat, vintISllWord]; omega, nofun⟩
theorem vintISrl (y : BitVec 1) (x : BitVec 1) (m : BitVec 3) (i : BitVec 5) (a : BitVec 5) (d : BitVec 5) : Statement (.vintISrl y x m i a d) := ⟨by
  simp only [encodeNat, vintISrlWord]; omega, nofun⟩
theorem vintISra (y : BitVec 1) (x : BitVec 1) (m : BitVec 3) (i : BitVec 5) (a : BitVec 5) (d : BitVec 5) : Statement (.vintISra y x m i a d) := ⟨by
  simp only [encodeNat, vintISraWord]; omega, nofun⟩
theorem vintIAdds (y : BitVec 1) (x : BitVec 1) (m : BitVec 3) (i : BitVec 5) (a : BitVec 5) (d : BitVec 5) : Statement (.vintIAdds y x m i a d) := ⟨by
  simp only [encodeNat, vintIAddsWord]; omega, nofun⟩
theorem vintISubs (y : BitVec 1) (x : BitVec 1) (m : BitVec 3) (i : BitVec 5) (a : BitVec 5) (d : BitVec 5) : Statement (.vintISubs y x m i a d) := ⟨by
  simp only [encodeNat, vintISubsWord]; omega, nofun⟩
theorem vintIAddsu (y : BitVec 1) (x : BitVec 1) (m : BitVec 3) (i : BitVec 5) (a : BitVec 5) (d : BitVec 5) : Statement (.vintIAddsu y x m i a d) := ⟨by
  simp only [encodeNat, vintIAddsuWord]; omega, nofun⟩
theorem vintISubsu (y : BitVec 1) (x : BitVec 1) (m : BitVec 3) (i : BitVec 5) (a : BitVec 5) (d : BitVec 5) : Statement (.vintISubsu y x m i a d) := ⟨by
  simp only [encodeNat, vintISubsuWord]; omega, nofun⟩
theorem vintIMov (y : BitVec 1) (m : BitVec 3) (i : BitVec 5) (d : BitVec 5) : Statement (.vintIMov y m i d) := ⟨by
  simp only [encodeNat, vintIMovWord]; omega, nofun⟩
theorem vfpFadd (y : BitVec 1) (x : BitVec 1) (m : BitVec 3) (b : BitVec 5) (a : BitVec 5) (d : BitVec 5) : Statement (.vfpFadd y x m b a d) := ⟨by
  simp only [encodeNat, vfpFaddWord]; omega, nofun⟩
theorem vfpFsub (y : BitVec 1) (x : BitVec 1) (m : BitVec 3) (b : BitVec 5) (a : BitVec 5) (d : BitVec 5) : Statement (.vfpFsub y x m b a d) := ⟨by
  simp only [encodeNat, vfpFsubWord]; omega, nofun⟩
theorem vfpFmul (y : BitVec 1) (x : BitVec 1) (m : BitVec 3) (b : BitVec 5) (a : BitVec 5) (d : BitVec 5) : Statement (.vfpFmul y x m b a d) := ⟨by
  simp only [encodeNat, vfpFmulWord]; omega, nofun⟩
theorem vfpFdiv (y : BitVec 1) (x : BitVec 1) (m : BitVec 3) (b : BitVec 5) (a : BitVec 5) (d : BitVec 5) : Statement (.vfpFdiv y x m b a d) := ⟨by
  simp only [encodeNat, vfpFdivWord]; omega, nofun⟩
theorem vfpFsqrt (x : BitVec 1) (m : BitVec 3) (a : BitVec 5) (d : BitVec 5) : Statement (.vfpFsqrt x m a d) := ⟨by
  simp only [encodeNat, vfpFsqrtWord]; omega, nofun⟩
theorem vfpFmin (y : BitVec 1) (x : BitVec 1) (m : BitVec 3) (b : BitVec 5) (a : BitVec 5) (d : BitVec 5) : Statement (.vfpFmin y x m b a d) := ⟨by
  simp only [encodeNat, vfpFminWord]; omega, nofun⟩
theorem vfpFmax (y : BitVec 1) (x : BitVec 1) (m : BitVec 3) (b : BitVec 5) (a : BitVec 5) (d : BitVec 5) : Statement (.vfpFmax y x m b a d) := ⟨by
  simp only [encodeNat, vfpFmaxWord]; omega, nofun⟩
theorem vfpFabs (x : BitVec 1) (m : BitVec 3) (a : BitVec 5) (d : BitVec 5) : Statement (.vfpFabs x m a d) := ⟨by
  simp only [encodeNat, vfpFabsWord]; omega, nofun⟩
theorem vfpFneg (x : BitVec 1) (m : BitVec 3) (a : BitVec 5) (d : BitVec 5) : Statement (.vfpFneg x m a d) := ⟨by
  simp only [encodeNat, vfpFnegWord]; omega, nofun⟩
theorem vfpFsgn (y : BitVec 1) (x : BitVec 1) (m : BitVec 3) (b : BitVec 5) (a : BitVec 5) (d : BitVec 5) : Statement (.vfpFsgn y x m b a d) := ⟨by
  simp only [encodeNat, vfpFsgnWord]; omega, nofun⟩
theorem vfpFrcp (x : BitVec 1) (m : BitVec 3) (a : BitVec 5) (d : BitVec 5) : Statement (.vfpFrcp x m a d) := ⟨by
  simp only [encodeNat, vfpFrcpWord]; omega, nofun⟩
theorem vfpFrsq (x : BitVec 1) (m : BitVec 3) (a : BitVec 5) (d : BitVec 5) : Statement (.vfpFrsq x m a d) := ⟨by
  simp only [encodeNat, vfpFrsqWord]; omega, nofun⟩
theorem vfpFexp2 (x : BitVec 1) (m : BitVec 3) (a : BitVec 5) (d : BitVec 5) : Statement (.vfpFexp2 x m a d) := ⟨by
  simp only [encodeNat, vfpFexp2Word]; omega, nofun⟩
theorem vfpGFadd (y : BitVec 1) (x : BitVec 1) (m : BitVec 3) (b : BitVec 3) (a : BitVec 5) (d : BitVec 5) : Statement (.vfpGFadd y x m b a d) := ⟨by
  simp only [encodeNat, vfpGFaddWord]; omega, nofun⟩
theorem vfpGFsub (y : BitVec 1) (x : BitVec 1) (m : BitVec 3) (b : BitVec 3) (a : BitVec 5) (d : BitVec 5) : Statement (.vfpGFsub y x m b a d) := ⟨by
  simp only [encodeNat, vfpGFsubWord]; omega, nofun⟩
theorem vfpGFmul (y : BitVec 1) (x : BitVec 1) (m : BitVec 3) (b : BitVec 3) (a : BitVec 5) (d : BitVec 5) : Statement (.vfpGFmul y x m b a d) := ⟨by
  simp only [encodeNat, vfpGFmulWord]; omega, nofun⟩
theorem vfpGFdiv (y : BitVec 1) (x : BitVec 1) (m : BitVec 3) (b : BitVec 3) (a : BitVec 5) (d : BitVec 5) : Statement (.vfpGFdiv y x m b a d) := ⟨by
  simp only [encodeNat, vfpGFdivWord]; omega, nofun⟩
theorem vfpGFsqrt (x : BitVec 1) (m : BitVec 3) (a : BitVec 5) (d : BitVec 5) : Statement (.vfpGFsqrt x m a d) := ⟨by
  simp only [encodeNat, vfpGFsqrtWord]; omega, nofun⟩
theorem vfpGFmin (y : BitVec 1) (x : BitVec 1) (m : BitVec 3) (b : BitVec 3) (a : BitVec 5) (d : BitVec 5) : Statement (.vfpGFmin y x m b a d) := ⟨by
  simp only [encodeNat, vfpGFminWord]; omega, nofun⟩
theorem vfpGFmax (y : BitVec 1) (x : BitVec 1) (m : BitVec 3) (b : BitVec 3) (a : BitVec 5) (d : BitVec 5) : Statement (.vfpGFmax y x m b a d) := ⟨by
  simp only [encodeNat, vfpGFmaxWord]; omega, nofun⟩
theorem vfpGFabs (x : BitVec 1) (m : BitVec 3) (a : BitVec 5) (d : BitVec 5) : Statement (.vfpGFabs x m a d) := ⟨by
  simp only [encodeNat, vfpGFabsWord]; omega, nofun⟩
theorem vfpGFneg (x : BitVec 1) (m : BitVec 3) (a : BitVec 5) (d : BitVec 5) : Statement (.vfpGFneg x m a d) := ⟨by
  simp only [encodeNat, vfpGFnegWord]; omega, nofun⟩
theorem vfpGFsgn (y : BitVec 1) (x : BitVec 1) (m : BitVec 3) (b : BitVec 3) (a : BitVec 5) (d : BitVec 5) : Statement (.vfpGFsgn y x m b a d) := ⟨by
  simp only [encodeNat, vfpGFsgnWord]; omega, nofun⟩
theorem vfpGFrcp (x : BitVec 1) (m : BitVec 3) (a : BitVec 5) (d : BitVec 5) : Statement (.vfpGFrcp x m a d) := ⟨by
  simp only [encodeNat, vfpGFrcpWord]; omega, nofun⟩
theorem vfpGFrsq (x : BitVec 1) (m : BitVec 3) (a : BitVec 5) (d : BitVec 5) : Statement (.vfpGFrsq x m a d) := ⟨by
  simp only [encodeNat, vfpGFrsqWord]; omega, nofun⟩
theorem vfpGFexp2 (x : BitVec 1) (m : BitVec 3) (a : BitVec 5) (d : BitVec 5) : Statement (.vfpGFexp2 x m a d) := ⟨by
  simp only [encodeNat, vfpGFexp2Word]; omega, nofun⟩
theorem vfmaFmadd (m : BitVec 3) (c : BitVec 5) (b : BitVec 5) (a : BitVec 5) (d : BitVec 5) : Statement (.vfmaFmadd m c b a d) := ⟨by
  simp only [encodeNat, vfmaFmaddWord]; omega, nofun⟩
theorem vfmaFmsub (m : BitVec 3) (c : BitVec 5) (b : BitVec 5) (a : BitVec 5) (d : BitVec 5) : Statement (.vfmaFmsub m c b a d) := ⟨by
  simp only [encodeNat, vfmaFmsubWord]; omega, nofun⟩
theorem vfmaFnmadd (m : BitVec 3) (c : BitVec 5) (b : BitVec 5) (a : BitVec 5) (d : BitVec 5) : Statement (.vfmaFnmadd m c b a d) := ⟨by
  simp only [encodeNat, vfmaFnmaddWord]; omega, nofun⟩
theorem vfmaImadd (m : BitVec 3) (c : BitVec 5) (b : BitVec 5) (a : BitVec 5) (d : BitVec 5) : Statement (.vfmaImadd m c b a d) := ⟨by
  simp only [encodeNat, vfmaImaddWord]; omega, nofun⟩
theorem vcmpEq (y : BitVec 1) (x : BitVec 1) (m : BitVec 3) (b : BitVec 5) (a : BitVec 5) (d : BitVec 3) : Statement (.vcmpEq y x m b a d) := ⟨by
  simp only [encodeNat, vcmpEqWord]; omega, nofun⟩
theorem vcmpNe (y : BitVec 1) (x : BitVec 1) (m : BitVec 3) (b : BitVec 5) (a : BitVec 5) (d : BitVec 3) : Statement (.vcmpNe y x m b a d) := ⟨by
  simp only [encodeNat, vcmpNeWord]; omega, nofun⟩
theorem vcmpLt (y : BitVec 1) (x : BitVec 1) (m : BitVec 3) (b : BitVec 5) (a : BitVec 5) (d : BitVec 3) : Statement (.vcmpLt y x m b a d) := ⟨by
  simp only [encodeNat, vcmpLtWord]; omega, nofun⟩
theorem vcmpLe (y : BitVec 1) (x : BitVec 1) (m : BitVec 3) (b : BitVec 5) (a : BitVec 5) (d : BitVec 3) : Statement (.vcmpLe y x m b a d) := ⟨by
  simp only [encodeNat, vcmpLeWord]; omega, nofun⟩
theorem vcmpLtu (y : BitVec 1) (x : BitVec 1) (m : BitVec 3) (b : BitVec 5) (a : BitVec 5) (d : BitVec 3) : Statement (.vcmpLtu y x m b a d) := ⟨by
  simp only [encodeNat, vcmpLtuWord]; omega, nofun⟩
theorem vcmpLeu (y : BitVec 1) (x : BitVec 1) (m : BitVec 3) (b : BitVec 5) (a : BitVec 5) (d : BitVec 3) : Statement (.vcmpLeu y x m b a d) := ⟨by
  simp only [encodeNat, vcmpLeuWord]; omega, nofun⟩
theorem vcmpFeq (y : BitVec 1) (x : BitVec 1) (m : BitVec 3) (b : BitVec 5) (a : BitVec 5) (d : BitVec 3) : Statement (.vcmpFeq y x m b a d) := ⟨by
  simp only [encodeNat, vcmpFeqWord]; omega, nofun⟩
theorem vcmpFlt (y : BitVec 1) (x : BitVec 1) (m : BitVec 3) (b : BitVec 5) (a : BitVec 5) (d : BitVec 3) : Statement (.vcmpFlt y x m b a d) := ⟨by
  simp only [encodeNat, vcmpFltWord]; omega, nofun⟩
theorem vcmpFle (y : BitVec 1) (x : BitVec 1) (m : BitVec 3) (b : BitVec 5) (a : BitVec 5) (d : BitVec 3) : Statement (.vcmpFle y x m b a d) := ⟨by
  simp only [encodeNat, vcmpFleWord]; omega, nofun⟩
theorem vcmpFun (y : BitVec 1) (x : BitVec 1) (m : BitVec 3) (b : BitVec 5) (a : BitVec 5) (d : BitVec 3) : Statement (.vcmpFun y x m b a d) := ⟨by
  simp only [encodeNat, vcmpFunWord]; omega, nofun⟩
theorem vcmpGEq (y : BitVec 1) (x : BitVec 1) (m : BitVec 3) (b : BitVec 3) (a : BitVec 5) (d : BitVec 3) : Statement (.vcmpGEq y x m b a d) := ⟨by
  simp only [encodeNat, vcmpGEqWord]; omega, nofun⟩
theorem vcmpGNe (y : BitVec 1) (x : BitVec 1) (m : BitVec 3) (b : BitVec 3) (a : BitVec 5) (d : BitVec 3) : Statement (.vcmpGNe y x m b a d) := ⟨by
  simp only [encodeNat, vcmpGNeWord]; omega, nofun⟩
theorem vcmpGLt (y : BitVec 1) (x : BitVec 1) (m : BitVec 3) (b : BitVec 3) (a : BitVec 5) (d : BitVec 3) : Statement (.vcmpGLt y x m b a d) := ⟨by
  simp only [encodeNat, vcmpGLtWord]; omega, nofun⟩
theorem vcmpGLe (y : BitVec 1) (x : BitVec 1) (m : BitVec 3) (b : BitVec 3) (a : BitVec 5) (d : BitVec 3) : Statement (.vcmpGLe y x m b a d) := ⟨by
  simp only [encodeNat, vcmpGLeWord]; omega, nofun⟩
theorem vcmpGLtu (y : BitVec 1) (x : BitVec 1) (m : BitVec 3) (b : BitVec 3) (a : BitVec 5) (d : BitVec 3) : Statement (.vcmpGLtu y x m b a d) := ⟨by
  simp only [encodeNat, vcmpGLtuWord]; omega, nofun⟩
theorem vcmpGLeu (y : BitVec 1) (x : BitVec 1) (m : BitVec 3) (b : BitVec 3) (a : BitVec 5) (d : BitVec 3) : Statement (.vcmpGLeu y x m b a d) := ⟨by
  simp only [encodeNat, vcmpGLeuWord]; omega, nofun⟩
theorem vcmpGFeq (y : BitVec 1) (x : BitVec 1) (m : BitVec 3) (b : BitVec 3) (a : BitVec 5) (d : BitVec 3) : Statement (.vcmpGFeq y x m b a d) := ⟨by
  simp only [encodeNat, vcmpGFeqWord]; omega, nofun⟩
theorem vcmpGFlt (y : BitVec 1) (x : BitVec 1) (m : BitVec 3) (b : BitVec 3) (a : BitVec 5) (d : BitVec 3) : Statement (.vcmpGFlt y x m b a d) := ⟨by
  simp only [encodeNat, vcmpGFltWord]; omega, nofun⟩
theorem vcmpGFle (y : BitVec 1) (x : BitVec 1) (m : BitVec 3) (b : BitVec 3) (a : BitVec 5) (d : BitVec 3) : Statement (.vcmpGFle y x m b a d) := ⟨by
  simp only [encodeNat, vcmpGFleWord]; omega, nofun⟩
theorem vcmpGFun (y : BitVec 1) (x : BitVec 1) (m : BitVec 3) (b : BitVec 3) (a : BitVec 5) (d : BitVec 3) : Statement (.vcmpGFun y x m b a d) := ⟨by
  simp only [encodeNat, vcmpGFunWord]; omega, nofun⟩
theorem mand (y : BitVec 1) (x : BitVec 1) (b : BitVec 3) (a : BitVec 3) (d : BitVec 3) : Statement (.mand y x b a d) := ⟨by
  simp only [encodeNat, mandWord]; omega, nofun⟩
theorem mor (y : BitVec 1) (x : BitVec 1) (b : BitVec 3) (a : BitVec 3) (d : BitVec 3) : Statement (.mor y x b a d) := ⟨by
  simp only [encodeNat, morWord]; omega, nofun⟩
theorem mxor (y : BitVec 1) (x : BitVec 1) (b : BitVec 3) (a : BitVec 3) (d : BitVec 3) : Statement (.mxor y x b a d) := ⟨by
  simp only [encodeNat, mxorWord]; omega, nofun⟩
theorem mnot (x : BitVec 1) (a : BitVec 3) (d : BitVec 3) : Statement (.mnot x a d) := ⟨by
  simp only [encodeNat, mnotWord]; omega, nofun⟩
theorem mset (d : BitVec 3) : Statement (.mset d) := ⟨by
  simp only [encodeNat, msetWord]; omega, nofun⟩
theorem mclr (d : BitVec 3) : Statement (.mclr d) := ⟨by
  simp only [encodeNat, mclrWord]; omega, nofun⟩
theorem mpop (x : BitVec 1) (a : BitVec 3) (d : BitVec 5) : Statement (.mpop x a d) := ⟨by
  simp only [encodeNat, mpopWord]; omega, nofun⟩
theorem mfirst (x : BitVec 1) (a : BitVec 3) (d : BitVec 5) : Statement (.mfirst x a d) := ⟨by
  simp only [encodeNat, mfirstWord]; omega, nofun⟩
theorem rsum (x : BitVec 1) (m : BitVec 3) (a : BitVec 5) (d : BitVec 5) : Statement (.rsum x m a d) := ⟨by
  simp only [encodeNat, rsumWord]; omega, nofun⟩
theorem rmin (x : BitVec 1) (m : BitVec 3) (a : BitVec 5) (d : BitVec 5) : Statement (.rmin x m a d) := ⟨by
  simp only [encodeNat, rminWord]; omega, nofun⟩
theorem rmax (x : BitVec 1) (m : BitVec 3) (a : BitVec 5) (d : BitVec 5) : Statement (.rmax x m a d) := ⟨by
  simp only [encodeNat, rmaxWord]; omega, nofun⟩
theorem rand (x : BitVec 1) (m : BitVec 3) (a : BitVec 5) (d : BitVec 5) : Statement (.rand x m a d) := ⟨by
  simp only [encodeNat, randWord]; omega, nofun⟩
theorem ror (x : BitVec 1) (m : BitVec 3) (a : BitVec 5) (d : BitVec 5) : Statement (.ror x m a d) := ⟨by
  simp only [encodeNat, rorWord]; omega, nofun⟩
theorem rxor (x : BitVec 1) (m : BitVec 3) (a : BitVec 5) (d : BitVec 5) : Statement (.rxor x m a d) := ⟨by
  simp only [encodeNat, rxorWord]; omega, nofun⟩
theorem rfsum (x : BitVec 1) (m : BitVec 3) (a : BitVec 5) (d : BitVec 5) : Statement (.rfsum x m a d) := ⟨by
  simp only [encodeNat, rfsumWord]; omega, nofun⟩
theorem rfmin (x : BitVec 1) (m : BitVec 3) (a : BitVec 5) (d : BitVec 5) : Statement (.rfmin x m a d) := ⟨by
  simp only [encodeNat, rfminWord]; omega, nofun⟩
theorem rfmax (x : BitVec 1) (m : BitVec 3) (a : BitVec 5) (d : BitVec 5) : Statement (.rfmax x m a d) := ⟨by
  simp only [encodeNat, rfmaxWord]; omega, nofun⟩
theorem rany (x : BitVec 1) (m : BitVec 3) (a : BitVec 5) (d : BitVec 3) : Statement (.rany x m a d) := ⟨by
  simp only [encodeNat, ranyWord]; omega, nofun⟩
theorem rall (x : BitVec 1) (m : BitVec 3) (a : BitVec 5) (d : BitVec 3) : Statement (.rall x m a d) := ⟨by
  simp only [encodeNat, rallWord]; omega, nofun⟩
theorem vcvt (z : BitVec 1) (s : BitVec 1) (r : BitVec 3) (h : BitVec 1) (x : BitVec 1) (m : BitVec 3) (b : BitVec 5) (a : BitVec 5) (d : BitVec 5) : Statement (.vcvt z s r h x m b a d) := ⟨by
  simp only [encodeNat, vcvtWord]; omega, nofun⟩
theorem slideup (y : BitVec 1) (x : BitVec 1) (m : BitVec 3) (b : BitVec 3) (a : BitVec 5) (d : BitVec 5) : Statement (.slideup y x m b a d) := ⟨by
  simp only [encodeNat, slideupWord]; omega, nofun⟩
theorem slidedn (y : BitVec 1) (x : BitVec 1) (m : BitVec 3) (b : BitVec 3) (a : BitVec 5) (d : BitVec 5) : Statement (.slidedn y x m b a d) := ⟨by
  simp only [encodeNat, slidednWord]; omega, nofun⟩
theorem perm (y : BitVec 1) (x : BitVec 1) (m : BitVec 3) (b : BitVec 5) (a : BitVec 5) (d : BitVec 5) : Statement (.perm y x m b a d) := ⟨by
  simp only [encodeNat, permWord]; omega, nofun⟩
theorem compress (x : BitVec 1) (m : BitVec 3) (a : BitVec 5) (d : BitVec 5) : Statement (.compress x m a d) := ⟨by
  simp only [encodeNat, compressWord]; omega, nofun⟩
theorem expand (x : BitVec 1) (m : BitVec 3) (a : BitVec 5) (d : BitVec 5) : Statement (.expand x m a d) := ⟨by
  simp only [encodeNat, expandWord]; omega, nofun⟩
theorem zip (y : BitVec 1) (x : BitVec 1) (m : BitVec 3) (b : BitVec 5) (a : BitVec 5) (d : BitVec 5) : Statement (.zip y x m b a d) := ⟨by
  simp only [encodeNat, zipWord]; omega, nofun⟩
theorem bcast (y : BitVec 1) (x : BitVec 1) (m : BitVec 3) (b : BitVec 3) (a : BitVec 5) (d : BitVec 5) : Statement (.bcast y x m b a d) := ⟨by
  simp only [encodeNat, bcastWord]; omega, nofun⟩
theorem merge (y : BitVec 1) (x : BitVec 1) (m : BitVec 3) (b : BitVec 5) (a : BitVec 5) (d : BitVec 5) : Statement (.merge y x m b a d) := ⟨by
  simp only [encodeNat, mergeWord]; omega, nofun⟩
theorem trn (x : BitVec 1) (m : BitVec 3) (a : BitVec 5) (d : BitVec 5) : Statement (.trn x m a d) := ⟨by
  simp only [encodeNat, trnWord]; omega, nofun⟩
theorem vmemLd (h : BitVec 1) (m : BitVec 3) (s : BitVec 4) (g : BitVec 3) (v : BitVec 5) : Statement (.vmemLd h m s g v) := ⟨by
  simp only [encodeNat, vmemLdWord]; omega, nofun⟩
theorem vmemSt (h : BitVec 1) (m : BitVec 3) (s : BitVec 4) (g : BitVec 3) (v : BitVec 5) : Statement (.vmemSt h m s g v) := ⟨by
  simp only [encodeNat, vmemStWord]; omega, nofun⟩
theorem vmemLds (h : BitVec 1) (m : BitVec 3) (s : BitVec 4) (x : BitVec 3) (g : BitVec 3) (v : BitVec 5) : Statement (.vmemLds h m s x g v) := ⟨by
  simp only [encodeNat, vmemLdsWord]; omega, nofun⟩
theorem vmemSts (h : BitVec 1) (m : BitVec 3) (s : BitVec 4) (x : BitVec 3) (g : BitVec 3) (v : BitVec 5) : Statement (.vmemSts h m s x g v) := ⟨by
  simp only [encodeNat, vmemStsWord]; omega, nofun⟩
theorem vmemLdx (h : BitVec 1) (m : BitVec 3) (s : BitVec 4) (x : BitVec 5) (g : BitVec 3) (v : BitVec 5) : Statement (.vmemLdx h m s x g v) := ⟨by
  simp only [encodeNat, vmemLdxWord]; omega, nofun⟩
theorem vmemStx (h : BitVec 1) (m : BitVec 3) (s : BitVec 4) (x : BitVec 5) (g : BitVec 3) (v : BitVec 5) : Statement (.vmemStx h m s x g v) := ⟨by
  simp only [encodeNat, vmemStxWord]; omega, nofun⟩
theorem vmemLdl (h : BitVec 1) (m : BitVec 3) (s : BitVec 4) (g : BitVec 3) (v : BitVec 5) : Statement (.vmemLdl h m s g v) := ⟨by
  simp only [encodeNat, vmemLdlWord]; omega, nofun⟩
theorem vmemStl (h : BitVec 1) (m : BitVec 3) (s : BitVec 4) (g : BitVec 3) (v : BitVec 5) : Statement (.vmemStl h m s g v) := ⟨by
  simp only [encodeNat, vmemStlWord]; omega, nofun⟩
theorem vmemLdff (h : BitVec 1) (m : BitVec 3) (s : BitVec 4) (g : BitVec 3) (v : BitVec 5) : Statement (.vmemLdff h m s g v) := ⟨by
  simp only [encodeNat, vmemLdffWord]; omega, nofun⟩
theorem vmemAmoadd (h : BitVec 1) (m : BitVec 3) (s : BitVec 4) (x : BitVec 5) (g : BitVec 3) (v : BitVec 5) : Statement (.vmemAmoadd h m s x g v) := ⟨by
  simp only [encodeNat, vmemAmoaddWord]; omega, nofun⟩
theorem vbr (o : BitVec 20) (p : BitVec 1) (k : BitVec 3) : Statement (.vbr o p k) := ⟨by
  simp only [encodeNat, vbrWord]; omega, nofun⟩
theorem vbrNot (o : BitVec 20) (p : BitVec 1) (k : BitVec 3) : Statement (.vbrNot o p k) := ⟨by
  simp only [encodeNat, vbrNotWord]; omega, nofun⟩
theorem vend : Statement .vend := ⟨by decide, nofun⟩
theorem vjoin : Statement .vjoin := ⟨by decide, nofun⟩
theorem vnop : Statement .vnop := ⟨by decide, nofun⟩
theorem accRd (x : BitVec 1) (a : BitVec 3) (d : BitVec 5) : Statement (.accRd x a d) := ⟨by
  simp only [encodeNat, accRdWord]; omega, nofun⟩
theorem accWr (y : BitVec 1) (x : BitVec 1) (b : BitVec 5) (a : BitVec 3) : Statement (.accWr y x b a) := ⟨by
  simp only [encodeNat, accWrWord]; omega, nofun⟩
theorem accClr (x : BitVec 1) (a : BitVec 3) : Statement (.accClr x a) := ⟨by
  simp only [encodeNat, accClrWord]; omega, nofun⟩
theorem cpLay (y : BitVec 1) (x : BitVec 1) (b : BitVec 5) (a : BitVec 5) (c : BitVec 5) : Statement (.cpLay y x b a c) := ⟨by
  simp only [encodeNat, cpLayWord]; omega, nofun⟩
theorem cpArr (y : BitVec 1) (x : BitVec 1) (b : BitVec 5) (a : BitVec 5) (c : BitVec 5) : Statement (.cpArr y x b a c) := ⟨by
  simp only [encodeNat, cpArrWord]; omega, nofun⟩
theorem cpGo (y : BitVec 1) (x : BitVec 1) (b : BitVec 5) (a : BitVec 5) (c : BitVec 5) : Statement (.cpGo y x b a c) := ⟨by
  simp only [encodeNat, cpGoWord]; omega, nofun⟩
theorem cpWm (a : BitVec 5) (c : BitVec 5) : Statement (.cpWm a c) := ⟨by
  simp only [encodeNat, cpWmWord]; omega, nofun⟩
theorem cpWait (c : BitVec 5) : Statement (.cpWait c) := ⟨by
  simp only [encodeNat, cpWaitWord]; omega, nofun⟩
theorem cpStop (c : BitVec 5) : Statement (.cpStop c) := ⟨by
  simp only [encodeNat, cpStopWord]; omega, nofun⟩
theorem cpStat (a : BitVec 5) (c : BitVec 5) : Statement (.cpStat a c) := ⟨by
  simp only [encodeNat, cpStatWord]; omega, nofun⟩
theorem copyAccept (h : Nat) (c : Nat) : Statement (.copyAccept h c) := ⟨by simp [encodeNat], fun _ => rfl⟩
theorem copyElement (h : Nat) (c : Nat) (j : Nat) : Statement (.copyElement h c j) := ⟨by simp [encodeNat], fun _ => rfl⟩
theorem copyComplete (h : Nat) (c : Nat) : Statement (.copyComplete h c) := ⟨by simp [encodeNat], fun _ => rfl⟩
theorem tkPost (x : BitVec 1) (a : BitVec 5) (d : BitVec 5) : Statement (.tkPost x a d) := ⟨by
  simp only [encodeNat, tkPostWord]; omega, nofun⟩
theorem tkStat (x : BitVec 1) (a : BitVec 5) (d : BitVec 5) : Statement (.tkStat x a d) := ⟨by
  simp only [encodeNat, tkStatWord]; omega, nofun⟩
theorem tkCancel (x : BitVec 1) (a : BitVec 5) (d : BitVec 5) : Statement (.tkCancel x a d) := ⟨by
  simp only [encodeNat, tkCancelWord]; omega, nofun⟩
theorem taskIssue (e : Nat) (k : Nat) : Statement (.taskIssue e k) := ⟨by simp [encodeNat], fun _ => rfl⟩
theorem taskComplete (q : Nat) (n : Nat) : Statement (.taskComplete q n) := ⟨by simp [encodeNat], fun _ => rfl⟩
theorem taskAging (q : Nat) (n : Nat) : Statement (.taskAging q n) := ⟨by simp [encodeNat], fun _ => rfl⟩
theorem evSig (y : BitVec 1) (x : BitVec 1) (b : BitVec 5) (a : BitVec 5) (d : BitVec 5) : Statement (.evSig y x b a d) := ⟨by
  simp only [encodeNat, evSigWord]; omega, nofun⟩
theorem evWait (y : BitVec 1) (x : BitVec 1) (b : BitVec 5) (a : BitVec 5) (d : BitVec 5) : Statement (.evWait y x b a d) := ⟨by
  simp only [encodeNat, evWaitWord]; omega, nofun⟩
theorem evRd (x : BitVec 1) (a : BitVec 5) (d : BitVec 5) : Statement (.evRd x a d) := ⟨by
  simp only [encodeNat, evRdWord]; omega, nofun⟩
theorem evSet (y : BitVec 1) (x : BitVec 1) (b : BitVec 5) (a : BitVec 5) (d : BitVec 5) : Statement (.evSet y x b a d) := ⟨by
  simp only [encodeNat, evSetWord]; omega, nofun⟩
theorem eventUpdateApply (h : Nat) (n : Nat) : Statement (.eventUpdateApply h n) := ⟨by simp [encodeNat], fun _ => rfl⟩
theorem nbGo (x : BitVec 1) (a : BitVec 5) (d : BitVec 5) : Statement (.nbGo x a d) := ⟨by
  simp only [encodeNat, nbGoWord]; omega, nofun⟩
theorem nbStat (x : BitVec 1) (a : BitVec 5) (d : BitVec 5) : Statement (.nbStat x a d) := ⟨by
  simp only [encodeNat, nbStatWord]; omega, nofun⟩
theorem nbStop (x : BitVec 1) (a : BitVec 5) : Statement (.nbStop x a) := ⟨by
  simp only [encodeNat, nbStopWord]; omega, nofun⟩
theorem nbJobStart (u : Nat) : Statement (.nbJobStart u) := ⟨by simp [encodeNat], fun _ => rfl⟩
theorem nqPush (x : BitVec 1) (a : BitVec 5) (q : BitVec 1) : Statement (.nqPush x a q) := ⟨by
  simp only [encodeNat, nqPushWord]; omega, nofun⟩
theorem nqPop (q : BitVec 1) (d : BitVec 4) : Statement (.nqPop q d) := ⟨by
  simp only [encodeNat, nqPopWord]; omega, nofun⟩
theorem nbSafe : Statement .nbSafe := ⟨by decide, nofun⟩
theorem nbMc (x : BitVec 1) (b : BitVec 4) (a : BitVec 5) (d : BitVec 5) : Statement (.nbMc x b a d) := ⟨by
  simp only [encodeNat, nbMcWord]; omega, nofun⟩
theorem nqLoadFill (u : Nat) (n : Nat) : Statement (.nqLoadFill u n) := ⟨by simp [encodeNat], fun _ => rfl⟩
theorem nbJobEnd (u : Nat) : Statement (.nbJobEnd u) := ⟨by simp [encodeNat], fun _ => rfl⟩
theorem nbProgressWatchdog (u : Nat) : Statement (.nbProgressWatchdog u) := ⟨by simp [encodeNat], fun _ => rfl⟩
theorem nbSafePointWatchdog (u : Nat) : Statement (.nbSafePointWatchdog u) := ⟨by simp [encodeNat], fun _ => rfl⟩
theorem channelResetComplete (u : Nat) : Statement (.channelResetComplete u) := ⟨by simp [encodeNat], fun _ => rfl⟩
theorem dramRefreshDue (x : Nat) : Statement (.dramRefreshDue x) := ⟨by simp [encodeNat], fun _ => rfl⟩
theorem lpMark (y : BitVec 1) (x : BitVec 1) (b : BitVec 5) (a : BitVec 5) : Statement (.lpMark y x b a) := ⟨by
  simp only [encodeNat, lpMarkWord]; omega, nofun⟩
theorem lpIter (k : BitVec 3) : Statement (.lpIter k) := ⟨by
  simp only [encodeNat, lpIterWord]; omega, nofun⟩
theorem lpEnd (d : BitVec 5) : Statement (.lpEnd d) := ⟨by
  simp only [encodeNat, lpEndWord]; omega, nofun⟩
theorem lpStat (d : BitVec 5) : Statement (.lpStat d) := ⟨by
  simp only [encodeNat, lpStatWord]; omega, nofun⟩
theorem templateVerdict (h : Nat) : Statement (.templateVerdict h) := ⟨by simp [encodeNat], fun _ => rfl⟩
theorem replayIteration (h : Nat) : Statement (.replayIteration h) := ⟨by simp [encodeNat], fun _ => rfl⟩
theorem replayDeparture (h : Nat) (d : Nat) : Statement (.replayDeparture h d) := ⟨by simp [encodeNat], fun _ => rfl⟩
theorem replayComplete (h : Nat) : Statement (.replayComplete h) := ⟨by simp [encodeNat], fun _ => rfl⟩
theorem jrRec (y : BitVec 1) (x : BitVec 1) (b : BitVec 5) (a : BitVec 5) (d : BitVec 5) : Statement (.jrRec y x b a d) := ⟨by
  simp only [encodeNat, jrRecWord]; omega, nofun⟩
theorem jrGate (y : BitVec 1) (x : BitVec 1) (b : BitVec 5) (a : BitVec 5) (d : BitVec 5) : Statement (.jrGate y x b a d) := ⟨by
  simp only [encodeNat, jrGateWord]; omega, nofun⟩
theorem jrDur (x : BitVec 1) (a : BitVec 5) (d : BitVec 5) : Statement (.jrDur x a d) := ⟨by
  simp only [encodeNat, jrDurWord]; omega, nofun⟩
theorem jrTrunc (y : BitVec 1) (x : BitVec 1) (b : BitVec 5) (a : BitVec 5) (d : BitVec 5) : Statement (.jrTrunc y x b a d) := ⟨by
  simp only [encodeNat, jrTruncWord]; omega, nofun⟩
theorem jrRead (y : BitVec 1) (x : BitVec 1) (b : BitVec 5) (a : BitVec 5) (d : BitVec 5) : Statement (.jrRead y x b a d) := ⟨by
  simp only [encodeNat, jrReadWord]; omega, nofun⟩
theorem journalAck (j : Nat) (n : Nat) : Statement (.journalAck j n) := ⟨by simp [encodeNat], fun _ => rfl⟩
theorem mirrorRecordWrite (p : Nat) (j : Nat) (n : Nat) (r : List Byte) : Statement (.mirrorRecordWrite p j n r) := ⟨by simp [encodeNat], fun _ => rfl⟩
theorem truncationAck (h : Nat) (j : Nat) : Statement (.truncationAck h j) := ⟨by simp [encodeNat], fun _ => rfl⟩
theorem plHash (y : BitVec 1) (x : BitVec 1) (b : BitVec 5) (a : BitVec 5) (d : BitVec 5) : Statement (.plHash y x b a d) := ⟨by
  simp only [encodeNat, plHashWord]; omega, nofun⟩
theorem plBind (x : BitVec 1) (a : BitVec 5) (d : BitVec 5) : Statement (.plBind x a d) := ⟨by
  simp only [encodeNat, plBindWord]; omega, nofun⟩
theorem plSend (x : BitVec 1) (a : BitVec 5) (d : BitVec 5) : Statement (.plSend x a d) := ⟨by
  simp only [encodeNat, plSendWord]; omega, nofun⟩
theorem plRecv (x : BitVec 1) (a : BitVec 5) (d : BitVec 5) : Statement (.plRecv x a d) := ⟨by
  simp only [encodeNat, plRecvWord]; omega, nofun⟩
theorem plEnd (x : BitVec 1) (a : BitVec 5) (d : BitVec 5) : Statement (.plEnd x a d) := ⟨by
  simp only [encodeNat, plEndWord]; omega, nofun⟩
theorem plStat (x : BitVec 1) (a : BitVec 5) (d : BitVec 5) : Statement (.plStat x a d) := ⟨by
  simp only [encodeNat, plStatWord]; omega, nofun⟩
theorem go (y : BitVec 1) (x : BitVec 1) (b : BitVec 5) (a : BitVec 5) (d : BitVec 5) : Statement (.go y x b a d) := ⟨by
  simp only [encodeNat, goWord]; omega, nofun⟩
theorem gq (x : BitVec 1) (a : BitVec 5) (d : BitVec 5) : Statement (.gq x a d) := ⟨by
  simp only [encodeNat, gqWord]; omega, nofun⟩
theorem launchDoorbell (l : Nat) (v : Word) : Statement (.launchDoorbell l v) := ⟨by simp [encodeNat], fun _ => rfl⟩
theorem dbstatWrite (l : Nat) (v : Word) : Statement (.dbstatWrite l v) := ⟨by simp [encodeNat], fun _ => rfl⟩
theorem launchHeadCheck (l : Nat) : Statement (.launchHeadCheck l) := ⟨by simp [encodeNat], fun _ => rfl⟩
theorem placeLaunch : Statement .placeLaunch := ⟨by simp [encodeNat], fun _ => rfl⟩
theorem lqcfgWrite (h : Nat) (l : Nat) (v : Word) : Statement (.lqcfgWrite h l v) := ⟨by simp [encodeNat], fun _ => rfl⟩
theorem trapEntry (h : Nat) : Statement (.trapEntry h) := ⟨by simp [encodeNat], fun _ => rfl⟩
theorem preqRequest (h : Nat) (v : Word) : Statement (.preqRequest h v) := ⟨by simp [encodeNat], fun _ => rfl⟩
theorem preqResume (h : Nat) (v : Word) : Statement (.preqResume h v) := ⟨by simp [encodeNat], fun _ => rfl⟩
theorem ximgSave (h : Nat) (v : Word) : Statement (.ximgSave h v) := ⟨by simp [encodeNat], fun _ => rfl⟩
theorem xldLoad (h : Nat) (v : Word) : Statement (.xldLoad h v) := ⟨by simp [encodeNat], fun _ => rfl⟩
theorem cparkOffer (h : Nat) (v : Word) : Statement (.cparkOffer h v) := ⟨by simp [encodeNat], fun _ => rfl⟩
theorem flagRestoreWrite (h : Nat) (n : Nat) (v : Word) : Statement (.flagRestoreWrite h n v) := ⟨by simp [encodeNat], fun _ => rfl⟩
theorem vectorShapeWrite (h : Nat) (n : Nat) (v : Word) : Statement (.vectorShapeWrite h n v) := ⟨by simp [encodeNat], fun _ => rfl⟩
theorem protWrite (h : Nat) (v : Word) : Statement (.protWrite h v) := ⟨by simp [encodeNat], fun _ => rfl⟩
theorem evbaseWrite (h : Nat) (v : Word) : Statement (.evbaseWrite h v) := ⟨by simp [encodeNat], fun _ => rfl⟩
theorem accpsnWrite (h : Nat) (v : Word) : Statement (.accpsnWrite h v) := ⟨by simp [encodeNat], fun _ => rfl⟩
theorem jrcfgWrite (h : Nat) (v : Word) : Statement (.jrcfgWrite h v) := ⟨by simp [encodeNat], fun _ => rfl⟩
theorem jrcandWrite (h : Nat) (n : Nat) (v : Word) : Statement (.jrcandWrite h n v) := ⟨by simp [encodeNat], fun _ => rfl⟩
theorem ltermWrite (h : Nat) (v : Word) : Statement (.ltermWrite h v) := ⟨by simp [encodeNat], fun _ => rfl⟩
theorem rtcoreWrite (h : Nat) (v : Word) : Statement (.rtcoreWrite h v) := ⟨by simp [encodeNat], fun _ => rfl⟩
theorem rtqPop (h : Nat) : Statement (.rtqPop h) := ⟨by simp [encodeNat], fun _ => rfl⟩
theorem rtmigGo (h : Nat) (v : Word) : Statement (.rtmigGo h v) := ⟨by simp [encodeNat], fun _ => rfl⟩
theorem rtmigEnd (h : Nat) (v : Word) : Statement (.rtmigEnd h v) := ⟨by simp [encodeNat], fun _ => rfl⟩
theorem migrationGranule : Statement .migrationGranule := ⟨by simp [encodeNat], fun _ => rfl⟩
theorem elstatClear (h : Nat) (v : Word) : Statement (.elstatClear h v) := ⟨by simp [encodeNat], fun _ => rfl⟩
theorem pmcWrite (h : Nat) (n : Nat) (v : Word) : Statement (.pmcWrite h n v) := ⟨by simp [encodeNat], fun _ => rfl⟩
theorem energyWrite (h : Nat) (v : Word) : Statement (.energyWrite h v) := ⟨by simp [encodeNat], fun _ => rfl⟩
theorem smpcfgWrite (h : Nat) (n : Nat) (v : Word) : Statement (.smpcfgWrite h n v) := ⟨by simp [encodeNat], fun _ => rfl⟩
theorem sampleTraceAcquireRead (h : Nat) (n : Nat) : Statement (.sampleTraceAcquireRead h n) := ⟨by simp [encodeNat], fun _ => rfl⟩
theorem sampleRecordWrite (h : Nat) : Statement (.sampleRecordWrite h) := ⟨by simp [encodeNat], fun _ => rfl⟩
theorem traceRecordWrite (h : Nat) : Statement (.traceRecordWrite h) := ⟨by simp [encodeNat], fun _ => rfl⟩
theorem stopFire (h : Nat) : Statement (.stopFire h) := ⟨by simp [encodeNat], fun _ => rfl⟩
theorem genericRegisterWrite (h : Nat) (n : Nat) (v : Word) : Statement (.genericRegisterWrite h n v) := ⟨by simp [encodeNat], fun _ => rfl⟩
theorem registerParityReplay (h : Nat) (r : Nat) : Statement (.registerParityReplay h r) := ⟨by simp [encodeNat], fun _ => rfl⟩
theorem laneReexecute (h : Nat) (r : Nat) (e : Nat) : Statement (.laneReexecute h r e) := ⟨by simp [encodeNat], fun _ => rfl⟩
theorem protectedModeMismatch (h : Nat) (e : Nat) : Statement (.protectedModeMismatch h e) := ⟨by simp [encodeNat], fun _ => rfl⟩
theorem scrubRead (l : Nat) (a : Nat) : Statement (.scrubRead l a) := ⟨by simp [encodeNat], fun _ => rfl⟩
theorem l2EvictionPoison (a : Nat) : Statement (.l2EvictionPoison a) := ⟨by simp [encodeNat], fun _ => rfl⟩
theorem cxlMemRequest (a : Nat) (w : List Byte) (n : Nat) : Statement (.cxlMemRequest a w n) := ⟨by simp [encodeNat], fun _ => rfl⟩
theorem hostSnoop (a : Snoop) : Statement (.hostSnoop a) := ⟨by simp [encodeNat], fun _ => rfl⟩
theorem cxlIdeFailure : Statement .cxlIdeFailure := ⟨by simp [encodeNat], fun _ => rfl⟩
theorem flitReceive (p : Nat) (r : List Byte) : Statement (.flitReceive p r) := ⟨by simp [encodeNat], fun _ => rfl⟩
theorem peerMessageReceive (p : Nat) (k : Nat) (x : Word) (y : Word) (z : Word) (r : List Byte) : Statement (.peerMessageReceive p k x y z r) := ⟨by simp [encodeNat], fun _ => rfl⟩
theorem keyEpochChange (p : Nat) : Statement (.keyEpochChange p) := ⟨by simp [encodeNat], fun _ => rfl⟩
theorem idleFlitSend (p : Nat) : Statement (.idleFlitSend p) := ⟨by simp [encodeNat], fun _ => rfl⟩
theorem portLivenessExpiry (p : Nat) : Statement (.portLivenessExpiry p) := ⟨by simp [encodeNat], fun _ => rfl⟩
theorem portTrainUp (p : Nat) (n : Nat) (w : Nat) : Statement (.portTrainUp p n w) := ⟨by simp [encodeNat], fun _ => rfl⟩
theorem inboundRequest (p : Nat) (k : Nat) (a : Nat) (n : Nat) (r : List Byte) : Statement (.inboundRequest p k a n r) := ⟨by simp [encodeNat], fun _ => rfl⟩
theorem remoteResponse (h : Nat) (n : Nat) (k : Nat) : Statement (.remoteResponse h n k) := ⟨by simp [encodeNat], fun _ => rfl⟩
theorem powerOnReset (k n v r : FirmwareImage) : Statement (.powerOnReset k n v r) := ⟨by simp [encodeNat], fun _ => rfl⟩
theorem stackTraining (x : Nat) (k : Nat) : Statement (.stackTraining x k) := ⟨by simp [encodeNat], fun _ => rfl⟩
theorem fullServiceEntry : Statement .fullServiceEntry := ⟨by simp [encodeNat], fun _ => rfl⟩
theorem quote (r : List Byte) : Statement (.quote r) := ⟨by simp [encodeNat], fun _ => rfl⟩
theorem pubkeys : Statement .pubkeys := ⟨by simp [encodeNat], fun _ => rfl⟩
theorem keyload (v : Word) (w : List Byte) (r : List Byte) : Statement (.keyload v w r) := ⟨by simp [encodeNat], fun _ => rfl⟩
theorem keyclr (v : Word) : Statement (.keyclr v) := ⟨by simp [encodeNat], fun _ => rfl⟩
theorem extend (v : Word) (r : List Byte) : Statement (.extend v r) := ⟨by simp [encodeNat], fun _ => rfl⟩
theorem event : Statement .event := ⟨by simp [encodeNat], fun _ => rfl⟩
theorem reply (n : Nat) (a : List Word) : Statement (.reply n a) := ⟨by simp [encodeNat], fun _ => rfl⟩
theorem state : Statement .state := ⟨by simp [encodeNat], fun _ => rfl⟩
theorem hostAssistEvent (k : Nat) : Statement (.hostAssistEvent k) := ⟨by simp [encodeNat], fun _ => rfl⟩
theorem powerThrottle : Statement .powerThrottle := ⟨by simp [encodeNat], fun _ => rfl⟩
theorem tlbInvalidationComplete (n : Nat) : Statement (.tlbInvalidationComplete n) := ⟨by simp [encodeNat], fun _ => rfl⟩
theorem hostLinkTrained (w : Nat) : Statement (.hostLinkTrained w) := ⟨by simp [encodeNat], fun _ => rfl⟩
theorem unknownMailboxCode (v : Word) : Statement (.unknownMailboxCode v) := ⟨by simp [encodeNat], fun _ => rfl⟩
theorem counterOverflow (c : Nat) (n : Nat) : Statement (.counterOverflow c n) := ⟨by simp [encodeNat], fun _ => rfl⟩
theorem drawBelowLimit : Statement .drawBelowLimit := ⟨by simp [encodeNat], fun _ => rfl⟩

end Sys2Proof.Laws.Encoded
end

