-- ==== Sys2Proof/Laws/Vector.lean ====
section
/-!
SUPPORT. The frame of a vector instruction: with no range bound and no stop set, a dispatched instruction acts on the active
units of its tile in ascending order and completes.
-/
namespace Sys2Proof.Machine

/-- The units from the starting element on that a mask lets act. -/
def Hart.todo (H : Hart) (n : Nat) (m : BitVec 3) : List Nat :=
  (List.range n).filter (fun i => decide (H.vec.estart.toNat ≤ i) && H.vec.active m i)

theorem filter_range_append (p : Nat → Bool) (a n : Nat) :
    (List.range (a + n)).filter p = (List.range a).filter p ++ ((List.range n).map (fun j => a + j)).filter p := by
  rw [List.range_add, List.filter_append]

theorem filter_range_above (p : Nat → Bool) (a n : Nat) (h : a ≤ n) :
    (List.range n).filter (fun i => decide (a ≤ i) && p i) = ((List.range (n - a)).map (fun j => a + j)).filter p := by
  obtain ⟨k, rfl⟩ := Nat.exists_eq_add_of_le h
  rw [filter_range_append]
  have e1 : (List.range a).filter (fun i => decide (a ≤ i) && p i) = [] := by
    rw [List.filter_eq_nil_iff]
    intro i hi
    have := List.mem_range.mp hi
    simp; omega
  rw [e1, List.nil_append, Nat.add_sub_cancel_left]
  apply List.filter_congr
  intro i hi
  obtain ⟨j, -, rfl⟩ := List.mem_map.mp hi
  simp

/-- A sweep without a stop whose units all act is a fold over the active ones. -/
theorem sweepLoop_fold (act : Nat → Bool) (elem : Nat → State → Res Unit) (f : Nat → State → State) (n i : Nat) (s : State)
    (hf : ∀ j t, elem j t = .ok () (f j t)) :
    sweepLoop act elem none n i s =
      .reached (i + n) ((((List.range n).map (fun j => i + j)).filter act).foldl (fun t j => f j t) s) := by
  induction n generalizing i s with
  | zero => rfl
  | succ n ih =>
    have e : (List.range (n + 1)).map (fun j => i + j) = i :: (List.range n).map (fun j => (i + 1) + j) := by
      rw [List.range_succ_eq_map, List.map_cons, List.map_map]
      simp only [Nat.add_zero, List.cons.injEq, true_and]
      apply List.map_congr_left
      intro j _; simp; omega
    rw [e]
    simp only [sweepLoop, hf]
    rw [if_neg (by simp)]
    cases ha : act i <;> simp [ha, ih, Nat.add_assoc, Nat.add_comm 1 n]

/-- Folding an effect on the vector state of one hart through the state. -/
theorem foldl_setVec (h : Nat) (f : Nat → VecState → VecState) (l : List Nat) (s : State) :
    let t := l.foldl (fun t j => t.setHart h { t.hart h with vec := f j (t.hart h).vec }) s
    t.hart h = { s.hart h with vec := l.foldl (fun V i => f i V) (s.hart h).vec } ∧
      ∀ X, t.setHart h X = s.setHart h X := by
  induction l generalizing s with
  | nil => exact ⟨rfl, fun _ => rfl⟩
  | cons j l ih =>
    obtain ⟨h1, h2⟩ := ih (s.setHart h { s.hart h with vec := f j (s.hart h).vec })
    constructor
    · rw [List.foldl_cons, h1, State.setHart_hart]; rfl
    · intro X; rw [List.foldl_cons, h2, State.setHart_setHart]

theorem Hart.consume_unbound {H : Hart} (hb : H.binds = []) (srcs : List (Nat × Bool)) : H.consume srcs = H := by
  unfold Hart.consume
  induction srcs with
  | nil => rfl
  | cons f t ih =>
    rw [List.foldl_cons]
    have : H.sourceBinding f.1 = none := by simp [Hart.sourceBinding, hb]
    simp only [this]; exact ih

theorem Hart.sourceRegs_unbound {H : Hart} (hb : H.binds = []) (srcs : List (Nat × Bool)) : H.sourceRegs srcs = H.vec.v := by
  unfold Hart.sourceRegs
  induction srcs with
  | nil => rfl
  | cons f t ih =>
    rw [List.foldl_cons]
    have : H.sourceBinding f.1 = none := by simp [Hart.sourceBinding, hb]
    simp only [this, Option.bind_none]; exact ih

theorem Hart.anyFault_unbound {H : Hart} (hb : H.binds = []) (srcs : List (Nat × Bool)) : H.anyFault srcs = false := by
  have : ∀ F, H.sourceBinding F = none := by intro F; simp [Hart.sourceBinding, hb]
  unfold Hart.anyFault; simp [this]

theorem Hart.sinkBinding_unbound {H : Hart} (hb : H.binds = []) (dst : Option Nat) : dst.bind H.sinkBinding = none := by
  have : ∀ F, H.sinkBinding F = none := by intro F; simp [Hart.sinkBinding, hb]
  cases dst <;> simp [this]

theorem prime_unbound {h : Nat} {s : State} (hb : (s.hart h).binds = []) (srcs : List (Nat × Bool)) :
    prime h srcs s = .ready s := by
  have : ∀ F, (s.hart h).sourceBinding F = none := by intro F; simp [Hart.sourceBinding, hb]
  induction srcs with
  | nil => rfl
  | cons f t ih => obtain ⟨F, w⟩ := f; simp only [prime, this]; exact ih

theorem emit_unbound {h : Nat} {s : State} (hb : (s.hart h).binds = []) (dst : Option Nat) (n : Option Nat) :
    emit h dst n s = s := by
  unfold emit; simp only [(s.hart h).sinkBinding_unbound hb]

theorem destFaults_unbound {h : Nat} {s : State} (hb : (s.hart h).binds = []) (dst : Option Nat) :
    destFaults h dst s = ([], s) := by
  unfold destFaults; simp only [(s.hart h).sinkBinding_unbound hb]

theorem sinkStalls_unbound {h : Nat} {s : State} (hb : (s.hart h).binds = []) (dst : Option Nat) :
    sinkStalls h dst s = false := by
  unfold sinkStalls; simp only [(s.hart h).sinkBinding_unbound hb]

theorem Hart.stopUnit_off {H : Hart} (ho : H.obs.stpa.getLsbD 63 = false) (n : Nat) : H.stopUnit n = none := by
  simp only [Hart.stopUnit, ho, Bool.false_and, Bool.false_eq_true, if_false]

/-- Where no vector access waits to be performed, none is forced. -/
theorem forceVaccs_none {h : Nat} {s : State} (hv : (s.hart h).vaccs = []) (f : VecAccess → Bool) : forceVaccs h f s = s := by
  simp [forceVaccs, hv]

/-- Where no vector access waits to be performed, no load is settled. -/
theorem settleLoads_none {h : Nat} {s : State} (hv : (s.hart h).vaccs = []) (f : Nat → Bool) : settleLoads h f s = s := by
  simp [settleLoads, hv]

/-- A dispatched instruction goes on to its own effect, with the older loads of its registers settled. -/
theorem dispatch_ready {h : Nat} {s : State} (word : Nat) (f : VecFields) (ok : Bool) (k : State → State)
    (h1 : (s.hart h).vec.vdirty.getLsbD 63 = false) (h2 : (s.hart h).vec.shapeOk (s.hart h).obs.prot = true)
    (h3 : (s.hart h).fieldsOk f = true) (h4 : ok = true) (h5 : (s.hart h).binds = []) :
    dispatch h word f ok s k = k (settleLoads h f.names s) := by
  unfold dispatch
  simp only [h1, h2, h3, h4, Bool.and_true, Bool.not_true, Bool.false_eq_true, if_false, prime_unbound h5,
    sinkStalls_unbound h5]

/-- A turn without a bound sweeps all the units and completes. -/
theorem sweep_whole {h n : Nat} {s : State} (srcs : List (Nat × Bool)) (m : BitVec 3) (elem : Nat → State → Res Unit)
    (g : Nat → State → State) (fin : State → State) (hl : s.limit = none) (ho : (s.hart h).obs.stpa.getLsbD 63 = false)
    (hf : ∀ j t, elem j t = .ok () (g j t)) :
    sweep h n srcs (fun i => (s.hart h).vec.active m i) elem fin s =
      let t := fin (((s.hart h).todo n m).foldl (fun t j => g j t) s)
      t.setHart h ((t.hart h).consume srcs).nextVector := by
  unfold sweep sweepNoting
  simp only [hl, Hart.stopUnit_off ho, sweepLoop_fold _ _ _ _ _ _ hf]
  by_cases hn : (s.hart h).vec.estart.toNat ≤ n
  · rw [if_neg (by omega)]
    rw [Hart.todo, filter_range_above _ _ _ hn]; rfl
  · rw [if_neg (by omega)]
    have e1 : n - (s.hart h).vec.estart.toNat = 0 := by omega
    have e2 : (s.hart h).todo n m = [] := by
      unfold Hart.todo
      rw [List.filter_eq_nil_iff]
      intro i hi
      have := List.mem_range.mp hi
      simp; omega
    rw [e1, e2]; rfl

/-- A computing instruction that is dispatched, with nothing bound: the state of its hart after the active units have
acted, from the state S in which the older loads of its registers are settled; on it fin completes the instruction. -/
theorem computing_whole {h : Nat} {s : State} (word : Nat) (f : VecFields) (ok : VecState → Bool → Bool) (v : VecEffect)
    (fin : Nat → State → State) (ha : s.agent = .vector h) (hl : s.limit = none)
    (h1 : (s.hart h).vec.vdirty.getLsbD 63 = false) (h2 : (s.hart h).vec.shapeOk (s.hart h).obs.prot = true)
    (h3 : (s.hart h).fieldsOk f = true) (h4 : ok (s.hart h).vec (s.hart h).obs.prot = true) (h5 : (s.hart h).binds = [])
    (ho : (s.hart h).obs.stpa.getLsbD 63 = false) :
    let S := settleLoads h f.names s
    let H := S.hart h
    ∃ t, t.hart h = { H with
        vec := (H.todo (H.vec.units (v.geo H.vec H.obs.prot)) v.mask).foldl (fun V i => v.eff H H.vec.v i V) H.vec } ∧
      (∀ X, t.setHart h X = S.setHart h X) ∧
      computing word f ok v fin s = (fin h t).setHart h (((fin h t).hart h).consume f.srcs).nextVector := by
  obtain ⟨w, hS⟩ := settleLoads_hart h f.names s
  have hl' := (settleLoads_limit h f.names s).trans hl
  have ho' : ((settleLoads h f.names s).hart h).obs.stpa.getLsbD 63 = false := by rw [hS]; exact ho
  have h5' : ((settleLoads h f.names s).hart h).binds = [] := by rw [hS]; exact h5
  have hd (ok : Bool) (k : State → State) (h4 : ok = true) := dispatch_ready (s := s) word f ok k h1 h2 h3 h4 h5
  clear hS
  unfold computing onVector
  simp only [ha, hd _ _ h4]
  generalize settleLoads h f.names s = S at *
  let H := S.hart h
  let eff (i : Nat) (V : VecState) : VecState := v.eff H H.vec.v i V
  let todo := H.todo (H.vec.units (v.geo H.vec H.obs.prot)) v.mask
  obtain ⟨e1, e2⟩ := foldl_setVec h eff todo S
  refine ⟨todo.foldl (fun t j => t.setHart h { t.hart h with vec := eff j (t.hart h).vec }) S, e1, e2, ?_⟩
  simp only [destFaults_unbound h5']
  rw [sweep_whole f.srcs v.mask _ (fun j t => t.setHart h { t.hart h with vec := eff j (t.hart h).vec }) _ hl' ho']
  · have hb : ((todo.foldl (fun t j => t.setHart h { t.hart h with vec := eff j (t.hart h).vec }) S).hart h).binds = [] := by
      rw [e1]; exact h5'
    show (fin h (emit h f.dst none _)).setHart h _ = _
    rw [emit_unbound hb]
  · intro j t
    simp only [unitStep, Hart.anyFault_unbound h5', Hart.sourceRegs_unbound h5']
    rfl

end Sys2Proof.Machine
end

