-- ==== Sys2Proof/Tests/Slice0.lean ====
section
/-!
SUPPORT. Tests: the words that the spec writes out, ill-formed terms, one step on small states, and for each statement a
state and operands that meet its hypotheses together.
-/
open Sys2Proof Sys2Proof.Machine
set_option Elab.async false

/-! ## The words that the spec writes out

Each expected instruction is the assembly text that stands beside the word in the spec; field by field as the entry's
encoding table gives it. -/

theorem test_decode_sub : decode 0x01C00001 = .ok (.sub 1 1 0 0 0) := rfl
theorem test_decode_mulhu : decode 0x0AD28381 = .ok (.mulhu 1 1 9 8 7) := rfl
theorem test_decode_srai : decode 0x00FE4188 = .ok (.srai 63 1 4 3) := rfl
theorem test_decode_lui : decode 0x048D1289 = .ok (.lui 0x48D1 5) := rfl
theorem test_decode_addi : decode 0x59E25282 = .ok (.addi 0x1678 1 5 5) := rfl
theorem test_decode_cmp : decode 0x02CA408B = .ok (.cmpLt 1 1 5 4 1) := rfl
theorem test_decode_kand : decode 0x00C4118D = .ok (.kand 1 1 2 1 3) := rfl
theorem test_decode_fadd : decode 0x00D8B510 = .ok (.faddD 1 1 12 11 10) := rfl
theorem test_decode_fmadd : decode 0x01062091 = .ok (.fmaddD 4 3 2 1) := rfl
theorem test_decode_branch : decode 0x000058A0 = .ok (.bK 5 1 1) := rfl
theorem test_decode_branch_back : decode 0xFFFFB8A0 = .ok (.bK (-5) 1 1) := rfl
theorem test_decode_load : decode 0x0086232E = .ok (.ldD 2 1 1 2 6) := rfl
theorem test_decode_store : decode 0x00C621B2 = .ok (.stW 3 1 1 2 3) := rfl
theorem test_decode_amo : decode 0x61CA41B4 = .ok (.amoAddD 3 1 1 5 4 3) := rfl
theorem test_decode_sbar : decode 0x008018B5 = .ok (.sbar 1 0x31) := rfl
theorem test_decode_fence : decode 0x00000236 = .ok (.fence 4) ∧ decode 0x000002B6 = .ok (.fence 5) := ⟨rfl, rfl⟩
theorem test_decode_group : decode 0x000183B7 = .ok (.gsync 3 7) ∧ decode 0x000603B7 = .ok (.garrive 4 7) ∧
    decode 0x000A03B7 = .ok (.gwait 4 7) := ⟨rfl, rfl, rfl⟩
theorem test_decode_crd : decode 0x00100238 = .ok (.crd 4 4) := rfl
theorem test_decode_cwr : decode 0x04167039 = .ok (.cwr 0x105 1 7 0) := rfl
theorem test_decode_system : decode 0x0300003B = .ok .tlbsync := rfl
theorem test_decode_queue : decode 0x0300003C = .ok .vdrain ∧ decode 0x0400023C = .ok (.vstat 4) := ⟨rfl, rfl⟩
theorem test_decode_vblk : decode 0x0000F03E = .ok (.vblk 15) := rfl
theorem test_decode_vint : decode 0x06A00440 = .ok (.vintAdd 1 1 2 16 0 8) := rfl
theorem test_decode_vfp : decode 0x16588443 = .ok (.vfpFmul 1 1 1 12 8 8) := rfl
theorem test_decode_vfma : decode 0x04100845 = .ok (.vfmaFmadd 0 16 8 0 16) := rfl
theorem test_decode_vcmp : decode 0x16064147 = .ok (.vcmpGLt 1 1 0 3 4 2) := rfl
theorem test_decode_mask : decode 0x320032C8 = .ok (.mpop 1 3 5) := rfl
theorem test_decode_reduce : decode 0x32408349 = .ok (.rfsum 1 1 8 6) ∧ decode 0x02004349 = .ok (.rsum 1 0 4 6) ∧
    decode 0x4A0041C9 = .ok (.rany 1 0 4 3) := ⟨rfl, rfl, rfl⟩
theorem test_decode_vcvt : decode 0x6216414A = .ok (.vcvt 0 1 4 0 1 0 11 4 2) := rfl
theorem test_decode_permute : decode 0x0604044B = .ok (.slideup 1 1 0 2 0 8) ∧ decode 0x4200884B = .ok (.trn 1 0 8 16) :=
  ⟨rfl, rfl⟩
theorem test_decode_vmem : decode 0x4268144C = .ok (.vmemLdx 0 2 6 16 1 8) := rfl
theorem test_decode_vbr : decode 0x000041CD = .ok (.vbr 4 0 3) := rfl
theorem test_decode_stream : decode 0x004AA84F = .ok (.vbind 1 5 10 16) := rfl
theorem test_decode_copy : decode 0x00D281D0 = .ok (.cpLay 1 1 9 8 3) ∧ decode 0x02EF61D0 = .ok (.cpGo 1 1 23 22 3) :=
  ⟨rfl, rfl⟩
theorem test_decode_task : decode 0x004041D1 = .ok (.tkPost 1 4 3) := rfl
theorem test_decode_event : decode 0x00CA4052 = .ok (.evSig 1 1 5 4 0) ∧ decode 0x01CE4352 = .ok (.evWait 1 1 7 4 6) :=
  ⟨rfl, rfl⟩
theorem test_decode_near : decode 0x004041D3 = .ok (.nbGo 1 4 3) ∧ decode 0x00406054 = .ok (.nqPush 1 6 0) := ⟨rfl, rfl⟩
theorem test_decode_near_thread : decode 0x010001D4 = .ok (.nqPop 0 3) ∧ decode 0x02000054 = .ok .nbSafe ∧
    decode 0x034463D4 = .ok (.nbMc 1 2 6 7) := ⟨rfl, rfl, rfl⟩
theorem test_decode_loop : decode 0x00CA4055 = .ok (.lpMark 1 1 5 4) ∧ decode 0x01000155 = .ok (.lpIter 2) := ⟨rfl, rfl⟩
theorem test_decode_pipe : decode 0x00CA41D7 = .ok (.plHash 1 1 5 4 3) := rfl
theorem test_decode_launch : decode 0x00CA41D8 = .ok (.go 1 1 5 4 3) ∧ decode 0x01407358 = .ok (.gq 1 7 6) := ⟨rfl, rfl⟩
theorem test_decode_accumulator : decode 0x00401459 = .ok (.accRd 1 1 8) := rfl
theorem test_refuse_opcode : decode 0x0000000E = .error .unassignedOpcode := rfl
theorem test_refuse_function : decode 0x17000001 = .error .unassignedFunction := rfl
theorem test_refuse_bits : decode 0x3E0C45C6 = .error .mustBeZero ∧ decode 0x3E0C4046 = .error .reservedCode := ⟨rfl, rfl⟩

/-! ## Ill-formed terms: one for each check of WellFormed, which refuses it -/

/-- A firmware image with nothing in it. -/
def blankImage : FirmwareImage := { body := [], digest := [], signature := [], key := [], svn := 0, part := 0, node := 0 }

theorem test_ill_formed_1 : ∀ i ∈ ([
    .branchConfirm 1024, .loadDataReturn 1024 0, .amoAddW 6 0 0 0 0 0, .amoAddD 6 0 0 0 0 0, .amoMinD 6 0 0 0 0 0,
    .amoMaxD 6 0 0 0 0 0, .amoMinuD 6 0 0 0 0 0, .amoMaxuD 6 0 0 0 0 0, .amoSwapD 6 0 0 0 0 0,
    .amoCasD 6 0 0 0 0 0, .amoFaddS 6 0 0 0 0 0, .amoFaddD 6 0 0 0 0 0, .amoReturn 1024 0, .sbar 6 0, .fence 6,
    .gsync 6 0, .garrive 6 0, .gwait 6 0, .groupArrivalSend 1024 0, .groupArrivalSend 0 4, .crd 0x006 0,
    .cwr 0x006 0 0 0, .idleWake 1024, .hartRetire 1024] : List Instr), i.wellFormed = false := by decide

theorem test_ill_formed_2 : ∀ i ∈ ([
    .blockInstanceBegin 1024, .streamChunkArrive 1024 0, .streamChunkArrive 0 16, .vcmpEq 0 0 0 0 0 0,
    .vcmpNe 0 0 0 0 0 0, .vcmpLt 0 0 0 0 0 0, .vcmpLe 0 0 0 0 0 0, .vcmpLtu 0 0 0 0 0 0, .vcmpLeu 0 0 0 0 0 0,
    .vcmpFeq 0 0 0 0 0 0, .vcmpFlt 0 0 0 0 0 0, .vcmpFle 0 0 0 0 0 0, .vcmpFun 0 0 0 0 0 0, .vcmpGEq 0 0 0 0 0 0,
    .vcmpGNe 0 0 0 0 0 0, .vcmpGLt 0 0 0 0 0 0, .vcmpGLe 0 0 0 0 0 0, .vcmpGLtu 0 0 0 0 0 0, .vcmpGLeu 0 0 0 0 0 0,
    .vcmpGFeq 0 0 0 0 0 0, .vcmpGFlt 0 0 0 0 0 0, .vcmpGFle 0 0 0 0 0 0, .vcmpGFun 0 0 0 0 0 0, .mand 0 0 0 0 0] : List Instr), i.wellFormed = false := by decide

theorem test_ill_formed_3 : ∀ i ∈ ([
    .mor 0 0 0 0 0, .mxor 0 0 0 0 0, .mnot 0 0 0, .mset 0, .mclr 0, .vcvt 0 0 6 0 0 0 0 0 0, .vmemLd 0 0 3 0 0,
    .vmemSt 0 0 3 0 0, .vmemLds 0 0 3 0 0 0, .vmemSts 0 0 3 0 0 0, .vmemLdx 0 0 3 0 0 0, .vmemStx 0 0 3 0 0 0,
    .vmemLdl 0 0 3 0 0, .vmemStl 0 0 3 0 0, .vmemLdff 0 1 3 0 0, .vmemLdff 0 0 4 0 0, .vmemAmoadd 0 0 3 0 0 0,
    .copyAccept 1024 0, .copyAccept 0 32, .copyElement 1024 0 0, .copyElement 0 32 0, .copyComplete 1024 0,
    .copyComplete 0 32, .taskIssue 256 0] : List Instr), i.wellFormed = false := by decide

theorem test_ill_formed_4 : ∀ i ∈ ([
    .taskIssue 0 2, .taskComplete 4 0, .taskAging 4 0, .eventUpdateApply 1024 0, .nbJobStart 512,
    .nqLoadFill 512 0, .nqLoadFill 0 16, .nbJobEnd 512, .nbProgressWatchdog 512, .nbSafePointWatchdog 512,
    .channelResetComplete 512, .dramRefreshDue 8, .templateVerdict 1024, .replayIteration 1024,
    .replayDeparture 1024 0, .replayDeparture 0 8, .replayComplete 1024, .journalAck 16 0,
    .mirrorRecordWrite 16 0 0 [], .mirrorRecordWrite 0 16 0 [], .truncationAck 1024 0, .truncationAck 0 16,
    .launchDoorbell 64 0, .dbstatWrite 64 0] : List Instr), i.wellFormed = false := by decide

theorem test_ill_formed_5 : ∀ i ∈ ([
    .launchHeadCheck 64, .lqcfgWrite 1024 0 0, .lqcfgWrite 0 64 0, .trapEntry 1024, .preqRequest 1024 0,
    .preqResume 1024 0, .ximgSave 1024 0, .xldLoad 1024 0, .cparkOffer 1024 0, .flagRestoreWrite 1024 0 0,
    .vectorShapeWrite 1024 0 0, .protWrite 1024 0, .evbaseWrite 1024 0, .accpsnWrite 1024 0, .jrcfgWrite 1024 0,
    .jrcandWrite 1024 0 0, .jrcandWrite 0 4 0, .ltermWrite 1024 0, .rtcoreWrite 1024 0, .rtqPop 1024,
    .rtmigGo 1024 0, .rtmigEnd 1024 0, .elstatClear 1024 0, .pmcWrite 1024 0 0] : List Instr), i.wellFormed = false := by decide

theorem test_ill_formed_6 : ∀ i ∈ ([
    .pmcWrite 0 8 0, .energyWrite 1024 0, .smpcfgWrite 1024 0 0, .sampleTraceAcquireRead 1024 0,
    .sampleRecordWrite 1024, .traceRecordWrite 1024, .stopFire 1024, .genericRegisterWrite 1024 0 0,
    .registerParityReplay 1024 0, .registerParityReplay 0 65536, .laneReexecute 1024 0 0, .laneReexecute 0 71 0,
    .laneReexecute 0 0 2048, .protectedModeMismatch 1024 0, .protectedModeMismatch 0 128, .scrubRead 15 0,
    .cxlMemRequest 0 [] 65, .flitReceive 16 [], .peerMessageReceive 16 0 0 0 0 [],
    .peerMessageReceive 0 13 0 0 0 [], .keyEpochChange 16, .idleFlitSend 16, .portLivenessExpiry 16,
    .portTrainUp 16 0 0] : List Instr), i.wellFormed = false := by decide

theorem test_ill_formed_7 : ∀ i ∈ ([
    .portTrainUp 0 65536 0, .portTrainUp 0 0 9, .inboundRequest 16 0 0 0 [], .inboundRequest 0 12 0 0 [],
    .inboundRequest 0 0 0 65 [], .remoteResponse 1024 0 0, .remoteResponse 0 0 3,
    .hostSnoop ⟨0, List.replicate 65 0⟩, .stackTraining 8 0, .stackTraining 0 2, .reply 65536 [], .hostLinkTrained 17,
    .counterOverflow 0 8] : List Instr), i.wellFormed = false := by decide


/-! ## Small states -/

/-- Hart 0 stands at 0x1000 with the registers of a list written, and its scalar stream acts. -/
def testHart (rs : List (BitVec 5 × Word)) : Hart :=
  { Hart.initial with
    status := .running
    pc := 0x1000
    regs := rs.foldl (fun R r => R.writeS r.1 r.2) ScalarRegs.initial }

/-- A state of that hart. -/
def testState (H : Hart) : State := { State.reset.setHart 0 H with agent := .scalar 0 }

/-- The next state of an outcome, or reset when there is none. -/
def nextOf (o : Out) : State :=
  match o with
  | .next t => t
  | _ => State.reset

/-- What register r of hart 0 holds after instruction i on that hart. -/
noncomputable def regAfter (i : Instr) (r : BitVec 5) (rs : List (BitVec 5 × Word)) : Word :=
  ((nextOf (exec i (testState (testHart rs)))).hart 0).regs.readS r

/-- A result is ok, with a value and a state that p accepts. -/
def okWith {α : Type} (r : Res α) (p : α → State → Bool) : Bool :=
  match r with
  | .ok x s => p x s
  | .trap _ _ _ => false

theorem exists_of_okWith {α : Type} {r : Res α} {p : α → State → Bool} (h : okWith r p = true) :
    ∃ x s, r = .ok x s ∧ p x s = true := by
  cases r with
  | ok x s => exact ⟨x, s, rfl, h⟩
  | trap c t s => simp [okWith] at h

/-- The same for a trap. -/
def trapWith {α : Type} (r : Res α) (p : Nat → Word → State → Bool) : Bool :=
  match r with
  | .ok _ _ => false
  | .trap c t s => p c t s

theorem exists_of_trapWith {α : Type} {r : Res α} {p : Nat → Word → State → Bool} (h : trapWith r p = true) :
    ∃ c t s, r = .trap c t s ∧ p c t s = true := by
  cases r with
  | ok x s => simp [trapWith] at h
  | trap c t s => exact ⟨c, t, s, rfl, h⟩

/-! ## One step on a small state

The values are calculated by hand from the rule that stands beside each. -/

/-- R109: addition wraps. -/
theorem test_add_wraps : regAfter (.add 1 1 2 1 3) 3 [(1, 0xFFFFFFFFFFFFFFFF), (2, 2)] = 1 := by decide
/-- R14: a write to s0 is discarded. -/
theorem test_add_discards : regAfter (.add 1 1 2 1 0) 0 [(1, 5), (2, 2)] = 0 := by decide
/-- R109: the order of the operands. -/
theorem test_sub_order : regAfter (.sub 1 1 2 1 1) 1 [(1, 5), (2, 7)] = 0xFFFFFFFFFFFFFFFE := by decide
/-- R109: only the low six bits of the amount count. -/
theorem test_sll_amount : regAfter (.sll 1 1 2 1 3) 3 [(1, 1), (2, 65)] = 2 := by decide
/-- R109: an arithmetic shift keeps the sign. -/
theorem test_sra_sign : regAfter (.sra 1 1 2 1 3) 3 [(1, 0x8000000000000000), (2, 63)] = 0xFFFFFFFFFFFFFFFF := by decide
/-- R109: the high half of a signed product: -1 times -1. -/
theorem test_mulh : regAfter (.mulh 1 1 2 1 3) 3 [(1, 0xFFFFFFFFFFFFFFFF), (2, 0xFFFFFFFFFFFFFFFF)] = 0 := by decide
/-- R109: the high half of an unsigned product of the same bits. -/
theorem test_mulhu : regAfter (.mulhu 1 1 2 1 3) 3 [(1, 0xFFFFFFFFFFFFFFFF), (2, 0xFFFFFFFFFFFFFFFF)]
    = 0xFFFFFFFFFFFFFFFE := by decide
/-- R109: division by zero gives all ones. -/
theorem test_div_zero : regAfter (.div 1 1 2 1 3) 3 [(1, 7), (2, 0)] = 0xFFFFFFFFFFFFFFFF := by decide
/-- R109: -7 divided by 2 truncates towards zero. -/
theorem test_div_truncates : regAfter (.div 1 1 2 1 3) 3 [(1, 0xFFFFFFFFFFFFFFF9), (2, 2)] = 0xFFFFFFFFFFFFFFFD := by decide
/-- R109: the remainder has the sign of the dividend. -/
theorem test_rem_sign : regAfter (.rem 1 1 2 1 3) 3 [(1, 0xFFFFFFFFFFFFFFF9), (2, 2)] = 0xFFFFFFFFFFFFFFFF := by decide
/-- R109: the remainder by zero is the dividend. -/
theorem test_remu_zero : regAfter (.remu 1 1 2 1 3) 3 [(1, 9), (2, 0)] = 9 := by decide
/-- R109: the signed minimum. -/
theorem test_min_signed : regAfter (.min 1 1 2 1 3) 3 [(1, 1), (2, 0xFFFFFFFFFFFFFFFF)] = 0xFFFFFFFFFFFFFFFF := by decide
/-- R109: the unsigned minimum of the same bits. -/
theorem test_minu : regAfter (.minu 1 1 2 1 3) 3 [(1, 1), (2, 0xFFFFFFFFFFFFFFFF)] = 1 := by decide
/-- R109: clz of zero is 64. -/
theorem test_clz_zero : regAfter (.clz 1 1 3) 3 [] = 64 := by decide
/-- R110: the worked pair of R111: lui 0x48D1 gives 0x12344000, and addi 0x1678 completes 0x12345678. -/
theorem test_lui : regAfter (.lui 0x48D1 5) 5 [] = 0x12344000 := by decide
theorem test_addi : regAfter (.addi 0x1678 1 5 5) 5 [(5, 0x12344000)] = 0x12345678 := by decide
/-- R110: the immediate is sign-extended. -/
theorem test_xori_sign : regAfter (.xori 0x3FFF 1 4 3) 3 [(4, 0xF0)] = 0xFFFFFFFFFFFFFF0F := by decide
/-- R112: a signed comparison writes its condition bit. -/
theorem test_cmp_lt : ((nextOf (exec (.cmpLt 1 1 2 1 4) (testState (testHart [(1, 0xFFFFFFFFFFFFFFFF), (2, 1)])))).hart
    0).regs.readK 4 = true := by decide
/-- R14: k0 stays 1. -/
theorem test_k0 : ((nextOf (exec (.cmpLt 1 1 2 1 0) (testState (testHart [(1, 1), (2, 0)])))).hart 0).regs.readK 0 = true := by
  decide
/-- R114: 1.5 + 2.25 = 3.75. -/
theorem test_fadd : regAfter (.faddD 1 1 2 1 3) 3 [(1, 0x3FF8000000000000), (2, 0x4002000000000000)]
    = 0x400E000000000000 := by decide
/-- R115, R133: 1 divided by 3 is inexact and rounds down; NX is bit 0 of fst. -/
theorem test_fdiv : regAfter (.fdivD 1 1 2 1 3) 3 [(1, 0x3FF0000000000000), (2, 0x4008000000000000)]
    = 0x3FD5555555555555 := by decide
/-- R118: jal leaves pc + 4 and goes to pc + 4 times the immediate. -/
theorem test_jal : (let H := (nextOf (exec (.jal 16 31) (testState (testHart [])))).hart 0; (H.pc, H.regs.readS 31))
    = (0x1040, 0x1004) := by decide
/-- R118: jalr reads its register before it writes the same one. -/
theorem test_jalr_same : (let H := (nextOf (exec (.jalr 8 1 5 5) (testState (testHart [(5, 0x2000)])))).hart 0
    (H.pc, H.regs.readS 5)) = (0x2008, 0x1004) := by decide
/-- R117: b.nk k0 is never taken. -/
theorem test_never : ((nextOf (exec (.bNk 5 0 0) (testState (testHart [])))).hart 0).pc = 0x1004 := by decide
/-- R200, R121, R119: a byte stored in the core scratchpad comes back sign-extended when its load returns. -/
theorem test_store_load :
    (let t := nextOf (exec (.stB 0 0 1 1 2) (testState (testHart [(1, 0xFFF10000000010), (2, 0x180)])))
     let u := nextOf (exec (.ldB 0 0 1 1 3) { t with agent := .scalar 0 })
     let v := nextOf (exec (.loadDataReturn 0 1) u)
     ((u.hart 0).regs.isEmptyS 3, (v.hart 0).regs.readS 3)) = (true, 0xFFFFFFFFFFFFFF80) := by decide
/-- R15, R102: an empty source under hold 0 traps with cause 0x03 and the register's number. -/
theorem test_empty_source :
    (let H := { testHart [] with regs := (testHart []).regs.markS 7, trap := { TrapRegs.initial with tvec := 0x4000 } }
     let t := (nextOf (exec (.add 0 0 1 7 3) (testState H))).hart 0
     (t.pc, t.trap.tcause, t.trap.tval, t.plev, t.trap.tpc)) = (0x4000, 0x03, 7, 1, 0x1000) := by decide
/-- R127: trap leaves its code in tval and the address behind it in tpc. -/
theorem test_trap : (let t := (nextOf (exec (.trap 0x12345) (testState (testHart [])))).hart 0
     (t.trap.tcause, t.trap.tval, t.trap.tpc, t.trap.ts)) = (0x0C, 0x12345, 0x1004, true) := by decide
/-- R7, R127: tret at user level traps with cause 0x13. -/
theorem test_tret_user : ((nextOf (exec .tret (testState (testHart [])))).hart 0).trap.tcause = 0x13 := by decide
/-- R126: cwr gives the old value and writes the new one. -/
theorem test_cwr : (let t := (nextOf (exec (.cwr 0x005 1 1 2) (testState { testHart [(1, 9)] with swake := 4 }))).hart 0
     (t.regs.readS 2, t.swake)) = (4, 9) := by decide
/-- R99: hslot is the hart's slot in its core. -/
theorem test_crd_hslot : regAfter (.crd 0x011 2) 2 [] = 0 := by decide

/-! ## Witnesses: concrete states and operands that meet the hypotheses of each statement together -/

/-- Context 0 with one page of 256 MiB from virtual address 0 on, whose leaf is given; the core's records lie in its scratchpad. -/
def leafCells (leaf : Nat) : List Host.Cell :=
  [(0x100000, 0x101000), (0x100008, 1), (0x101000, 0x102001), (0x102000, 0x103001), (0x103000, 0x104001), (0x104000, leaf)].foldl
    (fun (c : List Host.Cell) (e : Nat × Nat) => writeLE c e.1 8 e.2) []

/-- The state s over that page. -/
def onLeaf (leaf : Nat) (s : State) : State :=
  { s.setMem { s.mm with cells := leafCells leaf } with trust := { s.trust with ctxbase := 0x100000 } }

/-- Over a page at physical address 0, readable, writable and executable, N = 1, that holds the table. -/
def pageCells : List Host.Cell := leafCells 0x440000000000003B
def onPages (s : State) : State := onLeaf 0x440000000000003B s

/-- The leaf of such a page in host memory, cached or not, and of one at peer 0 (R204, R214). -/
abbrev hostLeaf (uncached : Bool) : Nat := 0x140100000000003B + (if uncached then 0x800000000000000 else 0)
abbrev peerLeaf : Nat := 0x040200000000003B

/-- The small state, with nothing pending. -/
abbrev calm : State := testState (testHart [(1, 0xFFF10000000040), (2, 7)])

/-- Its near-bank unit 3 runs a job of two words, thread x acting. -/
def nearState (x : Bool) : State :=
  { calm.setUnit 3 { NbUnit.initial with jobs := [{ jobAtWord 0 with code := [0, 0] }] } with agent := .nearBank 3 x }

theorem witness_IntegersComplete : calm.agent = .scalar 0 ∧ (calm.hart 0).full [1, 2, 3] [] ∧
    (nearState true).agent = .nearBank 3 true ∧ (nearState true).threadOf 3 true { jobAtWord 0 with code := [0, 0] } :=
  ⟨by decide, by unfold Hart.full; decide, rfl, rfl, rfl⟩
theorem witness_ConditionBitsComplete : calm.agent = .scalar 0 ∧ (calm.hart 0).full [1] [7] ∧ (calm.hart 0).full [31] [] ∧
    (calm.hart 0).full [] [1, 2, 7] ∧ (nearState false).threadOf 3 false { jobAtWord 0 with code := [0, 0] } :=
  ⟨by decide, by unfold Hart.full; decide, by unfold Hart.full; decide, by unfold Hart.full; decide, rfl, rfl⟩
/-- The second hart rounds stochastically, with nothing in its vector queue. -/
theorem witness_FloatsComplete : (calm.hart 0).frm ≠ 4 ∧ (calm.hart 0).full [1, 2, 3, 31] [7] ∧
    (let H := { testHart [] with frm := 4 }; H.vectorIdle = true ∧ H.full [1, 2, 3] []) := by
  unfold Hart.full; decide

/-- A hart whose k1 is empty, before n unconfirmed branches, the oldest of them resolved against its prediction. -/
def branchHart (n : Nat) : Hart :=
  { testHart [] with
    regs := (testHart []).regs.markK 1
    checks := List.replicate n { branchPc := 0x800, otherPc := 0x804, k := 1, takenIf := true, predicted := true,
                                 value := some false, regs := ScalarRegs.initial, nextId := 0, trNum := 0 } }
theorem witness_BranchesResolve : (calm.hart 0).full [] [7] ∧
    (branchHart 3).regs.isEmptyK 1 = true ∧ (branchHart 3).checks.length < 4 ∧ 4 ≤ (branchHart 4).checks.length ∧
    (∃ c rest, (branchHart 1).checks = c :: rest ∧ c.value = some false ∧ ¬(false = c.takenIf ↔ c.predicted = true)) ∧
    (nearState true).threadOf 3 true { jobAtWord 0 with code := [0, 0] } :=
  ⟨by unfold Hart.full; decide, by decide, by decide, by decide, ⟨_, _, rfl, rfl, by decide⟩, rfl, rfl⟩
/-- The near-bank jump's least and greatest targets are 0 and 1. -/
theorem witness_JumpsComplete : (calm.hart 0).full [1, 2] [] ∧ ((calm.hart 0).regs.readS 1 + (8 : BitVec 14).signExtend 64).toNat % 4 = 0 ∧
    (∀ i : BitVec 20, i = 0 ∨ i = 1 → let j : Int := (0 : Nat) + i.toInt; 0 ≤ j ∧ j < (2 : Nat)) ∧
    (nearState false).threadOf 3 false { jobAtWord 0 with code := [0, 0] } ∧ Claims.mayTrap (calm.hart 0) ∧
    ((calm.hart 0).regs.readS 1 + (6 : BitVec 14).signExtend 64).toNat % 4 ≠ 0 :=
  ⟨by unfold Hart.full; decide, by decide, by intro i h; rcases h with rfl | rfl <;> decide, ⟨rfl, rfl⟩, by unfold Claims.mayTrap; decide, by decide⟩
/-- The small state beyond one unconfirmed branch. -/
abbrev branchState : State := testState { branchHart 1 with regs := (calm.hart 0).regs }
theorem witness_LoadsIssue :
    (∃ l s1, calm.agent = .scalar 0 ∧ (calm.hart 0).full [1, 2] [] ∧
      Claims.address (calm.hart 0) 1 1 8 = 0xFFF10000000048 ∧ Claims.freeToAccess (calm.hart 0) 0xFFF10000000048 8 1 ∧
      access (calm.who 0) (0xFFF10000000048 : Word).toNat 8 .read calm = .ok l s1) ∧
    ∃ l s1, (branchState.hart 0).full [1, 2] [] ∧ (branchState.hart 0).settled = false ∧
      (branchState.hart 0).copyStalls (fun _ => true) 0xFFF10000000048 8 = false ∧
      (branchState.hart 0).owes (onStream 1) = false ∧
      specLoad 0 (0xFFF10000000048 : Word).toNat 8 branchState = some (l, s1) ∧
      (branchState.hart 0).replayHoldsLoc 0 l branchState = false :=
  ⟨⟨_, _, by decide, by unfold Hart.full; decide, by decide, by unfold Claims.freeToAccess; decide, rfl⟩,
    ⟨_, _, by unfold Hart.full; decide, by decide, by decide, by decide, rfl, by decide⟩⟩

/-- The small state with a store of 9 pending at an address of the core scratchpad. -/
abbrev storeState : State := nextOf (exec (.stB 0 0 1 1 2) calm)
theorem witness_StoresComplete :
    (∃ l s1, (calm.hart 0).full [1, 2] [] ∧ Claims.freeToAccess (calm.hart 0) 0xFFF10000000048 8 1 ∧
      access (calm.who 0) (0xFFF10000000048 : Word).toNat 8 .write calm = .ok l s1) ∧
    ∃ p, (storeState.hart 0).loads = [p] ∧ p.kind = .store ∧ p.due = true ∧ storeState.resetting = false ∧
      ∀ e ∈ storeState.harts, some 0 ≠ some e.1 → e.2.loop.st ≠ 3 :=
  ⟨⟨_, _, by unfold Hart.full; decide, by unfold Claims.freeToAccess; decide, rfl⟩,
    ⟨_, rfl, by decide, by decide, by decide, by decide⟩⟩

/-- The small state with poison at that address. -/
abbrev poisonState : State := calm.setMem (addPoison calm.mm (scratchKey 0 0x40) 8)
theorem witness_AtomicsIssue : ∃ l s1, (calm.hart 0).full [1, 2, 3] [] ∧ Claims.freeToAccess (calm.hart 0) 0xFFF10000000040 8 0 ∧
    accessBy (calm.who 0) (0xFFF10000000040 : Word).toNat 8 .amo calm = .ok l s1 ∧ l.peer = none ∧
    (l.uncached && isHostPa l.key) = false ∧ poisonedLoc l (forceLoads 0 (onStream 0) s1) = false ∧
    ∃ l2 s2, accessBy (calm.who 0) (0xFFF10000000040 : Word).toNat 8 .amo poisonState = .ok l2 s2 ∧
      poisonedLoc l2 (forceLoads 0 (onStream 0) s2) = true :=
  ⟨_, _, by unfold Hart.full; decide, by unfold Claims.freeToAccess; decide, rfl, by decide, by decide, by decide,
    ⟨_, _, rfl, by decide⟩⟩
/-- The word at 0x40 in a page of the host or of a peer, whose link is up. -/
abbrev farHart : Hart := testHart [(1, 0x40), (2, 7)]
abbrev farState (leaf : Nat) : State :=
  { onLeaf leaf (testState farHart) with
    links := { calm.links with hostUp := true }
    ports := calm.ports.set 0 { Port.initial with up := true, peer := 5 } }
theorem witness_AtomicsIssue_far :
    ((farState peerLeaf).hart 0).full [1, 2, 3] [] ∧ Claims.freeToAccess ((farState peerLeaf).hart 0) 0x40 8 0 ∧
    Claims.freeToAccess ((farState (hostLeaf true)).hart 0) 0x40 8 0 ∧
    (∃ l s1, accessBy ((farState (hostLeaf true)).who 0) 0x40 8 .amo (farState (hostLeaf true)) = .ok l s1 ∧
      (l.uncached && isHostPa l.key && decide ((s1.hart 0).settled = true ∧ (s1.hart 0).trapWaits = false ∧
        (s1.hart 0).trap.ts = false)) = true) ∧
    ∃ l s1, accessBy ((farState peerLeaf).who 0) 0x40 8 .amo (farState peerLeaf) = .ok l s1 ∧
      (!(l.uncached && isHostPa l.key) && l.peer.isSome) = true := by
  refine ⟨by unfold Hart.full; decide +kernel, by unfold Claims.freeToAccess; decide +kernel,
    by unfold Claims.freeToAccess; decide +kernel, exists_of_okWith (by decide +kernel), exists_of_okWith (by decide +kernel)⟩

/-- A hart with one pending access of a kind, at a peer or with its value known. -/
def pendingHart (k : PendKind) (remote : Bool) : Hart :=
  (testHart []).push
    { id := 0, kind := k, dst := 3, ea := 0xFFF10000000040, signed := false, stream := 0,
      loc := ⟨scratchKey 0 0x40, 8, 0, 8, none, none, 0, 0, false, false, false, false, false, false⟩, remote := remote,
      op := 1, data := 5, cmp := 0, value := if remote then none else some 9, poison := false, err := false }
theorem witness_AnswersReturn :
    (∃ p, (pendingHart .load false).loads[0]? = some p ∧ p.remote = false ∧ p.value = some 9 ∧ p.poison = false ∧
      p.err = false ∧ p.kind = .load) ∧
    (∃ p, (pendingHart .amo false).loads[0]? = some p ∧ p.remote = false ∧ p.value = some 9 ∧ p.kind = .amo) ∧
    (∃ p, (pendingHart .store true).loads[0]? = some p ∧ p.remote = true ∧ p.kind = .store) ∧
    (∃ p, (pendingHart .amo true).loads[0]? = some p ∧ p.remote = true ∧ p.kind = .amo ∧ poisonedLoc p.loc calm = false ∧
      poisonedLoc p.loc poisonState = true) ∧
    (let H := { pendingHart .load true with loads := (pendingHart .load true).loads.map (fun p => { p with remote := false }) }
     (∃ p, H.loads[0]? = some p ∧ p.remote = false ∧ p.value = none ∧ p.kind = .load ∧ H.owes p.upTo = false ∧
        (testState H).undisturbed (some 0)) ∧
     ∀ (m n : Nat) (p q : PendingLoad), H.loads[m]? = some q → H.loads[n]? = some p → m = n) ∧
    (∃ p, (pendingHart .load true).loads[0]? = some p ∧ p.remote = true ∧ p.kind = .load) ∧
    (let l := (pendingHart .load true).loads ++ (pendingHart .store true).loads
     ∃ p, l[1]? = some p ∧ p.remote = true ∧ ∃ q ∈ l.take 1, q.stream = p.stream ∧ q.remote = true) ∧
    (let l := (pendingHart .store false).loads ++ (pendingHart .store true).loads
     ∃ p, l[1]? = some p ∧ p.remote = true ∧ ∀ q ∈ l.take 1, q.stream = p.stream → q.remote = false) ∧
    ∃ c, ({ testHart [] with cmds := [⟨0, 3, .ready 9⟩] } : Hart).cmds[0]? = some c ∧ c.on = .ready 9 := by
  refine ⟨⟨_, rfl, by decide +kernel⟩, ⟨_, rfl, by decide +kernel⟩, ⟨_, rfl, by decide +kernel⟩, ⟨_, rfl, by decide +kernel⟩,
    ⟨⟨_, rfl, by unfold State.undisturbed; decide +kernel⟩, ?_⟩, ⟨_, rfl, by decide +kernel⟩,
    ⟨_, rfl, by decide +kernel⟩, ⟨_, rfl, by decide +kernel⟩, ⟨_, rfl, rfl⟩⟩
  intro m n p q hm hn
  have hm' := (List.getElem?_eq_some_iff.mp hm).1
  have hn' := (List.getElem?_eq_some_iff.mp hn).1
  simp only [List.length_map, pendingHart, Hart.push, testHart] at hm' hn'
  simp [Hart.initial] at hm' hn'
  omega
theorem witness_BarriersComplete : (calm.hart 0).settled = true ∧ (calm.hart 0).owes (fun _ => true) = false ∧
    (pendingHart .load true).settled = true ∧ (pendingHart .load true).owes (fun p => (1 : BitVec 16).getLsbD p.stream) = true := by
  decide

/-- The small state at kernel level, after h. -/
def kernelHart (H : Hart) : Hart := { H with plev := 1 }

/-- A state whose hart may fetch and load at 0x10000, through the page tables of a placed word. -/
noncomputable def pagedState : State := State.reset.withFetchWord 32 0x00CA5201

set_option maxRecDepth 4000 in
theorem witness_MaintenanceCompletes :
    ((pagedState.hart 0).full [0] [] ∧ (pagedState.hart 0).settled = true ∧
      (pagedState.hart 0).owes (onStream 0) = false ∧
      ∃ l s1, access (pagedState.who 0) 0x10040 1 .read pagedState = .ok l s1 ∧ l.phys = true) ∧
    (kernelHart (testHart [])).settled = true ∧ 1 ≤ (kernelHart (testHart [])).plev.toNat ∧ (kernelHart (testHart [])).invs = [] ∧
    ({ kernelHart (testHart []) with invs := [0] } : Hart).invs ≠ [] ∧
    (let s := calm.setMem { calm.mm with invs := [⟨0, 0, 5, 0⟩] }
     ∃ i, s.mm.invs[0]? = some i ∧ i.outstanding s = false ∧ s.specWaits i.ctx = false) ∧
    (let s := (testState (pendingHart .load true)).setMem { calm.mm with invs := [⟨0, 0, 0, 0xFFF10000000000⟩] }
     ∃ i, s.mm.invs[0]? = some i ∧ i.outstanding s = true) :=
  ⟨⟨by unfold Hart.full; decide, by decide, by decide,
      exists_of_okWith (p := fun (l : Loc) (_ : State) => l.phys) (by decide +kernel)⟩, by decide, by decide, by decide, by decide,
    ⟨_, rfl, by decide⟩, ⟨_, rfl, by decide +kernel⟩⟩
theorem witness_TrapAndBreakEnter : calm.agent = .scalar 0 ∧ Claims.mayTrap (calm.hart 0) := by
  unfold Claims.mayTrap; decide

/-- One hart for each asynchronous cause, with nothing of higher priority pending. -/
def causeHart (n : Nat) : Hart :=
  let H := testHart []
  match n with
  | 0 => { H with mcheck := some 5 }
  | 1 => { H with trap := { H.trap with prq := true } }
  | 2 => { H with chans := H.chans.set 31 { Channel.initial with fault := some (0x06, 0x2000) } }
  | 3 => { H with taskFaults := [(0x06, 1, 0x3000)] }
  | 4 => { H with loadTraps := [⟨0x0E, 0x4000, 3, false⟩] }
  | 6 => { H with handBack := some (0x11, 0x1800) }
  | 7 => { H with trap := { H.trap with prq := true }, status := .waiting .idle }
  | _ => { H with handBack := some (0x0F, 0x1800) }
theorem witness_AsynchronousEntry :
    (∀ n ∈ List.range 5, (causeHart n).status = .running ∧ Claims.mayTrap (causeHart n) ∧ (causeHart n).handBack = none) ∧
    (∀ n ∈ [5, 6], Claims.mayTrap (causeHart n) ∧ (causeHart n).mayPreempt = false ∧ (causeHart n).vectorIdle = true ∧
      ((causeHart n).handedBack 0x1800).trapWaits = false) ∧
    (causeHart 5).handBack = some (0x0F, 0x1800) ∧ (causeHart 6).handBack = some (0x11, 0x1800) ∧
    (Claims.mayTrap (causeHart 7) ∧ (causeHart 7).mcheck = none ∧ (causeHart 7).mayPreempt = true ∧
      (causeHart 7).status = .waiting .idle) ∧
    (causeHart 0).mcheck = some 5 ∧
    ((causeHart 1).mcheck = none ∧ (causeHart 1).mayPreempt = true) ∧
    ((causeHart 2).mayPreempt = false ∧ firstCopyFault (causeHart 2) = some (31, 0x06, 0x2000)) ∧
    (firstCopyFault (causeHart 3) = none ∧ (causeHart 3).taskFaults = [(0x06, 1, 0x3000)]) ∧
    firstCopyFault (causeHart 4) = none ∧ (causeHart 4).taskFaults = [] ∧ (causeHart 4).loadTraps = [⟨0x0E, 0x4000, 3, false⟩] := by
  unfold Claims.mayTrap; decide

/-- In a trap at kernel level, with or without a frozen instance. -/
def inTrap (vf : Bool) : Hart :=
  let H := kernelHart (testHart [])
  { H with
    trap := { H.trap with ts := true, vf := vf, tva := vf, tpc := 0x2000 }
    vec := { H.vec with frozen := if vf then some ⟨1, [], 0, 0, 0, [], none⟩ else none } }
theorem witness_TrapReturnRestores : ∀ vf, (inTrap vf).settled = true ∧ 1 ≤ (inTrap vf).plev.toNat ∧
    (inTrap vf).vectorIdle = true ∧ (inTrap vf).trap.tpc.toNat % 4 = 0 ∧ (inTrap vf).trap.vf = vf := by decide

/-- Two harts in launch 0, members of group 7, hart 0 with membership 0. -/
def groupLaunch : Launch :=
  { fetchLaunch [] with
    harts := [0, 1], live := [0, 1], groups := [(7, { members := 3, arr := 0, held := 0, gen := 0 })] }
def groupState (H : Hart) : State :=
  (testState { H with place := { H.place with gmem := 0x100000007 } }).setLaunch 0 groupLaunch
theorem witness_WaitsAndHalts :
    (groupState (testHart [])).launchAt 0 = some groupLaunch ∧ (∃ g ∈ groupLaunch.live, g ≠ 0) ∧
    mayRetire 0 (groupState (testHart [])) = true ∧
    mayRetire 0 (groupState { testHart [] with trap := { TrapRegs.initial with vf := true } }) = false ∧
    ({ testHart [] with status := .waiting .halt } : Hart).status = .waiting .halt ∧
    (testHart []).swake.toNat ≤ (calm.cyc 0).toNat ∧
    Claims.mayTrap (causeHart 1) ∧ (causeHart 1).mayPreempt = true :=
  ⟨rfl, ⟨1, by decide, by decide⟩, by decide, by decide, rfl, Nat.zero_le _, by unfold Claims.mayTrap; decide, by decide⟩
/-- The last hart of a launch, over a page, with an arrival word or none. -/
def lastLaunch (at' : Nat) : Launch := { groupLaunch with record := BitVec.ofNat _ (at' * 2 ^ 320), harts := [0], live := [0] }
def lastState (at' : Nat) : State := onPages ((testState (testHart [])).setLaunch 0 (lastLaunch at'))
theorem witness_HaltRetires_last :
    (∀ a ∈ [0, 0x40], (∀ g ∈ (lastLaunch a).live, g = 0) ∧ (lastLaunch a).ending = false ∧ mayRetire 0 (lastState a) = true ∧
      (lastLaunch a).field 320 56 = a ∧
      (finishVaccs 0 (forceLoads 0 (fun p => p.kind == .store) (lastState a))).launchAt 0 = some (lastLaunch a)) ∧
    ∃ l t, accessBy ⟨0, (lastLaunch 0x40).field 116 12, (lastLaunch 0x40).level, none, .engine⟩ 0x40 8 .write (lastState 0x40) =
      .ok l t ∧ true = true :=
  ⟨by decide +kernel, exists_of_okWith (p := fun _ _ => true) (by decide +kernel)⟩
theorem witness_GroupsComplete :
    let s := groupState (testHart [])
    let H := s.hart 0
    H.settled = true ∧ H.membership 7 = some 0 ∧ H.pendAt 0 = none ∧ H.group.sent = false ∧ H.group.wo = false ∧
    s.hasArrived 0 7 = false ∧
    (let K := H.setPend 0 (some ⟨4, ⟨0, 0⟩, 0⟩)
     K.pendAt 0 = some ⟨4, ⟨0, 0⟩, 0⟩ ∧ K.trap.loaded = false ∧ K.reached ⟨0, 0⟩ = true ∧
       K.owes (fun q => decide (q.id < 0)) = false) ∧
    (∃ L G, s.launchAt H.place.launch = some L ∧ tfind L.groups (bits H.place.gmem 0 8) = some G) ∧
    (let t := s.setLaunch 0 { groupLaunch with groups := [(7, { members := 3, arr := 1, held := 0, gen := 0 })] }
     t.hasArrived 0 7 = true) :=
  ⟨by decide, by decide, by decide, by decide, by decide, by decide +kernel, by decide +kernel, ⟨_, _, rfl, rfl⟩, by decide +kernel⟩
theorem witness_RegisterReads :
    regLevels (0x005 : BitVec 12).toNat = some (0, 0) ∧ (calm.hart 0).full [1] [] ∧ (calm.hart 0).vectorIdle = true ∧
    regLevels (0x483 : BitVec 12).toNat = some (1, 1) ∧ (calm.hart 0).settled = true ∧ Claims.mayTrap (calm.hart 0) ∧
    regLevels (0x006 : BitVec 12).toNat = none ∧ (calm.hart 0).plev.toNat < 1 := by
  unfold Hart.full Claims.mayTrap; decide
theorem witness_RegisterWrites :
    (calm.hart 0).settled = true ∧ (calm.hart 0).full [1, 2] [] ∧ Claims.mayWrite (calm.hart 0) 0x005 ∧
    Claims.mayWrite (kernelHart (testHart [])) 0x100 ∧ Claims.mayWrite (kernelHart (testHart [])) 0x392 ∧
    (let H := kernelHart { testHart [] with vec := { VecState.initial with inst := some ⟨1, [], 0, 0, 0, [], none⟩ } }
     H.vectorIdle = false ∧ Claims.mayTrap H ∧ needsIdle 0x102 = true) ∧ (calm.hart 0).plev.toNat < 1 := by
  refine ⟨by decide, by unfold Hart.full; decide, ⟨⟨_, rfl, by decide⟩, by decide, by decide⟩,
    ⟨⟨_, rfl, by decide⟩, by decide, by decide⟩, ⟨⟨_, rfl, by decide⟩, by decide, by decide⟩, ?_, by decide⟩
  unfold Claims.mayTrap; decide

/-- The small state at kernel level. -/
abbrev kernelState : State := testState (kernelHart (testHart []))
theorem witness_RegisterEvents :
    1 ≤ (kernelState.hart 0).plev.toNat ∧ (kernelState.hart 0).vectorIdle = true ∧ Claims.mayWrite (kernelState.hart 0) 0x100 ∧
    (0 : Word).getLsbD 0 = (kernelState.hart 0).obs.prot ∧ (1 : Word).getLsbD 0 ≠ (kernelState.hart 0).obs.prot ∧
    (kernelState.hart 0).obs.smpcfg.getLsbD 63 = false ∧ kernelState.mm.mig.busy = false ∧ kernelState.journal.ref = false ∧
    (kernelState.journalAt kernelState.journal.sel.toNat).enabled = false ∧ kernelState.elsel.toNat % 16 < 10 ∧
    kernelState.handsOver 4 = false ∧ kernelState.launchOn 0 = none ∧
    (kernelState.setLaunch 0 (fetchLaunch [])).launchOn 0 = some 0 ∧
    (let s : State := { kernelState with trust := { kernelState.trust with modes := 0x10 } }
     s.handsOver 4 = true ∧ s.trust.hostq.length < 64 ∧
       64 ≤ ({ s.trust with hostq := List.replicate 64 ⟨1, 3, 0⟩ } : TrustState).hostq.length) ∧
    ({ kernelState.mm.mig with busy := true } : Migration).busy = true ∧ (2 ^ 62 : Word).getLsbD 62 = true ∧
    (let s := kernelState.setJournal 0 { Journal.initial with enabled := true }
     (s.journalAt s.journal.sel.toNat).enabled = true) ∧
    2 ≤ ({ testHart [] with plev := 2 } : Hart).plev.toNat := by
  refine ⟨by decide +kernel, by decide +kernel, ⟨⟨_, rfl, by decide +kernel⟩, by decide +kernel, by decide +kernel⟩, by decide +kernel, by decide +kernel, by decide +kernel, by decide +kernel, by decide +kernel,
    by decide +kernel, by decide +kernel, by decide +kernel, by decide +kernel, by decide +kernel, by decide +kernel, by decide +kernel, by decide +kernel, by decide +kernel, by decide +kernel⟩

/-- Kernel level, in a trap, the vector side idle: an image may be saved or loaded at an address in the core scratchpad. -/
abbrev trapState : State := testState (inTrap false)
theorem witness_ContextSwitching :
    1 ≤ (trapState.hart 0).plev.toNat ∧ (trapState.hart 0).owes (fun _ => true) = false ∧ (trapState.hart 0).trap.ts = true ∧
    (trapState.hart 0).trap.vf = false ∧ (trapState.hart 0).vectorIdle = true ∧ (∀ c : Fin 32, (trapState.hart 0).chans[c].copies = []) ∧
    (calm.hart 0).trap.ts = false := by decide

/-- A running block instance with every element on its path, of the shape that V has. -/
def runningInst : BlockInstance := ⟨BitVec.allOnes 16384, [], 0, 8, 2, [], none⟩

/-- A hart whose block instance runs at 0x8000 in format n, one row of four elements. -/
def vecHart (n : Nat) : Hart :=
  { testHart [(1, 0xFFF10000000040), (8, 16)] with
    vec := { VecState.initial with
      fmt := BitVec.ofNat 64 n, len := 4, rows := 1, vpc := 0x8000, inst := some runningInst
      g := Vector.replicate 8 0xFFF10000000040 } }

/-- Its vector stream acts. -/
abbrev vecState (n : Nat) : State := { testState (vecHart n) with agent := .vector 0 }

/-- A state whose L2 holds line 0, with its first sector dirty and the others clean. -/
def lineState : State :=
  let s := calm.setMem { calm.mm with l2 := [(0, ⟨3, 1, 0, 0, 0, 0, false⟩)] }
  { s with retire := { s.retire with scrub := Vector.replicate 6 1 } }

/-- A state whose hart may fetch and load at 0x10000, through the page tables of a placed word, and whose block instance
stands at that word w, dispatched at element 0, where a stop is set. -/
noncomputable def stopState (w : Nat) : State :=
  let s := State.reset.withFetchWord 32 w
  let H := s.hart 0
  s.setHart 0 { H with
    vec := { H.vec with inst := some runningInst, vpc := H.pc, len := 4, fmt := 2, armed := true }
    obs := { H.obs with stpa := 0x8000000000000000#64 ||| H.pc } }

/-- A hart whose queue has at its head a class Q entry with captures a and b. -/
def queueHart (a b : Word) : Hart :=
  { vecHart 2 with vec := { (vecHart 2).vec with
      inst := none, enq := ⟨1, 0⟩
      queue := [{ word := 0x00C062BC, a := a, b := b, g := Vector.replicate 8 0, scanS := 0, scanK := 0, binds := [] }] } }

/-- Its queue acts. -/
abbrev queueState (a b : Word) : State := { testState (queueHart a b) with agent := .queue 0 }

theorem witness_ErrorsArise :
    scrubUnit 6 64 = some 64 ∧ calm.retire.scrub[5] ≠ 0 ∧
    ({ calm.retire with scrub := calm.retire.scrub.set 5 0 } : RetireUnit).scrub[5] = 0 ∧
    tfind calm.mm.l2 0 = none ∧
    (∃ line, tfind lineState.mm.l2 (16 / 64) = some line ∧ line.valid.getLsbD (16 / 16 % 4) = true ∧ line.bad = 0 ∧
      line.dirty.getLsbD (16 / 16 % 4) = false ∧ lineState.retire.scrub[3] ≠ 0) ∧
    (∃ line, tfind lineState.mm.l2 (0 / 64) = some line ∧ line.dirty.getLsbD (0 / 16 % 4) = true) ∧
    (∃ line, tfind lineState.mm.l2 (32 / 64) = some line ∧ line.valid.getLsbD (32 / 16 % 4) = false) ∧
    (let H := { vecHart 2 with obs := { ObserveRegs.initial with prot := true } }
     H.alive = true ∧ H.vec.inst ≠ none ∧ H.obs.prot = true) ∧
    (let m : Migration := { calm.mm.mig with size := 0, busy := true, mw := 4032 }
     m.busy = true ∧ m.bytes ≤ m.mw + 64 ∧ ({ m with mw := 3968 } : Migration).mw + 64 < m.bytes) :=
  ⟨by decide, by decide, by decide, by decide, ⟨_, rfl, by decide⟩, ⟨_, rfl, by decide⟩, ⟨_, rfl, by decide⟩, by decide,
    by decide⟩
/-- The registers met as they are read: those of the instruction at pc, the entry of the queue, and the parts of the sources of
the instruction at vpc; a producer of this block has its buffer, another has not. -/
theorem witness_ErrorsMet :
    (pagedState.hart 0).alive = true ∧ (pagedState.hart 0).settled = true ∧
    (∃ r, r < 64 ∧ parityMet 0 r pagedState = true ∧ ∀ e ∈ (pagedState.hart 0).regs.replay, replayOf r ∉ e) ∧
    (let H := pagedState.hart 0
     let s := pagedState.setHart 0 { H with regs := H.regs.note [replayOf 5] }
     parityMet 0 5 s = true ∧ (s.hart 0).regs.replay.any (fun e => e.contains (replayOf 5)) = true) ∧
    (let H := { (stopState 0x06440441).hart 0 with obs := { ((stopState 0x06440441).hart 0).obs with prot := true } }
     let s := (stopState 0x06440441).setHart 0 H
     H.alive = true ∧ H.obs.prot = true ∧ H.vec.inst ≠ none ∧ groupComputed 0 0 s = true ∧ groupComputed 0 63 s = false) ∧
    parityMet 0 31 pagedState = false ∧ parityMet 0 (2 ^ 13) (queueState 8 0) = true ∧
    ((stopState 0x06440441).hart 0).vec.inst ≠ none ∧ consumes 0 0 0 (stopState 0x06440441) = true ∧
    consumes 0 0 63 (stopState 0x06440441) = false ∧ consumes 0 8 0 (stopState 0x06440441) = false ∧
    (vecHart 2).bufferStands 0 0 = false ∧
    ({ vecHart 2 with vec := { (vecHart 2).vec with made := ⟨1, 0⟩ } } : Hart).bufferStands 0 0 = true :=
  ⟨by decide +kernel, by decide +kernel, ⟨5, by decide, by decide +kernel, by decide +kernel⟩,
    by decide +kernel, by decide +kernel, by decide +kernel, by decide +kernel, by decide +kernel, by decide +kernel, by decide +kernel, by decide +kernel, by decide +kernel, by decide +kernel⟩

/-- A hart with a sample record and a trace record to write, its rings in the core scratchpad. -/
def recordHart (trcfg : Word) : Hart :=
  { testHart [] with
    obs := { ObserveRegs.initial with traces := [⟨1, 1, 0x1000, 0x2000, 0⟩], samples := [5], smpbase := 0xFFF10000000100, trbase := 0xFFF10000000200, trcfg := trcfg } }
theorem witness_RecordsAndStops :
    (calm.setCore 0 { calm.core 0 with pmsel := 0x0000010000000001 }).core 0 = { calm.core 0 with pmsel := 0x0000010000000001 } ∧
    ({ calm.core 0 with pmsel := 0x0000010000000001 } : CoreState).counts 0 = true ∧ (calm.hart 0).obs.samples = [] ∧
    (let C : CoreState := { calm.core 0 with pmsel := 0x1005010000000002 }
     C.event 0 = 2 ∧ C.counted (some 5) = true ∧ C.counted (some 6) = false ∧ C.event 1 ≠ 2 ∧ calm.wrote.contains 0 = false ∧
       ({ calm with wrote := [0, 2053] } : State).wrote.contains 0 = true ∧ C.counts 0 = false) ∧
    (let E : EnergyUnit := { calm.energy with enwt := calm.energy.enwt.set 1 7 }
     E.weight 1 ≠ 0 ∧ calm.wrote.contains 2053 = false ∧ ({ calm with wrote := [0, 2053] } : State).wrote.contains 2053 = true) ∧
    (calm.hart 0).obs.traces = [] ∧
    (let s := testState (recordHart 0)
     ∃ l s2 l' s2', accessBy (recordWho 0 s) (ringAddr (s.hart 0).obs.smpbase (s.hart 0).obs.smpcfg 64) 64 .write
        (recordDelay 0 (s.setHart 0 { s.hart 0 with obs := { (s.hart 0).obs with samples := [] } })) = .ok l s2 ∧
      ringFull (s.hart 0).obs.trcfg = false ∧ (∀ r ∈ (s.hart 0).obs.traces, (s.hart 0).mayCancel r = false) ∧
      accessBy (recordWho 0 s) (ringAddr (s.hart 0).obs.trbase (s.hart 0).obs.trcfg 16) 16 .write
        ({ s with free := s.free + 1 }.setHart 0 { s.hart 0 with
          obs := { (s.hart 0).obs with traces := [], trdly := (s.hart 0).obs.trdly + (Config.freeWord s.free).setWidth 48 } }) =
        .ok l' s2') ∧
    ringFull (recordHart 1).obs.trcfg = true ∧
    (let H := { recordHart 0 with checks := (branchHart 1).checks }
     ∀ r ∈ H.obs.traces, H.mayCancel r = true) := by
  refine ⟨by decide, by decide, by decide, by decide, by decide, by decide, ⟨_, _, _, _, rfl, by decide, by decide, rfl⟩, by decide, by decide⟩

theorem witness_StopFires :
    (let H := (stopState 0x06440441).hart 0
     H.alive = true ∧ Claims.mayTrap H ∧ H.vec.inst ≠ none ∧ H.vec.armed = true ∧ H.asyncFirst = false ∧
       ({ H with mcheck := some 0 } : Hart).asyncFirst = true ∧
       H.stopUnit (H.vec.liveUnits H.obs.prot) = some H.vec.estart.toNat) ∧
    (vecHart 2).vec.armed = false ∧ (vecHart 2).stopUnit ((vecHart 2).vec.liveUnits false) ≠ some 0 := by
  unfold Claims.mayTrap; decide +kernel

theorem witness_QueuedIssue : calm.agent = .scalar 0 ∧ (calm.hart 0).settled = true ∧
    (calm.hart 0).activeQueue.length < (calm.hart 0).queueRoom ∧ (calm.hart 0).full [1, 2, 3] [] := by
  unfold Hart.full; decide

/-- The queue's state with a word in the core scratchpad, at offset 0x40. -/
noncomputable def recordState (H : Hart) (v n : Nat) : State :=
  match accessBy (calm.who 0) 0xFFF10000000040 n .write { testState H with agent := .queue 0 } with
  | .ok l s => writeLoc (calm.who 0) l v s
  | .trap _ _ s => s

/-- A pattern: one dimension of two elements of 8 bytes, 8 bytes apart, chunks of one register. -/
def testPattern : BitVec 512 :=
  0x110300000000000000000000000000000000000002000000000800FFF10000000040

/-- The queue's hart with a pattern in stream 5, and bound from register 4 on to stream 4. -/
def boundHart (v : Word) : Hart :=
  { queueHart v 0 with
    binds := [⟨4, 1, 4, 1, testPattern, 0, [], none⟩]
    streams := ((queueHart v 0).streams.set 4 { StreamState.initial with pattern := some testPattern, bound := true }).set 5
      { StreamState.initial with pattern := some testPattern } }
theorem witness_QueuedShapes :
    (queueState 8 0).agent = .queue 0 ∧ ((queueState 8 0).hart 0).headEntry ≠ none ∧ (queueHart 8 0).vec.ill = false ∧
    (∃ c s1 s2, readChain 0 0xFFF10000000040 (recordState (queueHart 8 0xFFF10000000040) 8 8) = .ok c s1 ∧
      c.first % 2 ^ 40 = 8 ∧ writeChain 0 0xFFF10000000048 8 s1 = .ok () s2) ∧
    (∃ c s1, readChain 0 0xFFF10000000040 (recordState (queueHart 8 0xFFF10000000040) 0 8) = .ok c s1 ∧
      c.first % 2 ^ 40 - c.pos % 2 ^ 40 = 0 ∧ c.first / 2 ^ 63 % 2 = 0) ∧
    fmtWellFormed 2 = true ∧ fmtWellFormed 0x1F = false ∧
    vectorStalls 0 0xFFF10000000040 8 .write (queueState 0xFFF10000000040 0) = false ∧
    (∃ l s1, accessBy ((queueState 0xFFF10000000040 0).who 0) 0xFFF10000000040 8 .write (queueState 0xFFF10000000040 0) = .ok l s1 ∧ l.peer.isNone = true) ∧
    (nearState true).threadOf 3 true { jobAtWord 0 with code := [0, 0] } ∧ ((7 : BitVec 13).toNat < 8 ∨ (7 : BitVec 13).toNat = 11) ∧
    (12 : BitVec 13).toNat = 12 :=
  ⟨rfl, by decide +kernel, by decide +kernel, ⟨_, _, _, rfl, by decide +kernel, rfl⟩, ⟨_, _, rfl, by decide +kernel, by decide +kernel⟩,
    by decide +kernel, by decide +kernel, by decide +kernel,
    ⟨_, _, rfl, by decide +kernel⟩, ⟨rfl, rfl⟩, by decide, by decide⟩
theorem witness_StreamsComplete :
    (let s := recordState (queueHart 0xFFF10000000040 0) testPattern.toNat 64
     vectorStalls 0 0xFFF10000000040 64 .read s = false ∧
     ∃ v s1, readAt (s.who 0) 0xFFF10000000040 64 s = .ok v s1 ∧ (BitVec.ofNat 512 v == testPattern) = true) ∧
    ((queueHart 4 0).stream 4).bound = false ∧ patOk testPattern = true ∧
    (queueHart 4 0).vec.vdirty.getLsbD 63 = false ∧ operandOk 5 = true ∧ (boundHart 5).binds.length < 8 ∧
    ((boundHart 5).stream 5).pattern = some testPattern ∧ ((boundHart 5).stream 5).bound = false ∧
    (∀ b ∈ (boundHart 5).binds, b.base + b.count ≤ (5 : Nat) ∨ 5 + bits testPattern 268 4 ≤ b.base) ∧
    operandOk 0x8000000000000100 = true ∧
    (∃ b, (boundHart 5).binds.find? (fun b => b.base == 4) = some b ∧ b.onChannel = false ∧ b.num < 16) ∧
    (∃ b, (boundHart 5).binds.find? (fun b => !b.onChannel && !b.writes && b.num == 4) = some b ∧
      (boundHart 5).nextElement b < patCount b.pattern ∧ chunkStalls 0 b 0 (testState (boundHart 5)) = false ∧
      patCount b.pattern ≤ ((boundHart 5).setStream 4 { (boundHart 5).stream 4 with done := 2 }).nextElement b) := by
  refine ⟨⟨by decide +kernel, exists_of_okWith (by decide +kernel)⟩, by decide +kernel, by decide +kernel, by decide +kernel,
    by decide +kernel, by decide +kernel, by decide +kernel, by decide +kernel, by decide +kernel, by decide +kernel,
    ⟨_, rfl, by decide +kernel, by decide +kernel⟩, ⟨⟨4, 1, 4, 1, testPattern, 0, [], none⟩, by decide +kernel, by decide +kernel, by decide +kernel,
      by decide +kernel⟩⟩
theorem witness_BlocksBegin :
    (calm.hart 0).argsReady = true ∧ (calm.hart 0).obs.trcfg.getLsbD 63 = false ∧
    (calm.hart 0).regs.empty &&& (0 : BitVec 40) = 0 ∧
    ({ calm.hart 0 with regs := (calm.hart 0).regs.markS 9 } : Hart).regs.empty &&& (0x200 : BitVec 40) ≠ 0 ∧
    (let H := { queueHart 0x8000 0 with vec := { (queueHart 0x8000 0).vec with
        queue := [⟨0x0000F03E, 0x8000, 0, Vector.replicate 8 0, 8, 2, []⟩] } }
     ∃ e, H.headEntry = some e ∧ H.vec.inst = none ∧ e.word.toNat % 128 = 0x3E) :=
  ⟨by decide +kernel, by decide +kernel, by decide +kernel, by decide +kernel, ⟨_, rfl, by decide +kernel, by decide +kernel⟩⟩

/-- An instance with a parked fragment below its path, or a resumed one. -/
def splitInst (st : Bool) : BlockInstance := { runningInst with path := 1, offcut := [⟨15, 0x9000, st⟩] }

/-- The block instance of a hart, its mask m1 holding elements 0 and 1. -/
def maskedHart (b : BlockInstance) : Hart :=
  { vecHart 2 with vec := { (vecHart 2).vec with inst := some b, m := (vecHart 2).vec.m.set 1 3 } }
theorem witness_BlockControl :
    (vecState 2).agent = .vector 0 ∧ (vecHart 2).vec.vdirty.getLsbD 63 = false ∧ (vecHart 2).vec.inst = some runningInst ∧
    (let V := (maskedHart runningInst).vec
     let live := runningInst.path &&& BitVec.ofNat 16384 (2 ^ V.liveUnits false - 1)
     live &&& ~~~(V.maskAt 0) = 0 ∧ live &&& V.maskAt 0 ≠ 0 ∧ live &&& ~~~(V.maskAt 0) = 0 ∧ live &&& V.maskAt 1 ≠ 0 ∧
       live &&& ~~~(live &&& V.maskAt 1) ≠ 0 ∧ live &&& ~~~(live &&& ~~~(V.maskAt 1)) ≠ 0) ∧
    runningInst.offcut.length < 8 ∧ (splitInst false).offcut = [⟨15, 0x9000, false⟩] ∧
    (splitInst true).offcut = [⟨15, 0x9000, true⟩] ∧ (splitInst true).spilled = 0 := by
  decide +kernel

/-- The vector state with its shape: format n, rows and len. -/
abbrev shapedState (n rows len : Nat) : State :=
  { testState { vecHart n with vec := { (vecHart n).vec with rows := BitVec.ofNat 64 rows, len := BitVec.ofNat 64 len } } with
    agent := .vector 0 }
theorem witness_VectorIntegers : ∀ n ∈ [0, 7, 8, 13],
    Claims.dispatches (shapedState n 1 4) 0 ⟨some 3, .same, [(1, true), (2, false)]⟩ ∧
    Claims.dispatches (shapedState n 1 4) 0 ⟨some 3, .same, [(3, true)]⟩ ∧
    Claims.dispatches (shapedState n 1 4) 0 ⟨some 3, .same, []⟩ := by
  unfold Claims.dispatches; decide +kernel
theorem witness_VectorWritesFrame : ∀ n ∈ [0, 2, 13], ∀ k ∈ [1, 8],
    ((shapedState n k 4).hart 0).vec.ew < 14 ∧ ((shapedState n k 4).hart 0).vec.shapeOk false = true ∧
    ((shapedState n k 4).hart 0).vec.fieldOk 8 = true := by decide +kernel
theorem witness_VectorMasksAndReductions : ∀ n ∈ [0, 7, 10, 13],
    Claims.dispatches (shapedState n 1 4) 0 ⟨none, .same, [(1, true), (2, false)]⟩ ∧
    Claims.dispatches (shapedState n 1 4) 0 ⟨none, .same, [(1, true)]⟩ ∧
    Claims.dispatches (shapedState n 1 4) 0 VecFields.none ∧
    (let H := (shapedState n 1 4).hart 0
     ((List.range (H.vec.units (H.vec.geo false))).filter (fun i => H.vec.active 1 i)) = [] ∧
     ((List.range (H.vec.units (H.vec.geo false))).filter (fun i => H.vec.active 0 i)) = [0, 1, 2, 3]) ∧
    runningInst.scanS.getLsbD 3 = true := by
  unfold Claims.dispatches; decide +kernel
theorem witness_VectorFloatsComplete : ∀ n ∈ [10, 11, 12, 13],
    Claims.dispatches (shapedState n 1 4) 0 ⟨some 4, .same, [(1, true), (2, true), (3, true)]⟩ ∧
    Claims.dispatches (shapedState n 1 4) 0 ⟨some 4, .same, [(1, true), (2, true)]⟩ ∧
    Claims.dispatches (shapedState n 1 4) 0 ⟨some 4, .same, [(1, true)]⟩ ∧
    (shapedState n 1 4).reduced = false ∧
    Claims.dispatches (shapedState 2 1 4) 0 ⟨some 4, .same, [(1, true), (2, true), (3, true)]⟩ ∧
    (∀ dst ∈ [0, 13], cvtOk dst ((shapedState n 1 4).hart 0).vec false = true ∧
      Claims.dispatches (shapedState n 1 4) 0
        ⟨some 4, if cvtSame ((shapedState n 1 4).hart 0).vec dst then .same else .disjoint, [(1, true)]⟩) := by
  unfold Claims.dispatches; decide +kernel
/-- The reduced service, as the device stands after its ROM. -/
theorem witness_VectorFloats_reduced :
    (let s := shapedState 11 1 4
     let t : State := { s with trust := { s.trust with bstSt := 2 } }
     t.reduced = true ∧ (t.hart 0).vec.ew = 11 ∧ Claims.dispatches t 0 ⟨some 4, .same, [(1, true), (2, true)]⟩) := by
  unfold Claims.dispatches; decide +kernel
/-- The last two: q4n tiles of one block. -/
theorem witness_VectorPermutes : ∀ n ∈ [0, 13],
    Claims.dispatches (shapedState n 2 4) 0 ⟨some 6, .disjoint, [(2, true), (4, true)]⟩ ∧
    Claims.dispatches (shapedState n 2 4) 0 ⟨some 6, .disjoint, [(2, true)]⟩ ∧
    Claims.dispatches (shapedState n 2 4) 0 ⟨some 6, .same, [(6, true), (4, true)]⟩ ∧
    ((shapedState n 2 4).hart 0).vec.rowUnits (((shapedState n 2 4).hart 0).vec.geo false) % 2 = 0 ∧
    Claims.dispatches (shapedState 142 1 64) 0 ⟨some 6, .disjoint, [(2, true), (4, true)]⟩ ∧
    ((shapedState 142 1 64).hart 0).vec.ew = 14 := by
  unfold Claims.dispatches; decide +kernel

/-- The same, with a tile poisoned. -/
def poisonedAcc : State := (shapedState 12 1 4).setCore 0 { (shapedState 12 1 4).core 0 with accpsn := 1 }
theorem witness_AccumulatorsComplete : ∀ n ∈ [10, 12],
    Claims.dispatches (shapedState n 1 4) 0 ⟨some 6, .same, []⟩ ∧ Claims.dispatches (shapedState n 1 4) 0 ⟨none, .same, [(6, true)]⟩ ∧
    Claims.dispatches (shapedState n 1 4) 0 VecFields.none ∧ selOk 0 ((shapedState n 1 4).hart 0).vec = true ∧
    ((shapedState n 1 4).core 0).accpsn.getLsbD (bits (0 : Word) 0 2) = false ∧
    ((poisonedAcc.core 0).accpsn.getLsbD (bits (0 : Word) 0 2) = true ∧ Claims.mayTrap (poisonedAcc.hart 0) ∧
      Claims.dispatches poisonedAcc 0 ⟨some 6, .same, []⟩) := by
  unfold Claims.dispatches Claims.mayTrap; decide +kernel

/-- An outcome of a list of units that all pass. -/
def passes (f : Nat → State → Res Unit) (l : List Nat) (s : State) : Bool := okWith (Claims.actAll f l s) (fun _ _ => true)
theorem exists_of_passes {f : Nat → State → Res Unit} {l : List Nat} {s : State} (h : passes f l s = true) :
    ∃ t, Claims.actAll f l s = .ok () t := by
  obtain ⟨x, t, h1, -⟩ := exists_of_okWith h
  exact ⟨t, h1⟩
/-- The vector state of two doublewords, whose second doubleword from g0 on is poisoned. -/
def softState : State := (shapedState 3 1 2).setMem (addPoison (shapedState 3 1 2).mm (scratchKey 0 0x48) 8)

/-- The first address and the load of each doubleword of a state. -/
def loadUnit (s : State) : Nat → State → Res Unit :=
  memUnit 0 0 .load true 6 (s.hart 0) (s.hart 0).vec.v (fun n => (s.hart 0).vec.g[0] + BitVec.ofNat 64 (n * 8))
theorem witness_VectorMemory :
    (∀ H ∈ [(shapedState 3 1 2).hart 0],
      ((H.stream 0).bound = false ∧ H.obs.smpcfg.getLsbD 63 = false ∧ H.obs.watch = none) ∧
      Claims.dispatches (shapedState 3 1 2) 0 ⟨some 6, .same, []⟩ ∧ Claims.dispatches (shapedState 3 1 2) 0 ⟨some 6, .same, [(7, true)]⟩ ∧
      Claims.dispatches (shapedState 3 1 2) 0 ⟨none, .same, [(6, true), (7, true)]⟩ ∧
      (decide (H.vec.ew < 16) && (superPre 0 H).isNone) = true ∧ H.vec.overlapOk .same 6 7 = true ∧
      H.vec.g[0].toNat % 16 = 0 ∧ H.activeFrom 0 H.vec.estart.toNat = [0, 1] ∧
      (∀ e ∈ Claims.vmems 0 H 0 0 0 0 0 7 6, [0, 1].any (fun j => unitStalls 0 e.2.2.1 H H.vec.v j (shapedState 3 1 2)) = false) ∧
      [0, 1].any (fun j => vectorStalls 0 (H.vec.g[0] + BitVec.ofNat 64 (j * 8)).toNat 8 .read (shapedState 3 1 2)) = false) ∧
    (∃ t, Claims.actAll (loadUnit (shapedState 3 1 2)) [0, 1] (shapedState 3 1 2) = .ok () t) ∧
    (∃ u t, loadUnit softState 0 softState = .ok u t ∧
      trapWith (loadUnit softState 1 t) (fun c _ _ => c == 0x0E) = true) := by
  refine ⟨?_, exists_of_passes (by decide +kernel), exists_of_okWith (by decide +kernel)⟩
  unfold Claims.dispatches
  decide +kernel

/-- A hart whose one vector access has one element of a doubleword in the core scratchpad to perform, of kind k. -/
def loneElem : VecElem :=
  ⟨⟨scratchKey 0 0x40, 8, 0, 8, none, none, 0, 0, false, false, false, false, false, false⟩, 9, 6, 0⟩
def loneHart (k : MemKind) : Hart := { testHart [] with vaccs := [⟨0, 6, 0, false, k, 3, [loneElem], [], false⟩] }
theorem witness_VectorMemory_lone : ∀ k ∈ [MemKind.load, .store, .add],
    (∃ A, ((testState (loneHart k)).hart 0).vaccs = [A] ∧ A.kind = k ∧ A.going = false ∧ A.todo = [loneElem]) ∧
    poisonedLoc loneElem.loc calm = false ∧ poisonedLoc loneElem.loc poisonState = true := by
  intro k hk
  refine ⟨⟨_, rfl, rfl, rfl, rfl⟩, by decide +kernel, by decide +kernel⟩
/-- The same poisoned tile under an acc.rd that goes on. -/
theorem witness_AccumulatorsComplete_begun :
    (let H := poisonedAcc.hart 0
     let s := poisonedAcc.setHart 0 { H with vec := { H.vec with begun := some 0x00000059, estart := 1 } }
     (s.hart 0).vec.begun ≠ none ∧ Claims.dispatches s 0 ⟨some 6, .same, []⟩ ∧ selOk 0 (s.hart 0).vec = true) := by
  unfold Claims.dispatches; decide +kernel

/-- A started job whose threads' s1 is 0x40 and s2 is 1, with a filled load, a store and code of two words. -/
def pagesJob : NbJob :=
  let R := (ScalarRegs.initial.writeS 1 0x40).writeS 2 1
  { jobAtWord 0x00100854 with
    code := [0x00001054, 0x01000054], fmt := 7
    a := { regs := R, pc := 0, halted := false }, x := { regs := R, pc := 0, halted := false }
    loads := [⟨0x80, 0x80, some 5, false, 0⟩], stores := [⟨0xC0, 0xC0, 0⟩], pushed := 1 }

/-- Unit 3 with jobs and held contexts, over the pages, a thread acting. -/
def nearPages (jobs : List NbJob) (holds : List Nat) (x : Bool) : State :=
  { (onPages calm).setUnit 3 { NbUnit.initial with jobs := jobs, holds := holds } with agent := .nearBank 3 x }

theorem witness_NearBankElements : (∀ n ∈ [(0 : BitVec 5), 7, 10, 13],
    (nearPages [{ pagesJob with fmt := n }] [] true).threadOf 3 true { pagesJob with fmt := n }) ∧
    (15 : BitVec 5).toNat < 16 ∧ (nearPages [pagesJob] [] true).reduced = false := by
  unfold State.threadOf
  decide +kernel
set_option maxRecDepth 4000 in
theorem witness_NearBankThreads :
    ((nearPages [pagesJob] [] false).threadOf 3 false pagesJob ∧ (nearPages [pagesJob] [] true).threadOf 3 true pagesJob) ∧
    (∃ p s1, nearAccess 3 pagesJob 0x40 .read (nearPages [pagesJob] [] false) = .ok p s1 ∧ true = true) ∧
    (∃ p s1, nearAccess 3 pagesJob 0x40 .write (nearPages [pagesJob] [] false) = .ok p s1 ∧ decide (4 ≤ ebits p.pte 56 3) = true) ∧
    pagesJob.loads.length < 16 ∧ pagesJob.stores.length < 16 ∧
    16 ≤ (List.replicate 16 pagesJob.loads).length ∧
    pagesJob.loads = [⟨0x80, 0x80, some 5, false, 0⟩] ∧ { pagesJob with loads := [] }.loads = [] ∧
    pagesJob.stores = [⟨0xC0, 0xC0, 0⟩] ∧ pagesJob.stop = false ∧ { pagesJob with stop := true }.stop = true ∧
    ((nearPages [pagesJob] [0] true).unit 3).holds.contains pagesJob.ctx = true ∧
    ((nearPages [pagesJob] [] true).unit 3).holds.contains pagesJob.ctx = false ∧
    0 < (pagesJob.x.regs.readS 2).toNat ∧ (pagesJob.x.regs.readS 2).toNat ≤ 64 ∧ (pagesJob.x.regs.readS 1).toNat % 64 = 0 ∧
    (pagesJob.x.regs.readS 1).toNat % 4096 + 64 * 1 ≤ 4096 ∧ (0xFC0 : Word).toNat % 4096 + 64 * 1 ≤ 4096 := by
  refine ⟨⟨⟨rfl, rfl⟩, ⟨rfl, rfl⟩⟩, exists_of_okWith (p := fun _ _ => true) (by decide +kernel), exists_of_okWith (by decide +kernel),
    by decide +kernel, by decide +kernel, by decide +kernel, rfl, rfl, rfl, rfl, rfl, by decide +kernel, by decide +kernel,
    by decide +kernel, by decide +kernel, by decide +kernel, by decide +kernel, by decide +kernel⟩

/-- Unit 3's jobs before and after they run. -/
abbrev queuedJob : NbJob := { jobAtWord 0 with started := false, code := [] }
abbrev parkedJob : NbJob := { pagesJob with parked := true, loads := [⟨0x80, 0x80, none, false, 0⟩] }
abbrev waitingJob : NbJob :=
  { pagesJob with loads := [⟨0x80, 0x80, some 5, false, 0⟩, ⟨0x140, 0x140, none, false, 0⟩] }
theorem witness_NearBankJobs :
    (let s := nearPages [queuedJob] [] false
     (s.unit 3).inReset = false ∧ s.assistOf (nearAgent 3) = none ∧ (s.unit 3).running = none ∧ (s.unit 3).nextJob = some queuedJob ∧ queuedJob.parked = false ∧
       queuedJob.ordered s = true) ∧
    (∃ ws s1, readCode queuedJob.who 0 1 (queuedJob.forceEntries (nearPages [queuedJob] [] false)) = .ok ws s1 ∧ true = true) ∧
    ((nearPages [parkedJob] [] false).unit 3).nextJob = some parkedJob ∧
    (∃ ls s1, reissue 3 parkedJob parkedJob.loads (nearPages [parkedJob] [] false) = .ok ls s1 ∧ true = true) ∧
    (let s := nearPages [waitingJob] [] false
     (s.unit 3).running = some waitingJob ∧ waitingJob.loads[1]? = some ⟨0x140, 0x140, none, false, 0⟩ ∧
       (∀ p ∈ waitingJob.loads.take 1, p.data ≠ none) ∧
       ∀ t ∈ waitingJob.stores, ¬(t.num < 0 ∧ t.pa = 0x140)) ∧
    (∀ c ∈ [0x00, 0x83], let J := { pagesJob with endCode := some c }
     [J].find? (fun J => J.over.isSome) = some J ∧ J.over = some c) ∧
    (let J : NbJob := { pagesJob with
       code := [0x00000054, 0x01000054], x := { pagesJob.x with pc := 1 }, loads := List.replicate 16 ⟨0x80, 0x80, none, false, 0⟩ }
     ((nearPages [J] [] true).unit 3).running = some J ∧ J.over = none ∧ J.stalled false = true ∧ J.stalled true = true) ∧
    (let J : NbJob := { pagesJob with
       code := [0x00000054, 0x01001054], x := { pagesJob.x with pc := 1 }
       loads := List.replicate 16 ⟨0x80, 0x80, none, false, 0⟩, stores := [⟨0xC0, 0xC0, 0⟩] }
     let s := (nearPages [J] [] true).setUnit (unitAt 0xC0 / 8 * 8) { NbUnit.initial with inReset := true }
     (s.unit 3).running = some J ∧ J.over = none ∧ J.stalled false = true ∧ J.stalled true = false ∧ nearHeld 3 J true s = true) ∧
    (pagesJob.stop = false ∧ { pagesJob with stop := true }.stop = true) ∧
    ((nearPages [pagesJob] [0] true).unit 3).running = some pagesJob ∧ pagesJob.over = none ∧
    ((nearPages [pagesJob] [0] true).unit 3).holds.contains pagesJob.ctx = true ∧
    (∀ v, v / 8 = 3 / 8 → (calm.unit v).jobs = []) := by
  refine ⟨by decide +kernel, exists_of_okWith (p := fun _ _ => true) (by decide +kernel), by decide +kernel,
    exists_of_okWith (p := fun _ _ => true) (by decide +kernel), by decide +kernel, by decide +kernel, by decide +kernel,
    by decide +kernel, by decide +kernel, by decide +kernel, by decide +kernel, by decide +kernel, fun v _ => rfl⟩

/-- nb.go in a full channel, in the reduced service and with room. -/
abbrev fourJobs : List NbJob := [queuedJob, { queuedJob with seq := 1 }, { queuedJob with seq := 2 }, { queuedJob with seq := 3 }]
theorem witness_NearBankCommands :
    (∀ s ∈ [onPages calm, (onPages calm).setUnit 0 { NbUnit.initial with jobs := fourJobs }],
      s.agent = .scalar 0 ∧ (s.hart 0).settled = true ∧ ((s.hart 0).full [1, 2] []) ∧ (s.hart 0).loop.st ≠ 3 ∧
      (s.hart 0).owes (fun _ => true) = false ∧ ((s.hart 0).regs.readS 1).toNat % 64 = 0) ∧
    ownStalls 0 0xFFF10000000040 64 .read (forceLoads 0 (fun _ => true) (onPages calm)) = false ∧
    (∃ n s2, readAt ((onPages calm).who 0) 0xFFF10000000040 64 (forceLoads 0 (fun _ => true) (onPages calm)) = .ok n s2 ∧
      (descOk (BitVec.ofNat 512 n) &&
        okWith (homeUnit 0 (BitVec.ofNat 512 n) s2) (fun u s3 => u == 0 && decide ((s3.unit u).jobs.length < 4) &&
          !(s3.unit u).inReset && !s3.reduced)) = true) ∧
    4 ≤ (((onPages calm).setUnit 0 { NbUnit.initial with jobs := fourJobs }).unit 0).jobs.length ∧
    calm.heldJob 0 0x30000 = none ∧ (nearPages [pagesJob] [] false).heldJob 0 0x30000 = some pagesJob ∧
    (nearPages [queuedJob] [] false).heldJob 0 0x30000 = some queuedJob ∧
    (nearPages [{ pagesJob with endCode := some 0 }] [] false).heldJob 0 0x30000 = some { pagesJob with endCode := some 0 } := by
  refine ⟨?_, by decide +kernel, exists_of_okWith (by decide +kernel), by decide +kernel, by decide +kernel, by decide +kernel,
    by decide +kernel, by decide +kernel⟩
  unfold Hart.full
  decide +kernel

/-- A pair of layouts of two elements of 8 bytes. -/
def testPair : LayoutPair := ⟨[0x20000000008], [0x20000000008]⟩

/-- A copy of it within the core scratchpad, issued, or accepted and running. -/
def testCopy (lay : Option LayoutPair) (arrive : Word) : CopyJob :=
  { src := 0xFFF10000000040, dst := 0xFFF10000000080, arrive := arrive, cfg := 0x600, ticket := ⟨0, 0⟩, older := 0, level := 0,
    replay := false, taken := none, layouts := lay, accept := 0, loaded := false, kept := false, checked := 0, moves := [], written := [],
    poisoned := false }

/-- A hart whose channel 31 holds a copy, its watermark at wm. -/
def copyHart (J : CopyJob) (wm : Nat) : Hart :=
  { testHart [(1, 0xFFF10000000040), (2, 0x600)] with
    chans := (testHart []).chans.set 31 { Channel.initial with layouts := some testPair, copies := [J], wm := wm, laySeen := true } }
/-- v1 and v2 of the queue's hart hold two layouts of one dimension. -/
def layHart : Hart :=
  { queueHart 0 0 with vec := { (queueHart 0 0).vec with
      len := 1, v := ((queueHart 0 0).vec.v.set 1 0x20000000008).set 2 0x20000000008 } }
theorem witness_CopyCommands :
    (let H := copyHart (testCopy none 0) 0
     H.full [1, 2] [] ∧ (H.regs.readS 1).toNat % 8 = 0 ∧ cfgOk (H.regs.readS 2) = true ∧ (H.chan 31).copies.length < 8 ∧
       (H.chan 31).laySeen = true ∧ (H.chan 30).copies = [] ∧ (H.chan 31).copies ≠ []) ∧
    (let s := { testState layHart with agent := .queue 0 }
     (s.hart 0).headEntry ≠ none ∧ (s.hart 0).vec.vdirty.getLsbD 63 = false ∧ (s.hart 0).layoutPair 1 2 = some testPair) := by
  refine ⟨?_, by decide +kernel⟩
  unfold Hart.full
  decide +kernel
theorem witness_ContextSwitching_busy : 1 ≤ (kernelHart (copyHart (testCopy none 0) 0)).plev.toNat ∧
    ∃ c : Fin 32, (kernelHart (copyHart (testCopy none 0) 0)).chans[c].copies ≠ [] := by decide +kernel
theorem witness_CopyEngineMoves :
    (let J := testCopy none 0
     let s := testState (copyHart J 0)
     ((s.hart 0).chans[31]).copies = [J] ∧ (s.hart 0).mayAccept (s.hart 0).chans[31] J = true ∧
       J.taken.getD (s.hart 0).chans[31].layouts = some testPair ∧ (acceptFault 0 J (some testPair) (forceEntries 0 J.ticket (forceOlder 0 0 s))).1 = none) ∧
    (let J := testCopy (some testPair) 0xFFF10000000100
     let s := testState (copyHart J 0)
     (J.layouts = some testPair ∧ s.assistOf (copyAgent 0 31) = none ∧ J.moves = [] ∧ J.written = [] ∧ (s.hart 0).chans[31].flt = false ∧ 0 < layoutCount testPair.dst ∧
       (s.hart 0).chans[31].wm = 0 * cfgSize J.cfg ∧ J.checked = 0 ∧
       waitsFor (olderExtents 0 J.accept s) (.at (layoutAddr J.src testPair.src 0) (cfgSize J.cfg) false) = false ∧
       waitsFor (olderExtents 0 J.accept s) (.at (layoutAddr J.dst testPair.dst 0) (cfgSize J.cfg) true) = false) ∧
     (∃ m s1, checkElement 0 J testPair 0 s = .ok m s1 ∧ (!m.src.stale s1 && !m.dst.stale s1 && m.src.peer.isNone &&
       m.dst.peer.isNone && s1.harts.all (fun e => e.2.loop.st != 3) && !s1.resetting) = true) ∧
     (let C := (testState (copyHart J 16)).hart 0
      C.chans[31].wm = layoutCount testPair.dst * cfgSize J.cfg) ∧ J.arrive ≠ 0 ∧ (testCopy (some testPair) 0).arrive = 0 ∧
     ∃ l s1, accessBy (copyWho 0 J s) J.arrive.toNat 8 .write s = .ok l s1 ∧ true = true) :=
  ⟨by decide +kernel, by decide +kernel, exists_of_okWith (by decide +kernel), by decide +kernel, by decide +kernel,
    by decide +kernel, exists_of_okWith (p := fun _ _ => true) (by decide +kernel)⟩
theorem witness_ArrivalWordsCount : (0x7FFFFFFFFFFFFFFF : Nat) < 2 ^ 64 ∧ ¬(0x7FFFFFFFFFFFFFFF : Nat) < 2 ^ 63 - 1 ∧
    (0x7FFFFFFFFFFFFFFE : Nat) < 2 ^ 63 - 1 ∧ (2 : Nat) ^ 63 ≤ 0x8000000000000000 := by decide

/-- A state with a word in the core scratchpad at 0x80, whose s1 names it, over the pages, with the events of context 0. -/
def taskState (r : Nat) (base : Word) : State :=
  let s := onPages (testState (testHart [(1, 0xFFF10000000080), (2, 5)]))
  { s.setMem { s.mm with cells := writeLE s.mm.cells (scratchKey 0 0x80) 128 r } with evbase := [(0, base)] }

/-- A marker without events, and one that waits for event 64 to reach 9, the first count above the page tables' zero. -/
def markerRecord : Nat := 3
def waitingMarker : Nat := 3 + 2 ^ 19 + 64 * 2 ^ 64 + 9 * 2 ^ 128

/-- The post of a record goes through, with n waiters. -/
def posts (s : State) (n : Nat) : Bool :=
  let s0 := forceDone 0 (fun _ => true) (forceLoads 0 (fun _ => true) s)
  okWith (readAt (s0.who 0) 0xFFF10000000080 128 s0) (fun v s1 =>
    let T := newTask 0 (BitVec.ofNat 1024 v) s1
    (firstFail (T.checks (s1.launchOf 0) 0 s1.reduced) == none) &&
    (T.events.isEmpty || T.evbase.getLsbD 0) &&
    okWith (testEvents 0 T T.events [] s1) (fun ws s2 => ws.length == n && decide ((s2.scheduler 0).tasks.length < 4096) &&
      match enterTaskWaiters 0 T.seq ws s2 with
      | .ok _ => true
      | .error _ => false))

/-- A task of the quarter, posted and ready, or issued. -/
def testTask (issued : Bool) : Task :=
  { record := BitVec.ofNat 1024 markerRecord, seq := 7, ctx := 0, level := 0, hart := 0, launch := 0, evbase := 0, w0 := true,
    w1 := true, edges := [], issued := issued, flt := false, err := false, can := false, cause := 0, tval := 0, told := false,
    flags := 0, pages := [], core := 0, age := 0, accept := 0 }

/-- The small state with tasks in quarter 0. -/
def tasksState (ts past : List Task) : State := calm.setScheduler 0 { Scheduler.initial with tasks := ts, past := past }
theorem witness_TaskCommands :
    (∀ s ∈ [taskState markerRecord 0, taskState waitingMarker 1],
      s.agent = .scalar 0 ∧ (s.hart 0).settled = true ∧ (s.hart 0).full [1, 2] [] ∧ (s.hart 0).loop.st ≠ 3 ∧
      ((s.hart 0).regs.readS 1).toNat % 128 = 0 ∧ (s.hart 0).owes (fun _ => true) = false ∧
      (s.hart 0).copyStalls (fun _ => true) 0xFFF10000000080 128 = false) ∧
    posts (taskState markerRecord 0) 0 = true ∧ posts (taskState waitingMarker 1) 1 = true ∧
    findTask 7 0 calm = none ∧ findTask 7 0 (tasksState [testTask false] []) = some (testTask false, true) ∧
    (testTask false).issued = false ∧ findTask 7 0 (tasksState [testTask true] []) = some (testTask true, true) ∧
    findTask 7 0 (tasksState [] [testTask true]) = some (testTask true, false) := by
  refine ⟨?_, by decide +kernel, by decide +kernel, by decide +kernel, by decide +kernel, by decide +kernel, by decide +kernel,
    by decide +kernel⟩
  unfold Hart.full
  decide +kernel

/-- A copy task, whose launch 0 holds core 0. -/
def copyTask : Task := { testTask false with record := BitVec.ofNat 1024 2 }
def scheduled : State := onPages ((tasksState [copyTask] []).setLaunch 0 (fetchLaunch []))
theorem witness_TasksRun :
    engineBusy 0 1 calm = false ∧ chooseTask 0 1 calm = none ∧
    (∃ T o, chooseTask 0 1 scheduled = some (T, o) ∧ T = copyTask ∧ engineBusy 0 1 scheduled = false ∧
      scheduled.assistOf (taskAgent 0 T.seq) = none) ∧
    (let T1 := { copyTask with core := 0 }
     ∃ ps s2, translateSpans T1.who T1.spans []
      (scheduled.setScheduler 0 { scheduled.scheduler 0 with turn := some 0, taken := 1 }) = .ok ps s2 ∧ true = true) ∧
    (let T := { testTask true with record := BitVec.ofNat 1024 2 }
     let s := tasksState [T] []
     (s.scheduler 0).tasks[0]? = some T ∧ T.issued = true ∧ T.flt = false ∧ T.staleKey s = false ∧
       ∀ x ∈ T.extents, waitsFor (olderExtents T.core T.accept s) x = false) ∧
    (let s := tasksState [testTask false] []
     (s.scheduler 0).tasks[0]? = some (testTask false) ∧ (testTask false).ready = true ∧ (testTask false).issued = false ∧
       (s.scheduler 0).tkage ≠ 0 ∧ (s.scheduler 0).holds.contains 0 = false) ∧
    ({ testTask false with age := 7 } : Task).age = 7 := by
  refine ⟨by decide +kernel, by decide +kernel, ⟨copyTask, (0, 1), by decide +kernel, rfl, by decide +kernel, by decide +kernel⟩,
    exists_of_okWith (p := fun _ _ => true) (by decide +kernel), by decide +kernel, by decide +kernel, rfl⟩

/-- The events of context 0 enabled, the counts at virtual address 0 on; s1 names event 64, whose count is 0, s2 the target. -/
def eventState (n : Word) : State :=
  { onPages (testState (testHart [(1, 64), (2, n)])) with evbase := [(0, 1)] }
theorem witness_EventsComplete :
    (∀ s ∈ [eventState 0, eventState 1],
     s.agent = .scalar 0 ∧ (s.hart 0).settled = true ∧ (s.hart 0).full [1, 2, 3] [] ∧ (s.eventBase 0).getLsbD 0 = true ∧
       (s.hart 0).status ≠ .waiting .event) ∧
    okWith (reachCount 0 0 1 64 (eventState 1)) (fun l s1 =>
      let s2 := departConflicts none l.key 4 false s1
      readLoc l s2 == 0 && (enterWaiter ⟨l.key, 1, some 0, 3, none, false⟩ s2).isSome) = true ∧
    (let u : EventUpdate := ⟨.window (scratchKey 0 0x40) 4, false, 1, 3, ⟨0, 0⟩, 0⟩
     let s := testState { testHart [] with updates := [u] }
     (s.hart 0).updates[0]? = some u ∧ s.parkedIn 0 (s.orderOf 0) = false ∧ (s.hart 0).reached u.ticket = true ∧
       (s.hart 0).owesOlder u.older = false ∧ ∀ v ∈ (s.hart 0).updates.take 0, v.loc.key ≠ u.loc.key) := by
  refine ⟨?_, by decide +kernel, by decide +kernel⟩
  unfold Hart.full
  decide +kernel

/-- A hart in ST n of its loop, of d iterations before the verdict, lpi at i. -/
def loopHart (st i n : Nat) : Hart :=
  { testHart [(1, 8), (2, 0)] with
    loop := { MarkedLoop.initial with
      lpst := BitVec.ofNat 64 (st + 3 * 2 ^ 12), lpn := 8, lpre := 0x1000, lpi := BitVec.ofNat 64 i, lpwm := BitVec.ofNat 64 n } }
theorem witness_LoopCommands :
    (∀ st ∈ [0, 1, 2], (loopHart st 0 0).settled = true ∧ (loopHart st 0 0).loop.st ≠ 3 ∧ (loopHart st 0 0).full [1, 2] [3] ∧
      (loopHart st 0 0).checks = [] ∧ (loopHart st 0 0).loop.verdict = none ∧
      (loopHart st 0 0).fullMask (bits ((loopHart st 0 0).regs.readS 2) 32 32) = true) ∧
    badRequest 8 0 = false ∧ badRequest 4 0 = false ∧ badRequest 3 0 = true ∧ badRequest 9 8 = false ∧ badRequest 9 9 = true ∧
    calm.reduced = false ∧ ({ calm with trust := { calm.trust with bstSt := 2 } } : State).reduced = true ∧
    (loopHart 1 0 0).fullMask (bits (loopHart 1 0 0).loop.lpst 32 32) = true ∧ (loopHart 1 0 0).loop.between = false ∧
    (let H := { loopHart 1 0 0 with
       regs := (loopHart 1 0 0).regs.markS 4, loop := { (loopHart 1 0 0).loop with lpst := 1 + 3 * 2 ^ 12 + 2 ^ 36 } }
     H.full [] [3] ∧ H.fullMask (bits H.loop.lpst 32 32) = false ∧ H.loop.st = 1) ∧
    (loopHart 1 0 0).pc = (loopHart 1 0 0).loop.lpre ∧ (loopHart 3 0 0).loop.st = 3 ∧ (loopHart 3 0 0).loop.endDst = none := by
  unfold Hart.full
  decide +kernel

/-- A hart that awaits the verdict of an empty loop; a confirmed loop that stores, or loads nothing. -/
def verdictHart (frm : BitVec 3) : Hart :=
  { loopHart 1 3 0 with
    frm := frm
    regs := (loopHart 1 3 0).regs.markK 5
    loop := { (loopHart 1 3 0).loop with
      verdict := some 5, iters := [[], [], []], ends := List.replicate 3 (loopHart 1 3 0).regs.s } }
theorem witness_ReplayProceeds :
    (∀ p ∈ [((0 : BitVec 3), 0), (4, 6)], let s := forceAll 0 (testState (verdictHart p.1))
     (s.hart 0).loop.verdict = some 5 ∧ (s.hart 0).loop.st = 1 ∧ (s.hart 0).onlyVerdict 5 = true ∧ judge 0 s = p.2) ∧
    (let s := forceAll 0 (testState { verdictHart 0 with regs := (verdictHart 0).regs.markK 6 })
     (s.hart 0).loop.verdict = some 5 ∧ (s.hart 0).loop.st = 1 ∧ (s.hart 0).onlyVerdict 5 = false ∧ judge 0 s = 0) ∧
    ((loopHart 3 8 7).loop.st = 3 ∧ (loopHart 3 8 7).loop.lpwm.toNat < (loopHart 3 8 7).loop.lpn.toNat) ∧
    (∃ p t, nextIteration 0 (testState (loopHart 3 8 7)) = .ok p t) ∧
    (∃ e v t, nextIteration 0 (testState { loopHart 3 8 7 with trap := { TrapRegs.initial with prq := true } }) = .trap e v t) ∧
    (let H := { loopHart 3 8 8 with loop := { (loopHart 3 8 8).loop with endDst := some 4 } }
     H.loop.endDst = some 4 ∧ H.loop.st = 3 ∧ H.loop.lpn.toNat ≤ H.loop.lpwm.toNat) :=
  ⟨by decide +kernel, by decide +kernel, by decide +kernel, ⟨_, _, rfl⟩, ⟨_, _, _, rfl⟩, by decide +kernel⟩

/-- Queue 63 enabled for context 0, with entries; the hart's s1 names a record, s2 the queue. -/
def launchQueue (cfg : Word) (es : List QueuedRecord) : LaunchQueue := { LaunchQueue.initial with cfg := cfg, entries := es }
def goState (es : List QueuedRecord) : State :=
  (onPages (testState (testHart [(1, 0x80), (2, 63)]))).setQueue 63 (launchQueue 0x8000 es)

/-- An entry as go captures it, its record all zeros, checked or not. -/
def zeroEntry (checked : Bool) : QueuedRecord :=
  { addr := 0x80, captured := some 0, read := if checked then some 0 else none, num := 0, ctx := 0, level := 1, bad := false, checked := checked, asked := false, clusters := none,
    pipe := none, within := none }
theorem witness_LaunchUnitComplete_queues :
    (∀ s ∈ [goState [], goState (List.replicate 32 (zeroEntry false))],
      s.agent = .scalar 0 ∧ (s.hart 0).settled = true ∧ (s.hart 0).full [1, 2, 3] [] ∧ (s.hart 0).owes (fun _ => true) = false ∧
      (s.hart 0).regs.readS 2 = BitVec.ofNat 64 63 ∧ (s.hart 0).plev = 0 ∧ (s.queueAt 63).ctx = (s.hart 0).place.lctx.toNat ∧
      ((s.hart 0).regs.readS 1).toNat % 64 = 0 ∧ unitReaches ((s.hart 0).regs.readS 1).toNat = true ∧
      ownStalls 0 0x80 64 .read (forceAll 0 s) = false ∧
      okWith (accessBy ((forceAll 0 s).who 0) 0x80 64 .read (forceAll 0 s))
        (fun l s1 => l.peer.isNone && (s1.queueAt 63).en && decide ((s1.queueAt 63).entries.length = (s.queueAt 63).entries.length)) = true) ∧
    (calm.queueAt 63).en = false ∧ (launchQueue 0x18000 []).host = true ∧ (launchQueue 0x18000 []).en = true ∧
    (launchQueue 0x8000 []).host = false ∧ (launchQueue 0 []).en = false ∧ (0x80000 : Word).getLsbD 19 = true := by
  unfold Hart.full
  decide +kernel

/-- A bad entry, one whose record names a PMAX above its queue's, and one that passes. -/
theorem witness_LaunchUnitComplete_checks :
    calm.launching = false ∧ ({ goState [zeroEntry false] with trust := { calm.trust with bstSt := 2 } } : State).launching = true ∧
    (calm.queueAt 63).entries = [] ∧ ((calm.setQueue 63 (launchQueue 0 [zeroEntry false])).queueAt 63).en = false ∧
    ((goState [zeroEntry false]).queueAt 63).entries = [zeroEntry false] ∧
    headRecord (launchQueue 0x8000 []) { zeroEntry false with bad := true } (goState []) = (.error 7, 0, goState []) ∧
    headRecord (launchQueue 0x8000 []) (zeroEntry false) (goState []) = (.ok 0, 0, goState []) ∧
    (recordCode (launchQueue 0x8000 []) 0 (zeroEntry false) 0 (goState [])).1 = 0 ∧
    (recordCode (launchQueue 0x8000 []) 0 (zeroEntry false) (BitVec.ofNat 512 (2 ^ 112)) (goState [])).1 = 4 ∧
    (recordCode (launchQueue 0x8000 []) 0 (zeroEntry false) 0 (goState [])).2.handsOver 1 = false :=
  ⟨by decide +kernel, by decide +kernel, rfl, by decide +kernel, rfl, rfl, rfl, by decide +kernel, by decide +kernel,
    by decide +kernel⟩

/-- The head of queue 63 is ready to be placed in the full service. -/
def readyState : State :=
  let s := goState [zeroEntry true]
  { s with trust := { s.trust with bstSt := 3 } }
theorem witness_LaunchUnitComplete_placement :
    calm.launching = false ∧ readyState.launching = true ∧ headOrder readyState = [63] ∧
    (readyState.queueAt 63).entries = [zeroEntry true] ∧ readyState.freeLaunch = some 0 ∧ (zeroEntry true).read = some 0 ∧
    namedCode 0 (readNamed ((zeroEntry true).namedWho 0 0) 0 readyState).1 = 0 ∧
    namedCode 0 { (readNamed ((zeroEntry true).namedWho 0 0) 0 readyState).1 with fault := true } = 7 ∧
    (match headFit (zeroEntry true) 0 (readNamed ((zeroEntry true).namedWho 0 0) 0 readyState).1
        (readNamed ((zeroEntry true).namedWho 0 0) 0 readyState).2 with
      | .on cores => cores == [(0, 0)]
      | _ => false) = true ∧
    ([0] : List Nat).Nodup ∧ (copyImages ((zeroEntry true).namedWho 0 0) [(0, 0)] [] readyState).1 = true ∧
    (65535 : Nat) < 65536 :=
  ⟨by decide +kernel, by decide +kernel, by decide +kernel, by decide +kernel, by decide +kernel, rfl, by decide +kernel,
    by decide +kernel, by decide +kernel, by decide +kernel, by decide +kernel, by decide⟩

/-- The hart of journal 15 of context 0: s1 an address or the journal, s2 the journal, a position or a place. -/
def journalState (J : Journal) (u v : Word) : State :=
  (testState (testHart [(1, u), (2, v)])).setJournal 15 { J with enabled := true, base := 0xFFF10000000400, lsz := 4 }

/-- A well-formed record at 0x40 of the core scratchpad. -/
def withRecord (s : State) : State := s.setMem { s.mm with cells := writeLE s.mm.cells (scratchKey 0 0x40) 32 1 }
theorem witness_JournalsComplete_commands :
    (∀ s ∈ [journalState Journal.initial 0xFFF10000000040 15, journalState { Journal.initial with fin := 16 } 0xFFF10000000040 15],
      s.agent = .scalar 0 ∧ (s.hart 0).settled = true ∧ (s.hart 0).full [1, 2, 3] [] ∧ (s.journalAt 15).enabled = true ∧
      (s.journalAt 15).ctx = (s.hart 0).place.lctx.toNat ∧ (s.hart 0).regs.readS 2 = BitVec.ofNat 64 15 ∧
      ownStalls 0 0xFFF10000000040 32 .read s = false ∧ (s.hart 0).owes (onStream 0) = false ∧ s.journal.ref = false ∧
      (let s1 := forceLoads 0 (onStream 0) (withRecord s)
       okWith (readAt (s1.who 0) 0xFFF10000000040 32 s1) (fun n s2 =>
        let K := s2.journalAt 15
        journalRecordOk (BitVec.ofNat 256 n) && (K.full == decide (K.fin = 16)) && !ownStalls 0 (K.ring K.fin).toNat 32 .write s2 &&
          okWith (accessBy (s2.who 0) (K.ring K.fin).toNat 32 .write s2) (fun _ _ => true)) = true)) ∧
    (let s := journalState { Journal.initial with fin := 16, dw := 9, tr := 3 } 15 9
     (s.hart 0).regs.readS 1 = BitVec.ofNat 64 15 ∧ bits (9 : Word) 0 56 ≤ (s.journalAt 15).dw ∧
       (s.journalAt 15).dw < bits (10 : Word) 0 56 ∧ bits (16 : Word) 0 56 ≤ (s.journalAt 15).fin ∧
       bits (3 : Word) 0 56 ≤ (s.journalAt 15).tr ∧ (s.journalAt 15).tr < bits (4 : Word) 0 56 ∧
       { s with journal := { s.journal with ref := true } }.journal.ref = true) ∧
    (let v : Word := 15 * 2 ^ 56 + 15
     let s := journalState { Journal.initial with fin := 16, dw := 9, tr := 3 } 0xFFF10000000040 v
     v.getLsbD 63 = false ∧ v.getLsbD 62 = false ∧ bits v 56 6 = 15 ∧ (s.journalAt 15).tr ≤ bits v 0 56 ∧
       bits v 0 56 < (s.journalAt 15).fin ∧
       ownStalls 0 ((s.journalAt 15).ring 15).toNat 32 .read s = false ∧
       okWith (readAt (s.who 0) ((s.journalAt 15).ring 15).toNat 32 s) (fun _ s1 =>
         !ownStalls 0 0xFFF10000000040 32 .write s1 &&
         okWith (accessBy (s1.who 0) 0xFFF10000000040 32 .write s1) (fun m _ => m.peer.isNone)) = true) := by
  unfold Hart.full
  decide +kernel

/-- Mirror entry 63, valid, of peer 5's journal 2: its ring of 16 records at 0x4000, END and TRUNC as given. -/
def mirrorState (fin tr : Nat) : State :=
  let m := 1 + 0x100 * 2 ^ 70 + 5 * 2 ^ 116 + 2 * 2 ^ 132 + 4 * 2 ^ 136 + tr * 2 ^ 144 + fin * 2 ^ 200
  let s := testState (kernelHart (testHart [(1, 0xFFF10000000040), (2, 0x8000000000000000 + 63 * 2 ^ 56 + 3)]))
  { s.setMem { s.mm with cells := writeLE s.mm.cells (0x2000 + 32 * 63) 32 m } with
    journal := { s.journal with jrmbase := 0x2001 }
    ports := s.ports.set 1 { Port.initial with up := true, peer := 5 } }
theorem witness_JournalsComplete_mirror :
    (∀ s ∈ [mirrorState 4 3, mirrorState 4 4, mirrorState 3 3],
      s.mirrorValid 63 = true ∧ 1 ≤ (s.hart 0).plev.toNat ∧
      (let s1 := physRead (mirrorRing (s.mirror 63) 3) 32 (physRead (s.mirrorAddr 63) 32 s)
       poisoned s1.mm true (mirrorRing (s.mirror 63) 3) 32 = false ∧ ownStalls 0 0xFFF10000000040 32 .write s1 = false ∧
         okWith (accessBy (s1.who 0) 0xFFF10000000040 32 .write s1) (fun l _ => l.peer.isNone) = true) ∧
      (let v := (s.hart 0).regs.readS 2
       v.getLsbD 63 = true ∧ v.getLsbD 62 = false ∧ bits v 56 6 = 63 ∧ bits v 0 56 = 3) ∧
      s.mirrorOf (s.peerOn 1) 2 = some 63 ∧ s.portUp 1 = true ∧ s.journal.closed.contains 63 = false ∧
      ∀ n ∈ [3, 4, 5], isStackPa (mirrorRing (s.mirror 63) n) = true) ∧
    bits ((mirrorState 4 3).mirror 63) 144 56 = 3 ∧ bits ((mirrorState 4 3).mirror 63) 200 56 = 4 ∧
    bits ((mirrorState 4 4).mirror 63) 200 56 ≤ bits ((mirrorState 4 4).mirror 63) 144 56 ∧
    bits ((mirrorState 4 3).mirror 63) 136 5 = 4 ∧ bits ((mirrorState 19 3).mirror 63) 200 56 - 3 = 2 ^ 4 := by decide +kernel

/-- A tailstock is current, and hart 0 waits for a truncation of journal 15 to 9. -/
def tailState : State :=
  let s := journalState { Journal.initial with fin := 16, dw := 9, tr := 3 } 15 9
  let s1 := s.setHart 0 { s.hart 0 with cmds := [⟨0, 3, .trunc 15 9⟩] }
  { s1 with
    journal := { s1.journal with tail := some 2, cand := s1.journal.cand.set 2 (0x8000000000000000 + 1 * 2 ^ 16 + 5) }
    ports := s1.ports.set 1 { Port.initial with up := true, peer := 5 } }
theorem witness_JournalsComplete_answers : tailState.journal.tail.isSome = true ∧ tailState.tailUnreached = false ∧
    (tailState.journalAt 15).enabled = true ∧ (tailState.hart 0).truncOf 15 = some 9 ∧ 9 ≤ (tailState.journalAt 15).dw := by
  decide +kernel

/-- A hart whose s1 and s2 name places in the core scratchpad, where the words of a list stand. -/
def pipeState (u v : Word) (ws : List (Nat × Nat)) : State :=
  let s := testState (testHart [(1, u), (2, v)])
  let cells := ws.foldl (fun (c : List Host.Cell) (e : Nat × Nat) => writeLE c (scratchKey 0 e.1) 8 e.2) s.mm.cells
  s.setMem { s.mm with cells := cells }
theorem witness_PipelinesComplete_hash :
    (let s := pipeState 0xFFF10000000040 0xFFF10000000080 []
     s.agent = .scalar 0 ∧ (s.hart 0).settled = true ∧ (s.hart 0).full [1, 2, 3] [] ∧
       ((s.hart 0).regs.readS 1).toNat % 64 = 0 ∧ ((s.hart 0).regs.readS 2).toNat % 32 = 0 ∧
       (s.hart 0).q0Free 0xFFF10000000080 64 = true ∧ (s.hart 0).q0Free 0xFFF10000000040 64 = true ∧
       okWith (readSpan (s.who 0) (spanPages 64) 0xFFF10000000040 64 (forceLoads 0 (onStream 0) s)) (fun rd s1 =>
         (s1.hart 0).q0Free 0xFFF10000000080 32 &&
         okWith (readSpan (s1.who 0) (spanPages 32) 0xFFF10000000080 32 (forceLoads 0 (onStream 0) s1)) (fun _ s2 =>
           stageRecordOk (bytesToNat rd) && (s2.hart 0).q0Free 0 0 &&
           decide ((s2.hart 0).loop.st ≠ 3) &&
           okWith (readSpan (s2.who 0) (spanPages 0) 0 0 (forceLoads 0 (onStream 0) s2)) (fun _ s3 =>
             !ownStalls 0 (0xFFF10000000080 + 32) 32 .write s3 &&
             okWith (accessBy (s3.who 0) (0xFFF10000000080 + 32) 32 .write s3) (fun l _ => l.peer.isNone)))) = true) := by
  unfold Hart.full
  decide +kernel

/-- A binding record of one stage of at most one byte a message, on this device or on node 9; and a descriptor of one byte. -/
def bindState (dev : Nat) : State :=
  noteStage 0 false ((pipeState 0xFFF10000000040 0 [(0x40, 1), (0x88, 1 + dev * 2 ^ 16)]).setQueue 0 (launchQueue 0x8000 []))
def stageWord (dev : Nat) : BitVec 512 := BitVec.ofNat 512 (2 ^ 64 + dev * 2 ^ 80)

/-- One stage on this device can be launched, with a prefix entry or without. -/
theorem stage_launches (key : Option (BitVec 256)) : ∃ s6, queueStages 0 [stageWord 0] 0 [0]
    (addInst (newInst 0 0 0 (stageWord 0) key 0 0) 0 (bindState 0)) = (none, s6) := by
  have hp (s : State) : State.prefixCount { s with pipes := { s.pipes with insts := [newInst 0 0 0 (stageWord 0) key 0 0] } } ≤ 1 :=
    List.length_filter_le _ _
  have h1 : State.isHere (bindState 0) (BitVec.ofNat 16 (bits (stageWord 0) 80 16)) = true := by decide +kernel
  have h2 : queueTakes (stageWord 0) (bindState 0) = true := by decide +kernel
  have h3 : ¬ 1024 < (addInst (newInst 0 0 0 (stageWord 0) key 0 0) 0 (bindState 0)).prefixCount := by
    have := hp (addInst (newInst 0 0 0 (stageWord 0) key 0 0) 0 (bindState 0))
    change State.prefixCount (addInst (newInst 0 0 0 (stageWord 0) key 0 0) 0 (bindState 0)) ≤ 1 at this
    omega
  refine ⟨queueStage 0 0 (stageWord 0) 0 (addInst (newInst 0 0 0 (stageWord 0) key 0 0) 0 (bindState 0)), ?_⟩
  unfold queueStages
  simp only [List.getD_cons_zero]
  rw [if_neg (by rw [show State.isHere (addInst _ 0 (bindState 0)) _ = State.isHere (bindState 0) _ from rfl, h1]; decide),
    if_neg h3, if_neg (by rw [show queueTakes _ (addInst _ 0 (bindState 0)) = queueTakes _ (bindState 0) from rfl, h2]; decide)]
  rfl
theorem witness_PipelinesComplete_records :
    (∀ d ∈ [0, 9], let s := bindState d
     (s.hart 0).full [1, 3] [] ∧ (s.hart 0).owes (fun _ => true) = false ∧ (s.hart 0).copyStalls (fun _ => true) 0xFFF10000000040 64 = false ∧
     (s.hart 0).loop.st ≠ 3 ∧
     (let s1 := forceLoads 0 (onStream 0) (forceDone 0 (fun _ => true) (forceLoads 0 (fun _ => true) s))
     okWith (readAt (s1.who 0) 0xFFF10000000040 64 s1)
       (fun v s2 =>
         let hd := BitVec.ofNat 512 v
         bindHeaderOk hd && (bits hd 0 5 == 1) &&
           okWith (readSpan (s2.who 0) (spanPages 64) (0xFFF10000000040 + 64) 64 s2) (fun bs s3 =>
             (BitVec.ofNat 512 (bytesToNat bs) == stageWord d) && (s3.nodeUp (BitVec.ofNat 16 d) == (d == 0)))) = true) ∧
     stageEntryOk (stageWord d) = true) ∧
    (∀ k, (bindState 0).entryOf k = none) := by
  refine ⟨?_, fun k => rfl⟩
  unfold Hart.full
  decide +kernel

/-- The stage of the record is one without the fixed-order bit, so it is not shared; and the prefix table holds nothing. -/
theorem witness_PipelinesComplete_leading (k : BitVec 256) :
    leading true ([k].take (sharable [stageWord 9] (bindState 9))) (bindState 9) = (0, bindState 9) ∧
    leading false [k] (bindState 0) = (0, bindState 0) := by
  rw [show sharable [stageWord 9] (bindState 9) = 0 by decide +kernel]
  exact ⟨rfl, rfl⟩

/-- A pipeline of context 0 in state st, its one stage instance 4 here, and messages before it. -/
def testPipeline (st : BitVec 2) : Pipeline :=
  { handle := 7, ctx := 0, level := 0, header := 1, stages := [stageWord 0], insts := [4], depth := 0, st := st, waits := [] }
def testStage (owner : Option Word) : StageInstance := { newInst 4 7 0 (stageWord 0) none 0 0 with owner := owner }
def messageState (st : BitVec 2) (owner : Option Word) (B : Inbox) : State :=
  let s := pipeState 0xFFF10000000040 0 [(0x40, 7), (0x50, 15 + 2 ^ 32), (0x58, 0xFFF10000000100)]
  { s with pipes := { s.pipes with pipes := [testPipeline st], insts := [testStage owner], inboxes := [B] } }
def stageInbox (n : Nat) : Inbox :=
  { who := .stage 4, msgs := List.replicate n ⟨0, [1], true⟩, next := 0, ended := false, failed := false }
theorem witness_PipelinesComplete_messages :
    (let s := messageState 1 (some 7) (stageInbox 0)
     (s.hart 0).q0Free 0xFFF10000000040 32 = true ∧ (s.hart 0).loop.st ≠ 3 ∧
       (s.hart 0).gateWaits (s.hart 0).nextId = false ∧ (s.journal.ref && s.ownsJournal 0) = false ∧
       okWith (readAt ((forceLoads 0 (onStream 0) s).who 0) 0xFFF10000000040 32 (forceLoads 0 (onStream 0) s)) (fun v s2 =>
         let m := BitVec.ofNat 256 v
         descriptorOk m && (bits m 0 64 == 7) && (bits m 128 4 == 15) && (bits m 160 16 == 1) &&
           decide (1 ≤ sendLimit 7 15 s2) && !(s2.hart 0).owes (fun _ => true) &&
           okWith (readSpan ((forceDone 0 (fun _ => true) (forceLoads 0 (fun _ => true) s2)).who 0) (spanPages 1) (bits m 192 56) 1
             (forceDone 0 (fun _ => true) (forceLoads 0 (fun _ => true) s2))) (fun _ _ => true) &&
           okWith (checkSpan (s2.who 0) (spanPages 1) (bits m 192 56) 1 s2) (fun _ _ => true)) = true) ∧
    (∀ st ∈ [(1 : BitVec 2), 2], (messageState st (some 7) (stageInbox 0)).pipeline 7 = some (testPipeline st) ∧
      (testPipeline st).ctx = 0 ∧ (2 ≤ (testPipeline st).st.toNat ↔ st = 2)) ∧
    calm.pipeline 7 = none ∧ (testPipeline 1).insts[0]? = some 4 ∧
    (messageState 1 (some 7) (stageInbox 0)).isHere (testStage (some 7)).dev = true ∧
    ((messageState 1 (some 7) (stageInbox 64)).inbox (.stage 4)).full = true ∧
    ((messageState 1 (some 7) (stageInbox 63)).inbox (.stage 4)).full = false ∧
    ((messageState 1 (some 7) (stageInbox 63)).inbox (.stage 4)).tail = 63 ∧
    (let s := messageState 1 (some 7) { who := .sink 7, msgs := [⟨3, [1, 2], true⟩], next := 3, ended := false, failed := false }
     s.receiver 7 15 = some (.sink 7) ∧ (s.inbox (.sink 7)).msgs = [⟨3, [1, 2], true⟩]) ∧
    (messageState 1 (some 7) (stageInbox 0)).receiver 7 0 = some (.stage 4) ∧
    ({ stageInbox 0 with ended := true } : Inbox).ended = true := by decide +kernel
/-- A stage 0 on device 9 that the pipeline shares, and port 1 up; a message that a page of the scratchpad takes. -/
theorem witness_PipelinesComplete_far :
    (let X : StageInstance := { newInst 4 7 0 (stageWord 9) (some 0x2A) 0 0 with users := [7, 8] }
     let s0 := messageState 1 none (stageInbox 0)
     let s : State := { s0 with
       pipes := { s0.pipes with insts := [X] }
       ports := s0.ports.set 1 { Port.initial with up := true, peer := 9 } }
     (s.port 1).up = true ∧
       s.pipes.insts.find? (fun X => X.key == some (BitVec.ofNat 256 (bytesToNat [0x2A])) && X.users.contains 8 && !s.isHere X.dev) =
         some X) ∧
    ([1, 2] : List Byte) ≠ [] ∧ (0xFFF10000000100 : Word).toNat % 4096 + ([1, 2] : List Byte).length ≤ 4096 ∧
    (let s := messageState 1 (some 7) { who := .sink 7, msgs := [⟨3, [1, 2], true⟩], next := 3, ended := false, failed := false }
     okWith (writeAt (s.who 0) 0xFFF10000000100 2 (bytesToNat [1, 2]) s) (fun _ _ => true) = true) := by decide +kernel
theorem witness_PipelinesComplete_stages :
    ∀ o ∈ [some (7 : Word), none], (messageState 1 o (stageInbox 0)).stageInst 4 = some (testStage o) := by
  simp only [List.forall_mem_cons, List.not_mem_nil, false_imp_iff, implies_true, and_true]
  exact ⟨rfl, rfl⟩

/-- A state whose page of stack memory at 0x40000 is sealed by a leaf that a TLB holds, its host link up, port 15 up to peer 5
with the window of its first GiB, and a host line in the L2. -/
def linkState (up : Bool) : State :=
  { calm with
    links := { calm.links with hostUp := true }
    mm := { calm.mm with tlb := [⟨0, 0, 0x40000, 0x1000, BitVec.ofNat 64 (2 ^ 61 + 0x40003), 0⟩], l2 := [(2 ^ 48 / 64, ⟨1, 1, 0, 0, 0, 0, true⟩)] }
    trust := { calm.trust with bstSt := 3 }
    ports := calm.ports.set 15 { Port.initial with up := up, peer := 5, lkinb := 0x8000000000000001 } }
theorem witness_LinksComplete_host :
    (linkState true).links.hostUp = true ∧ isStackPa 0 = true ∧ isStackPa (0x40000 + 64 - 1) = true ∧
    sealedAt (linkState true) 0 64 = false ∧ sealedAt (linkState true) 0x40000 64 = true ∧ isHostPa (2 ^ 48) = true ∧
    tfind (linkState true).mm.l2 (2 ^ 48 / 64) = some ⟨1, 1, 0, 0, 0, 0, true⟩ ∧ (linkState true).trust.bstSt = 3 ∧
    calm.trust.bstSt ≠ 3 ∧ [(1 : Byte)] ≠ [] ∧ 2 ^ 48 % 64 + [(1 : Byte)].length ≤ 64 := by decide +kernel

/-- The CRC of zeros, from 0 on, is 0. -/
theorem crc64_zeros (n : Nat) : crc64 (List.replicate n 0) = 0 := by
  have step : ((List.range 8).foldl (fun (x : BitVec 64) _ =>
      if x.getLsbD 63 then (x <<< 1) ^^^ 0x42F0E1EBA9EA3693#64 else x <<< 1)
      (0#64 ^^^ (((0 : Byte).setWidth 64)).shiftLeft 56)) = 0#64 := by decide
  induction n with
  | zero => rfl
  | succ n ih =>
    unfold crc64 at ih ⊢
    rw [List.replicate_succ, List.foldl_cons, step]
    exact ih

/-- The first flit of a fresh port may be all zeros. -/
theorem witness_LinksComplete_flit : (List.replicate 144 (0 : Byte)).length = 144 ∧
    crc64 ((List.replicate 144 (0 : Byte)).take 136) = BitVec.ofNat 64 (bytesToNat ((List.replicate 144 (0 : Byte)).drop 136)) ∧
    bits (BitVec.ofNat 64 (bytesToNat ((List.replicate 144 (0 : Byte)).take 8))) 48 16 = ((linkState true).port 15).rxSeq.toNat := by
  refine ⟨by decide +kernel, ?_, by decide +kernel⟩
  rw [show (List.replicate 144 (0 : Byte)).take 136 = List.replicate 136 0 by decide +kernel, crc64_zeros]
  decide +kernel
theorem witness_LinksComplete_ports :
    ((linkState false).port 15).up = false ∧ (linkState false).trust.bstSt = 3 ∧ ((linkState true).port 15).up = true ∧
    ((linkState true).port 15).unacked < 256 ∧ 256 ≤ ({ Port.initial with unacked := 256 } : Port).unacked ∧
    (∀ q : Fin 16, q.val ≠ 15 → ¬((linkState true).ports[q].up = true ∧ (linkState true).ports[q].peer = 5)) ∧
    (let s := (linkState true).setPort 3 { Port.initial with up := true, peer := 5 }
     s.ports[3].up = true ∧ s.ports[3].peer = ((linkState true).port 15).peer) ∧
    (let P := (linkState true).port 15
     inWindow P 0 8 = true ∧ inWindow P (2 ^ 30 - 8) 8 = true ∧ inWindow P (2 ^ 30) 8 = false ∧
       inboundPieces false 0xFFC 8 (linkState true) = [(0xFFC, 4), (0x1000, 4)] ∧
       inboundPieces true 0xFFC 8 (linkState true) = [(0xFFC, 8)] ∧
       (∀ q ∈ inboundPieces false 0xFFC 8 (linkState true), sealedAt (linkState true) q.1 q.2 = false) ∧
       (∃ q ∈ inboundPieces false 0x40000 8 (linkState true), sealedAt (linkState true) q.1 q.2 = true) ∧
       (8 : Nat) = (AmoOp.of (3 - 2)).size ∧ (4 : Nat) = (AmoOp.of (2 - 2)).size) := by decide +kernel

/-- The device in the reduced service, its stacks trained as given. -/
def trainState (trn failed : BitVec 8) : State :=
  { State.reset with trust := { State.reset.trust with bstSt := 2, trained := trn, failed := failed } }
/-- The full service begun, with launches that hold cores. -/
def drainState (L : List (Nat × Launch)) : State :=
  let s := trainState 0xFF 0
  { s with trust := { s.trust with bstSt := 3, draining := true }, launch := { s.launch with resident := L } }
theorem witness_TrustComplete_bringUp :
    (trainState 0 0).trust.bstSt = 2 ∧ (trainState 0x7F 0).trust.trained.getLsbD 7 = false ∧
    (trainState 0 0).trust.failed.getLsbD 7 = false ∧ (drainState []).trust.bstSt = 3 ∧ (drainState []).trust.draining = true ∧
    (∀ L ∈ (drainState []).launch.resident, ∀ c ∈ L.2.cores, quarterOf c.2 ≠ 0) ∧
    (∃ L ∈ (drainState [(0, fetchLaunch [])]).launch.resident, ∃ c ∈ L.2.cores, quarterOf c.2 = 0) := by decide +kernel

/-- Of any images a first one fails, or all are taken: whichever the checks give, one k meets the hypotheses. -/
theorem witness_TrustComplete_images (r : List FirmwareImage) : ∃ k ≤ r.length,
    (∀ m ∈ r.take k, Claims.accepted m) ∧ (∀ m, r[k]? = some m → ¬Claims.accepted m) := by
  induction r with
  | nil => exact ⟨0, Nat.le_refl _, by simp, by simp⟩
  | cons m r ih =>
    by_cases h : Claims.accepted m
    · obtain ⟨k, hk, h1, h2⟩ := ih
      refine ⟨k + 1, Nat.succ_le_succ hk, ?_, by simpa using h2⟩
      intro x hx
      rcases List.mem_cons.mp hx with rfl | hx
      · exact h
      · exact h1 x hx
    · exact ⟨0, Nat.zero_le _, by simp, by simpa using h⟩

/-- Four images of which the first fails: its signature is none. -/
theorem witness_TrustComplete_refused : ∀ m, [blankImage, blankImage, blankImage, blankImage][0]? = some m → ¬Claims.accepted m := by
  intro m hm h
  have hb : m = blankImage := by simpa using hm.symm
  subst hb
  exact absurd h.2.2.1 (by decide)

/-- A host-assisted event, waiting and pending. -/
def testEvent (k : Nat) : HostEvent := ⟨k, 3, 0⟩
def eventsState (k : Nat) (n : Nat) : State :=
  { trainState 0 0 with trust := { (trainState 0 0).trust with waiting := [testEvent k], hostq := List.replicate n (testEvent k) } }
theorem witness_TrustComplete_events :
    (trainState 0 0).trust.job = none ∧
    (∀ j ∈ [MailboxJob.quote [], .pubkeys, .state, .unknown, .extend 4 [], .extend 7 [], .extend 3 [], .extend 8 [], .keyload 1 [] [],
      .keyload 0x400 [] [], .keyclr 1, .keyclr 0x400, .event, .reply 3 [0x15]],
      ({ (trainState 0 0).trust with job := some j } : TrustState).job = some j) ∧
    slotAwaited 1 ((trainState 0 0).setHart 0 { testHart [] with updates := [⟨{ physLoc 0 4 with slot := 1 }, false, 1, 3, ⟨0, 0⟩, 0⟩] }) =
      true ∧ (trainState 0 0).trust.bstSt ≠ 1 ∧ bits (1 : Word) 0 10 ≠ 0 ∧ slotAwaited 1 (trainState 0 0) = false ∧ bits (0x400 : Word) 0 10 = 0 ∧ (8 : Nat) < bits (9 : Word) 0 8 ∧
    bits (0x100 : Word) 0 8 = 0 ∧ (eventsState 1 63).trust.hostq.length < 64 ∧
    takeEvent 1 (eventsState 1 63).trust.waiting = some (testEvent 1, []) ∧
    (eventsState 1 1).trust.hostq = [testEvent 1] ∧
    (eventsState 1 1).trust.hostq.find? (fun e => e.tag.toNat == 3) = some (testEvent 1) ∧
    (eventsState 1 1).trust.hostq.find? (fun e => e.tag.toNat == 4) = none ∧
    answerOk 1 [0x15] = true ∧ answerOk 1 [0x16] = false ∧ answerOk 2 [31] = true ∧ answerOk 2 [32] = false := by decide +kernel

/-- Both outcomes of a KEYLOAD: whichever the tag check gives, one of the clauses applies. -/
theorem witness_TrustComplete_keys (w r : List Byte) :
    loadedKey w r (trainState 0 0).trust = none ∨ ∃ k, loadedKey w r (trainState 0 0).trust = some k := by
  cases h : loadedKey w r (trainState 0 0).trust with
  | none => exact Or.inl rfl
  | some k => exact Or.inr ⟨k, rfl⟩
theorem witness_EveryInstructionRuns : State.reset.agenda = [] ∧ State.reset.agent.present = true := by decide

/-- The agents that stand at a word: hart 0, its block instance, its queue, a near-bank thread; an event on the agenda. -/
theorem witness_StepRunsDecoded :
    (let s := State.reset.withFetchWord 32 0x00CA5201
     s.agenda = [] ∧ s.trust.bstSt ≠ 1 ∧ s.assistOf (streamAgent 0 0) = none ∧ s.agent = .scalar 0 ∧ (s.hart 0).status ≠ .idle ∧ (s.hart 0).status ≠ .retired ∧
       (s.hart 0).pendingAsync = none ∧ (s.hart 0).pc.toNat % 4 = 0 ∧ (s.hart 0).loop.st ≠ 1 ∧ (s.hart 0).settled = true ∧
       okWith (fetchWord 0 (s.hart 0).pc { s with steps := s.steps + 1, limit := none, blocked := false, wrote := [], walked := [] }) (fun w _ => w == 0x00CA5201) = true) ∧
    (let s := State.reset.withFetchWord 32 0x06440441
     s.agent = .vector 0 ∧ (s.hart 0).vec.inst ≠ none ∧ (s.hart 0).mcheck = none ∧
       s.assistOf (streamAgent 0 1) = none ∧ (s.hart 0).vec.vpc.toNat % 4 = 0 ∧
       okWith (fetchWord 0 (s.hart 0).vec.vpc { s with steps := s.steps + 1, limit := none, blocked := false, wrote := [], walked := [] }) (fun w _ => w == 0x06440441) = true) ∧
    (let s := { queueState 8 0 with trust := (trainState 0 0).trust }
     s.agenda = [] ∧ s.trust.bstSt ≠ 1 ∧ s.assistOf (streamAgent 0 2) = none ∧ s.agent = .queue 0 ∧ (s.hart 0).vec.inst = none ∧
       (s.hart 0).mcheck = none ∧ ∃ e, (s.hart 0).headEntry = some e ∧ isVblk e.word = false) ∧
    (∀ x, (nearPages [pagesJob] [] x).agent = .nearBank 3 x ∧ (nearPages [pagesJob] [] x).assistOf (nearAgent 3) = none ∧
      pagesJob.code[(pagesJob.thread x).pc]? = some 0x00001054) ∧
    (let s := { vecState 2 with trust := (trainState 0 0).trust }
     s.agenda = [] ∧ s.trust.bstSt ≠ 1 ∧ ({ vecHart 2 with vec := { (vecHart 2).vec with begun := some 0x06440441 } } : Hart).vec.begun ≠ none ∧
       (s.hart 0).vec.begun = none) ∧
    (∀ x ∈ [Turn.perform 0 0, .element 0 0 0, .mailbox, .event .event], ({ calm with agenda := [x] } : State).agenda = [x]) ∧
    Claims.mayTrap (vecHart 2) ∧ ((vecHart 2).vec.inst ≠ none ∧ (0 : Word) ≠ 1) ∧
    ((nearPages [pagesJob] [] false).unit 3).running = some pagesJob ∧
    ((Instr.event).hasWord = false ∧ (Instr.event).wellFormed = true) ∧
    (let i := Instr.powerOnReset blankImage blankImage blankImage blankImage
     i.hasWord = false ∧ i.wellFormed = true ∧ isReset i = true) := by
  refine ⟨by decide +kernel, by decide +kernel, ⟨rfl, by decide +kernel, by decide +kernel, rfl, by decide +kernel, by decide +kernel,
    ⟨_, rfl, by decide +kernel⟩⟩, ?_, by decide +kernel, by decide +kernel, by unfold Claims.mayTrap; decide +kernel, by decide +kernel,
    by decide +kernel, by decide +kernel, by decide +kernel⟩
  intro x
  cases x <;> exact ⟨rfl, rfl, rfl⟩

/-- Register fields at their ends, and an immediate that is negative. -/
theorem witness_EncodeRoundTrip :
    (Instr.addi 0x2000 1 31 0).wellFormed = true ∧ (Instr.addi 0x2000 1 31 0).hasWord = true ∧
    (Instr.vintAdd 1 1 7 31 0 31).wellFormed = true ∧ (Instr.vintAdd 1 1 7 31 0 31).hasWord = true := by decide +kernel
theorem witness_WordsHaveOneMeaning : decode 0x004C5201 = .ok (.add 0 1 6 5 4) := rfl
theorem witness_ClassesKeepApart :
    calm.agent = .scalar 0 ∧ calm.limit = none ∧ (Instr.vintAdd 1 1 0 1 2 3).cls = .V ∧ (Instr.nqPush 1 6 0).cls = .N ∧
    Claims.mayTrap (calm.hart 0) ∧ (vecState 2).agent = .vector 0 ∧ (Instr.add 0 1 6 5 4).cls = .S ∧ (Instr.vdrain).cls = .Q := by
  unfold Claims.mayTrap
  decide +kernel

/-- A hart with one scalar register and one condition bit empty. -/
def emptyHart (r : BitVec 5) (k : BitVec 3) : Hart :=
  { testHart [] with regs := ((testHart []).regs.markS r).markK k }
theorem witness_EmptySources :
    (let H := emptyHart 31 7
     Claims.mayTrap H ∧ H.regs.isEmptyS 31 = true ∧ H.regs.isEmptyS 1 = false ∧ H.full [1, 2] [] ∧
       H.regs.isEmptyK 7 = true ∧ H.regs.isEmptyK 1 = false ∧ H.full [] [1, 2]) := by
  unfold Claims.mayTrap Hart.full
  decide +kernel
theorem witness_PrivilegeHolds : calm.agent = .scalar 0 ∧ Claims.mayTrap (calm.hart 0) ∧ (calm.hart 0).plev = 0 := by
  unfold Claims.mayTrap
  decide +kernel
theorem witness_DoubleTraps :
    (let s := testState (inTrap false)
     (s.hart 0).settled = true ∧ (s.hart 0).trapWaits = false ∧ (s.hart 0).trap.ts = true ∧ s.logs[0].entries = [] ∧
       s.assistOf (streamAgent 0 0) = none ∧ s.assistOf (streamAgent 0 1) = none ∧ s.handsOver 0 = false) ∧
    (let H := { inTrap false with trap := { (inTrap false).trap with tpc := 0x2002 } }
     H.settled = true ∧ 1 ≤ H.plev.toNat ∧ H.vectorIdle = true ∧ H.trap.tpc.toNat % 4 ≠ 0 ∧ H.trap.ts = true) ∧
    (let H := { inTrap true with
       vec := { (inTrap true).vec with frozen := some runningInst }
       trap := { (inTrap true).trap with vf := true, tpc := 0x2000, tvpc := 0x8001 } }
     H.settled = true ∧ 1 ≤ H.plev.toNat ∧ H.vectorIdle = true ∧ H.trap.tpc.toNat % 4 = 0 ∧ H.trap.vf = true ∧
       H.vec.frozen ≠ none ∧ H.trap.tvpc.toNat % 4 ≠ 0 ∧ H.trap.ts = true) := by
  decide +kernel

/-- A hart with a block instance that runs and an entry in its queue. -/
def busyHart : Hart :=
  { vecHart 2 with vec := { (vecHart 2).vec with queue := (queueHart 8 0).vec.queue, enq := ⟨1, 0⟩ } }
theorem witness_TrapsReturn : ∀ H ∈ [testHart [], busyHart],
    Claims.mayTrap H ∧ H.pc.toNat % 4 = 0 ∧ H.regs.empty = 0 ∧ H.trap.vf = false ∧ H.vec.hqueue = [] ∧
    H.obs.trcfg.getLsbD 63 = false ∧ H.trap.loaded = false ∧ (H.vec.inst ≠ none → H.vec.vpc.toNat % 4 = 0) := by
  unfold Claims.mayTrap
  decide +kernel
theorem witness_StoredBytes :
    (∃ p, (storeState.hart 0).loads = [p] ∧ p.kind = .store ∧ p.due = true ∧ p.loc.kopt = none ∧ p.loc.size = p.size ∧
      p.loc.n1 = p.size) ∧
    storeState.mm.seals = [] ∧ storeState.mm.mig.busy = false ∧ storeState.mm.mig.done = false ∧
    storeState.resetting = false ∧ ∀ e ∈ storeState.harts, some 0 ≠ some e.1 → e.2.loop.st ≠ 3 :=
  ⟨⟨_, rfl, by decide, by decide, by decide, by decide, by decide⟩, by decide, by decide, by decide, by decide, by decide⟩
theorem witness_MemoryStaysCanonical : Memory.wf State.reset.mm.cells = true ∧
    (match step State.reset with
      | .next _ => true
      | _ => false) = true := by decide +kernel
end

section
/-!
SUPPORT. Bits of a register that a write replaces, and the units of a tile: distinct units lie in distinct bytes (R160, R162).
-/
namespace Sys2Proof.VectorStream
open Sys2Proof.Machine

/-! ## Bits that a write replaces -/

theorem bits_testBit {w : Nat} (v : BitVec w) (lo n j : Nat) :
    (bits v lo n).testBit j = (decide (j < n) && v.getLsbD (lo + j)) := by
  rw [bits, Nat.testBit_mod_two_pow, Nat.testBit_div_two_pow]
  simp [BitVec.testBit_toNat, Nat.add_comm]

/-- The bits from lo on are replaced, every other bit stays. -/
theorem putBits_getLsbD {w : Nat} (v : BitVec w) {lo n : Nat} (x j : Nat) (hw : lo + n ≤ w) :
    (putBits v lo n x).getLsbD j =
      if lo ≤ j ∧ j < lo + n then x.testBit (j - lo) else v.getLsbD j := by
  have hv : v.toNat - bits v lo n * 2 ^ lo + x % 2 ^ n * 2 ^ lo =
      2 ^ lo * (2 ^ n * (v.toNat / 2 ^ lo / 2 ^ n) + x % 2 ^ n) + v.toNat % 2 ^ lo := by
    have h1 := Nat.div_add_mod v.toNat (2 ^ lo)
    have h2 := Nat.div_add_mod (v.toNat / 2 ^ lo) (2 ^ n)
    have h3 : v.toNat = 2 ^ lo * (2 ^ n * (v.toNat / 2 ^ lo / 2 ^ n)) + bits v lo n * 2 ^ lo + v.toNat % 2 ^ lo := by
      rw [Nat.mul_comm (bits v lo n), ← Nat.mul_add, bits, h2, h1]
    rw [Nat.mul_add, Nat.mul_comm (x % 2 ^ n)]
    omega
  have hlo : v.toNat % 2 ^ lo < 2 ^ lo := Nat.mod_lt _ (Nat.two_pow_pos lo)
  have hn : x % 2 ^ n < 2 ^ n := Nat.mod_lt _ (Nat.two_pow_pos n)
  have hj := v.getLsbD_of_ge j
  rw [putBits, hv, BitVec.getLsbD_ofNat, Nat.testBit_two_pow_mul_add _ hlo]
  by_cases h1 : j < lo
  · simp [h1, show ¬ lo ≤ j by omega, show j < w by omega, BitVec.testBit_toNat]
  · rw [if_neg h1, Nat.testBit_two_pow_mul_add _ hn]
    by_cases h2 : j < lo + n
    · simp [show lo ≤ j by omega, h2, show j < w by omega, show j - lo < n by omega]
    · rw [if_neg (show ¬ j - lo < n by omega), if_neg (by omega), Nat.testBit_div_two_pow, Nat.testBit_div_two_pow,
        show j - lo - n + n + lo = j by omega, BitVec.testBit_toNat]
      by_cases h3 : j < w
      · simp [h3]
      · simp [h3, hj (by omega)]

theorem bits_putBits_same {w : Nat} (v : BitVec w) {lo n : Nat} (x : Nat) (hw : lo + n ≤ w) :
    bits (putBits v lo n x) lo n = x % 2 ^ n := by
  refine Nat.eq_of_testBit_eq fun j => ?_
  rw [bits_testBit, putBits_getLsbD v x _ hw, Nat.testBit_mod_two_pow]
  by_cases h : j < n
  · rw [if_pos (by omega), Nat.add_sub_cancel_left]
  · simp [h]

theorem bits_putBits_apart {w : Nat} (v : BitVec w) {lo n k m : Nat} (x : Nat) (hw : lo + n ≤ w)
    (ha : k + m ≤ lo ∨ lo + n ≤ k) : bits (putBits v lo n x) k m = bits v k m := by
  refine Nat.eq_of_testBit_eq fun j => ?_
  rw [bits_testBit, bits_testBit, putBits_getLsbD v x _ hw]
  by_cases h : j < m
  · rw [if_neg (by omega)]
  · simp [h]

/-! ## Writing bytes of a register -/

/-- From V to W a vector state keeps all but its registers, its flags and what it notes of its writes. -/
def Writes (V W : VecState) : Prop :=
  ∃ v vst vdirty made kept, W = { V with v := v, vst := vst, vdirty := vdirty, made := made, kept := kept }

theorem writes_rfl (V : VecState) : Writes V V := ⟨_, _, _, _, _, rfl⟩

theorem writes_trans {U V W : VecState} (a : Writes U V) (b : Writes V W) : Writes U W := by
  obtain ⟨_, _, _, _, _, rfl⟩ := a
  obtain ⟨_, _, _, _, _, rfl⟩ := b
  exact ⟨_, _, _, _, _, rfl⟩

theorem writes_raise (V : VecState) (f : FFlags) : Writes V (V.raise f) := ⟨_, _, _, _, _, rfl⟩

theorem writes_regWrite (V : VecState) (r o n x : Nat) : Writes V (V.regWrite r o n x) := by
  unfold VecState.regWrite
  split
  · exact ⟨_, _, _, _, _, rfl⟩
  · exact writes_rfl V

theorem writes_putUnit (V : VecState) (g : Geometry) (prot : Bool) (F r u x : Nat) :
    Writes V (V.putUnit g prot F r u x) := by
  unfold VecState.putUnit
  dsimp only
  split
  · exact writes_regWrite ..
  · exact writes_trans (writes_regWrite ..) (writes_regWrite ..)

theorem writes_foldl (f : Nat → VecState → VecState) (hf : ∀ i V, Writes V (f i V)) (l : List Nat) :
    ∀ V, Writes V (l.foldl (fun V i => f i V) V) := by
  induction l with
  | nil => exact writes_rfl
  | cons i l ih => exact fun V => writes_trans (hf i V) (ih (f i V))

/-- A write of bytes within a register replaces them and leaves every other register as it is. -/
theorem regWrite_v (V : VecState) {r : Nat} (o n x : Nat) (hr : r < 32) (k : Fin 32) :
    (V.regWrite r o n x).v[k] = if r = k.val then putBits V.v[r] (8 * o) (8 * n) x else V.v[k] := by
  simp only [VecState.regWrite, hr, dif_pos, VecState.noteWrite]
  exact Vector.getElem_set hr k.isLt

theorem regRead_regWrite_same (V : VecState) {r o n : Nat} (x : Nat) (hr : r < 32) (ho : o + n ≤ 2048) :
    regRead (V.regWrite r o n x).v r o n = x % 2 ^ (8 * n) := by
  have h := regWrite_v V o n x hr ⟨r, hr⟩
  rw [if_pos rfl] at h
  simp only [regRead, hr, dif_pos]
  exact (congrArg (bits · (8 * o) (8 * n)) h).trans (bits_putBits_same _ x (by omega))

theorem regRead_regWrite_apart (V : VecState) {r o n q p : Nat} (x : Nat) (hr : r < 32) (ho : o + n ≤ 2048)
    (ha : r = q → p + n ≤ o ∨ o + n ≤ p) : regRead (V.regWrite r o n x).v q p n = regRead V.v q p n := by
  unfold regRead
  split
  · rename_i hq
    have h := regWrite_v V o n x hr ⟨q, hq⟩
    by_cases e : r = q
    · subst e
      rw [if_pos rfl] at h
      exact (congrArg (bits · (8 * p) (8 * n)) h).trans (bits_putBits_apart _ x (by omega) (by have := ha rfl; omega))
    · rw [if_neg e] at h
      exact congrArg (bits · (8 * p) (8 * n)) h
  · rfl

end Sys2Proof.VectorStream
end

section
/-!
SUPPORT. What a sweep that writes one value to each active unit leaves in the tile (R159, R162, R175).
-/
namespace Sys2Proof.VectorStream
open Sys2Proof.Machine

/-! ## Units of an unblocked format lie in distinct bytes -/

theorem blockOf_unblocked {ew : Nat} (bl : Nat) (h : ew < 14) : blockOf ew bl = 1 := by
  rw [blockOf, if_neg (by omega), if_neg (by omega)]

theorem geo_block {V : VecState} (prot : Bool) (h : V.ew < 14) : (V.geo prot).block = 1 := blockOf_unblocked V.bl h

/-- The units of a register fill no more than its visible bytes. -/
theorem geo_bytes (V : VecState) (prot : Bool) : (V.geo prot).per * (V.geo prot).unit ≤ 2048 := by
  refine Nat.le_trans (Nat.div_mul_le_self (regBytes prot) _) ?_
  cases prot <;> decide

/-- A unit ends within its register's visible bytes. -/
theorem geo_offset {V : VecState} {prot : Bool} (u : Nat) (hp : 0 < (V.geo prot).per) :
    u % (V.geo prot).per * (V.geo prot).unit + (V.geo prot).unit ≤ 2048 := by
  have h : (u % (V.geo prot).per + 1) * (V.geo prot).unit ≤ (V.geo prot).per * (V.geo prot).unit :=
    Nat.mul_le_mul_right _ (Nat.mod_lt u hp)
  have := geo_bytes V prot
  rw [Nat.succ_mul] at h
  omega

/-- Where unit i of a tile of an unblocked format lies: in a row of the tile, and in a register of that row. -/
structure UnitAt (V : VecState) (prot : Bool) (i : Nat) : Prop where
  row  : (V.rowOf (V.geo prot) i).1 < V.rows.toNat
  per  : 0 < (V.geo prot).per
  reg  : (V.rowOf (V.geo prot) i).2 / (V.geo prot).per < V.gf

theorem unitAt_of_lt {V : VecState} {prot : Bool} {i : Nat} (hew : V.ew < 14) (hs : V.shapeOk prot = true)
    (hi : i < V.units (V.geo prot)) : UnitAt V prot i := by
  have hb := geo_block prot hew
  have hlen : V.rowUnits (V.geo prot) ≤ V.gf * (V.geo prot).per := by
    simp only [VecState.shapeOk, Bool.and_eq_true, decide_eq_true_eq] at hs
    have := hs.1.2
    rwa [VecState.capacity, hb, Nat.mul_one, ← Nat.div_one V.len.toNat, ← hb] at this
  have hpos : 0 < V.rowUnits (V.geo prot) := by
    refine Nat.pos_of_ne_zero fun h => ?_
    simp [VecState.units, h] at hi
  have hu : i % V.rowUnits (V.geo prot) < V.gf * (V.geo prot).per := Nat.lt_of_lt_of_le (Nat.mod_lt _ hpos) hlen
  exact ⟨Nat.div_lt_of_lt_mul (by rwa [Nat.mul_comm]), Nat.pos_of_mul_pos_left (Nat.zero_lt_of_lt hu),
    Nat.div_lt_of_lt_mul (by rwa [Nat.mul_comm])⟩

/-- The register of a unit lies in the footprint of its field (R159). -/
theorem unitReg_bounds {V : VecState} {prot : Bool} {i F : Nat} (h : UnitAt V prot i) :
    let p := V.rowOf (V.geo prot) i
    F ≤ unitReg (V.geo prot) V.gf F p.1 p.2 ∧ unitReg (V.geo prot) V.gf F p.1 p.2 < F + V.span := by
  intro p
  have h1 : (p.1 + 1) * V.gf ≤ V.rows.toNat * V.gf := Nat.mul_le_mul_right _ h.row
  have h2 : p.2 / (V.geo prot).per < V.gf := h.reg
  rw [Nat.succ_mul] at h1
  simp only [unitReg, VecState.span]
  exact ⟨Nat.le_trans (Nat.le_add_right _ _) (Nat.le_add_right _ _), by omega⟩

/-- Distinct units of a tile share no byte. -/
theorem units_apart {V : VecState} {prot : Bool} {i j F : Nat} (hi : UnitAt V prot i) (hj : UnitAt V prot j) (hne : i ≠ j) :
    let g := V.geo prot
    let p := V.rowOf g i
    let q := V.rowOf g j
    unitReg g V.gf F p.1 p.2 = unitReg g V.gf F q.1 q.2 →
      q.2 % g.per * g.unit + g.unit ≤ p.2 % g.per * g.unit ∨ p.2 % g.per * g.unit + g.unit ≤ q.2 % g.per * g.unit := by
  intro g p q he
  have he' : V.gf * p.1 + p.2 / g.per = V.gf * q.1 + q.2 / g.per := by
    simp only [unitReg] at he
    rw [Nat.mul_comm V.gf, Nat.mul_comm V.gf]
    omega
  have hgf : 0 < V.gf := Nat.zero_lt_of_lt hi.reg
  have hrow : p.1 = q.1 := by
    have := congrArg (· / V.gf) he'
    simpa [Nat.mul_add_div hgf, Nat.div_eq_of_lt hi.reg, Nat.div_eq_of_lt hj.reg, p, q, g] using this
  have hreg : p.2 / g.per = q.2 / g.per := by rw [hrow] at he'; omega
  have hplace : p.2 % g.per ≠ q.2 % g.per := fun h => hne (Nat.ext_div_mod hrow (Nat.ext_div_mod hreg h))
  rcases Nat.lt_or_gt_of_ne hplace with h | h
  · right; rw [← Nat.succ_mul]; exact Nat.mul_le_mul_right _ h
  · left; rw [← Nat.succ_mul]; exact Nat.mul_le_mul_right _ h

/-! ## A unit's write -/

/-- The effect of unit i of a tile of hart H: the value of f goes to destination d, with its flags. -/
def writeUnit (H : Hart) (d : BitVec 5) (f : Nat → Nat → Nat → Nat × FFlags) (i : Nat) (V : VecState) : VecState :=
  let g := H.vec.geo H.obs.prot
  let p := H.vec.rowOf g i
  (V.putUnit g H.obs.prot d.toNat p.1 p.2 (f i p.1 p.2).1).raise (f i p.1 p.2).2

theorem wrote_eq_foldl (H : Hart) (m : BitVec 3) (d : BitVec 5) (f : Nat → Nat → Nat → Nat × FFlags) :
    Claims.wrote H m d f = { H with
      vec := (H.todo (H.vec.units (H.vec.geo H.obs.prot)) m).foldl (fun V i => writeUnit H d f i V) H.vec } := rfl

theorem writes_writeUnit (H : Hart) (d : BitVec 5) (f : Nat → Nat → Nat → Nat × FFlags) (i : Nat) (V : VecState) :
    Writes V (writeUnit H d f i V) := writes_trans (writes_putUnit ..) (writes_raise ..)

theorem mem_todo {H : Hart} {n i : Nat} {m : BitVec 3} :
    i ∈ H.todo n m ↔ i < n ∧ H.vec.estart.toNat ≤ i ∧ H.vec.active m i = true := by
  simp [Hart.todo]

section
variable {H : Hart} {d : BitVec 5} (f : Nat → Nat → Nat → Nat × FFlags) {V : VecState} (hew : H.vec.ew < 14)
  (hV : Writes H.vec V)
include hew hV

/-- In an unblocked format a unit's write is a write of its bytes. -/
theorem writeUnit_v (i : Nat) :
    let g := H.vec.geo H.obs.prot
    let p := H.vec.rowOf g i
    (writeUnit H d f i V).v =
      (V.regWrite (unitReg g H.vec.gf d.toNat p.1 p.2) (p.2 % g.per * g.unit) g.unit (f i p.1 p.2).1).v := by
  obtain ⟨_, _, _, _, _, rfl⟩ := hV
  simp only [writeUnit, VecState.putUnit, geo_block _ hew, if_true]
  rfl

variable (hd : d.toNat + H.vec.span ≤ 32)
include hd

theorem readUnit_writeUnit_same {i : Nat} (hi : UnitAt H.vec H.obs.prot i) :
    let g := H.vec.geo H.obs.prot
    let p := H.vec.rowOf g i
    readUnit (writeUnit H d f i V).v g H.vec.gf d.toNat p.1 p.2 = (f i p.1 p.2).1 % 2 ^ (8 * g.unit) := by
  intro g p
  have hr := (unitReg_bounds (F := d.toNat) hi).2
  rw [readUnit, writeUnit_v f hew hV i]
  exact regRead_regWrite_same V _ (Nat.lt_of_lt_of_le hr hd) (geo_offset _ hi.per)

theorem readUnit_writeUnit_ne {i j : Nat} (hi : UnitAt H.vec H.obs.prot i) (hj : UnitAt H.vec H.obs.prot j) (hne : i ≠ j) :
    let g := H.vec.geo H.obs.prot
    let p := H.vec.rowOf g i
    readUnit (writeUnit H d f j V).v g H.vec.gf d.toNat p.1 p.2 = readUnit V.v g H.vec.gf d.toNat p.1 p.2 := by
  intro g p
  have hr := (unitReg_bounds (F := d.toNat) hj).2
  rw [readUnit, writeUnit_v f hew hV j]
  exact regRead_regWrite_apart V _ (Nat.lt_of_lt_of_le hr hd) (geo_offset _ hj.per) (units_apart hj hi hne.symm)

theorem writeUnit_outside {j : Nat} (hj : UnitAt H.vec H.obs.prot j) (r : Fin 32)
    (hr : r.val < d.toNat ∨ d.toNat + H.vec.span ≤ r.val) : (writeUnit H d f j V).v[r] = V.v[r] := by
  obtain ⟨h1, h2⟩ := unitReg_bounds (F := d.toNat) hj
  rw [writeUnit_v f hew hV j, regWrite_v _ _ _ _ (Nat.lt_of_lt_of_le h2 hd), if_neg (by omega)]

/-! ## The sweep's writes -/

/-- After a sweep of some units each of them reads as its value, and every other unit as before. -/
theorem readUnit_foldl_writeUnit {i : Nat} (hi : UnitAt H.vec H.obs.prot i) (l : List Nat)
    (hl : ∀ j ∈ l, UnitAt H.vec H.obs.prot j) :
    let g := H.vec.geo H.obs.prot
    let p := H.vec.rowOf g i
    readUnit (l.foldl (fun V j => writeUnit H d f j V) V).v g H.vec.gf d.toNat p.1 p.2 =
      if i ∈ l then (f i p.1 p.2).1 % 2 ^ (8 * g.unit) else readUnit V.v g H.vec.gf d.toNat p.1 p.2 := by
  intro g p
  induction l generalizing V with
  | nil => rfl
  | cons j l ih =>
    obtain ⟨hj, hl⟩ := List.forall_mem_cons.mp hl
    rw [List.foldl_cons, ih (writes_trans hV (writes_writeUnit ..)) hl]
    by_cases hil : i ∈ l
    · simp [hil]
    · by_cases he : i = j
      · subst he
        rw [if_neg hil, if_pos (List.mem_cons_self ..), readUnit_writeUnit_same f hew hV hd hi]
      · rw [if_neg hil, if_neg (by simp [he, hil]), readUnit_writeUnit_ne f hew hV hd hi hj he]

theorem foldl_writeUnit_outside (l : List Nat) (hl : ∀ j ∈ l, UnitAt H.vec H.obs.prot j) (r : Fin 32)
    (hr : r.val < d.toNat ∨ d.toNat + H.vec.span ≤ r.val) :
    (l.foldl (fun V j => writeUnit H d f j V) V).v[r] = V.v[r] := by
  induction l generalizing V with
  | nil => rfl
  | cons j l ih =>
    obtain ⟨hj, hl⟩ := List.forall_mem_cons.mp hl
    rw [List.foldl_cons, ih (writes_trans hV (writes_writeUnit ..)) hl, writeUnit_outside f hew hV hd hj r hr]

end

/-- Settles O27: distinct units share no byte, so by induction on the units swept each reads as its own value. -/
theorem vectorWritesFrame : Obligations.VectorWritesFrame := by
  unfold Obligations.VectorWritesFrame
  intro H m d f g K hew hs hf
  have hd : d.toNat + H.vec.span ≤ 32 := by
    simp only [VecState.fieldOk, Bool.and_eq_true, decide_eq_true_eq] at hf
    exact hf.2
  have hl : ∀ j ∈ H.todo (H.vec.units g) m, UnitAt H.vec H.obs.prot j :=
    fun j hj => unitAt_of_lt hew hs (mem_todo.mp hj).1
  obtain ⟨v, vst, vdirty, made, kept, hW⟩ := writes_foldl _ (writes_writeUnit H d f) (H.todo (H.vec.units g) m) H.vec
  have hK : K = { H with vec := { H.vec with v := v, vst := vst, vdirty := vdirty, made := made, kept := kept } } := by
    rw [← hW]; exact wrote_eq_foldl H m d f
  have hv : ((H.todo (H.vec.units g) m).foldl (fun V i => writeUnit H d f i V) H.vec).v = v := by rw [hW]
  clear_value K
  subst hK
  refine ⟨fun i hi => ?_, fun r hr => ?_, rfl, rfl, rfl, rfl, rfl, rfl, rfl, rfl, rfl, rfl⟩
  · have h := readUnit_foldl_writeUnit f hew (writes_rfl H.vec) hd (unitAt_of_lt hew hs hi) _ hl
    rw [hv] at h
    simp only [mem_todo, hi, true_and] at h
    exact h
  · have h := foldl_writeUnit_outside f hew (writes_rfl H.vec) hd _ hl r hr
    rwa [hv] at h

end Sys2Proof.VectorStream
end

section
/-!
SUPPORT. The vector integer instructions: which elementwise operation each of them is, and what a dispatched elementwise
instruction leaves (R159, R175, R180).
-/
namespace Sys2Proof.VectorStream
open Sys2Proof.Machine

/-! ## A dispatched elementwise instruction -/

/-- Claims.wrote keeps the shape of the tile. -/
theorem wrote_shape (H : Hart) (m : BitVec 3) (d : BitVec 5) (f : Nat → Nat → Nat → Nat × FFlags) :
    Writes H.vec (Claims.wrote H m d f).vec := writes_foldl _ (writes_writeUnit H d f) _ _

/-- How an elementwise instruction acts on its units, as its meaning gives it to the frame of computing instructions. -/
def elementEffect (op : ElemOp) (m : BitVec 3) (d : BitVec 5) (srcs : List VecSrc) : VecEffect :=
  ⟨fmtGeo, m, sameReads (srcs.filterMap VecSrc.field), sameBytes [d.toNat], fun H R i V =>
    let g := H.vec.geo H.obs.prot
    let (r, u) := H.vec.rowOf g i
    let (x, fl) := op.f H.vec.ew (H.elemRounding H.vec.rm H.vec.sat i) (srcs.map (VecSrc.value H.vec R g r u))
    (V.putUnit g H.obs.prot d.toNat r u x).raise fl⟩

/-- An elementwise instruction that is dispatched writes the operation's value to each active unit and completes. -/
theorem elemOp_dispatched {s : State} {h : Nat} (word : Nat) (op : ElemOp) (m : BitVec 3) (d : BitVec 5)
    (srcs : List VecSrc) (hacc : op.accepts (s.hart h).vec.ew = true)
    (hd : Claims.dispatches s h ⟨some d.toNat, .same, srcs.filterMap VecSrc.field⟩) :
    let H := s.hart h
    let K := Claims.wrote H m d (fun i r u => op.f H.vec.ew (H.elemRounding H.vec.rm H.vec.sat i)
      (srcs.map (VecSrc.value H.vec H.vec.v (H.vec.geo H.obs.prot) r u)))
    (.next (elemOp word op m d srcs s) : Out) = Claims.ran s h ⟨some d.toNat, .same, srcs.filterMap VecSrc.field⟩
      (if op.rounds then K.advanceRandom (H.vec.rows.toNat * H.vec.len.toNat) else K) := by
  intro H K
  obtain ⟨ha, hl, h1, h2, h3, h5, ho⟩ := hd
  obtain ⟨t, ht, hset, hc⟩ := computing_whole word ⟨some d.toNat, .same, srcs.filterMap VecSrc.field⟩
    (fun V _ => op.accepts V.ew) (elementEffect op m d srcs) (fun h t => if op.rounds then drawn h t else t)
    ha hl h1 h2 h3 hacc h5 ho
  obtain ⟨w, hS⟩ := settleLoads_hart h (VecFields.names ⟨some d.toNat, .same, srcs.filterMap VecSrc.field⟩) s
  have hK : t.hart h = { K with vaccs := w } := by rw [ht, hS]; rfl
  have hb : K.binds = [] := h5
  have hrl : K.vec.rows = H.vec.rows ∧ K.vec.len = H.vec.len := by
    obtain ⟨v, vst, vdirty, made, kept, hW⟩ : Writes H.vec K.vec := wrote_shape H m d _
    rw [hW]; exact ⟨rfl, rfl⟩
  have he : elemOp word op m d srcs s = computing word ⟨some d.toNat, .same, srcs.filterMap VecSrc.field⟩
      (fun V _ => op.accepts V.ew) (elementEffect op m d srcs) (fun h t => if op.rounds then drawn h t else t) s := by
    unfold elemOp; rw [ha]; rfl
  rw [he, hc]
  cases hr : op.rounds
  · simp only [Bool.false_eq_true, if_false, hset, hK]
    rw [Hart.consume_unbound (by exact hb)]
    simp only [Claims.ran, hS]
    rfl
  · simp only [if_true, drawn, State.setHart_hart, State.setHart_setHart, hset, hK, hrl.1, hrl.2]
    rw [Hart.consume_unbound (by exact hb)]
    simp only [Claims.ran, hS]
    rfl

/-! ## The operations of vint, vint.g and vint.i (R180) -/

/-- The three instructions of an integer function, the first format that it does not take, and the function: an entry of
Claims.vints. -/
abbrev VintEntry : Type := (BitVec 1 → BitVec 1 → BitVec 3 → BitVec 5 → BitVec 5 → BitVec 5 → Instr) ×
    (BitVec 1 → BitVec 1 → BitVec 3 → BitVec 3 → BitVec 5 → BitVec 5 → Instr) ×
    (BitVec 1 → BitVec 1 → BitVec 3 → BitVec 5 → BitVec 5 → BitVec 5 → Instr) × Nat × (Nat → Nat → Nat → Nat × FFlags)

/-- The instructions of an entry run the elementwise operation op on a register and a register, a g register or an immediate. -/
structure Runs (e : VintEntry) (op : ElemOp) : Prop where
  reg : ∀ (y x : BitVec 1) (m : BitVec 3) (b a d : BitVec 5) (s : State),
    ∃ w, exec (e.1 y x m b a d) s = .next (elemOp w op m d [held a x, held b y] s)
  gr : ∀ (y x : BitVec 1) (m b : BitVec 3) (a d : BitVec 5) (s : State),
    ∃ w, exec (e.2.1 y x m b a d) s = .next (elemOp w op m d [held a x, .g b.toNat] s)
  imm : ∀ (y x : BitVec 1) (m : BitVec 3) (i a d : BitVec 5) (s : State),
    ∃ w, exec (e.2.2.1 y x m i a d) s = .next (elemOp w op m d [held a x, .imm i] s)

/-- Operation op computes f without rounding, in the formats below n. -/
structure Computes (op : ElemOp) (n : Nat) (f : Nat → Nat → Nat → Nat × FFlags) : Prop where
  exact   : op.rounds = false
  accepts : ∀ ew, ew < n → op.accepts ew = true
  value   : ∀ ew rd a b, op.f ew rd [a, b] = f (ewBits ew) a b

theorem intOp_computes {f : Nat → Rounding → List Nat → Nat × FFlags} {g : Nat → Nat → Nat → Nat × FFlags}
    (h : ∀ ew rd a b, f ew rd [a, b] = g (ewBits ew) a b) : Computes (intOp f) 8 g :=
  ⟨rfl, fun _ h => decide_eq_true h, h⟩

theorem bitOp_computes {f : Nat → Rounding → List Nat → Nat × FFlags} {g : Nat → Nat → Nat → Nat × FFlags}
    (h : ∀ ew rd a b, f ew rd [a, b] = g (ewBits ew) a b) : Computes (bitOp f) 14 g :=
  ⟨rfl, fun _ h => decide_eq_true h, h⟩

/-- The low bits of an integer are its residue. -/
theorem lowBits_eq_wrap (w : Nat) (z : Int) : lowBits w z = Claims.wrap w z := by
  simp [lowBits, Claims.wrap]

theorem clampS_eq_saturated (f : Int → Int → Int) (w a b : Nat) :
    clampS w (f (asInt w a) (asInt w b)) = Claims.saturated true f w a b := by
  simp [clampS, Claims.saturated]

theorem clampU_eq_saturated (f : Int → Int → Int) (w a b : Nat) :
    clampU w (f a b) = Claims.saturated false f w a b := by
  simp [clampU, Claims.saturated]

theorem vintArith_ops : ∀ e ∈ Claims.vintArith, ∃ op, Runs e op ∧ Computes op e.2.2.2.1 e.2.2.2.2 := by
  simp only [Claims.vintArith, List.forall_mem_cons]
  refine ⟨⟨vAdd, ?_, intOp_computes fun _ _ _ _ => rfl⟩,
    ⟨vSub, ?_, intOp_computes fun _ _ _ _ => congrArg (·, FFlags.none) (lowBits_eq_wrap _ _)⟩,
    ⟨vMul, ?_, intOp_computes fun _ _ _ _ => rfl⟩,
    ⟨vMulh, ?_, intOp_computes fun _ _ _ _ => by simp [plain2, Claims.plain, lowBits_eq_wrap]⟩,
    ⟨vMulhu, ?_, intOp_computes fun _ _ _ _ => rfl⟩,
    ⟨vMin, ?_, intOp_computes fun _ _ _ _ => rfl⟩, ⟨vMax, ?_, intOp_computes fun _ _ _ _ => rfl⟩,
    ⟨vMinu, ?_, intOp_computes fun _ _ _ _ => rfl⟩, ⟨vMaxu, ?_, intOp_computes fun _ _ _ _ => rfl⟩,
    List.forall_mem_nil _⟩
  all_goals exact ⟨fun _ _ _ _ _ _ _ => ⟨_, rfl⟩, fun _ _ _ _ _ _ _ => ⟨_, rfl⟩, fun _ _ _ _ _ _ _ => ⟨_, rfl⟩⟩

theorem vintBits_ops : ∀ e ∈ Claims.vintBits, ∃ op, Runs e op ∧ Computes op e.2.2.2.1 e.2.2.2.2 := by
  simp only [Claims.vintBits, List.forall_mem_cons]
  refine ⟨⟨vAnd, ?_, bitOp_computes fun _ _ _ _ => rfl⟩, ⟨vOr, ?_, bitOp_computes fun _ _ _ _ => rfl⟩,
    ⟨vXor, ?_, bitOp_computes fun _ _ _ _ => rfl⟩, ⟨vSll, ?_, bitOp_computes fun _ _ _ _ => rfl⟩,
    ⟨vSrl, ?_, bitOp_computes fun _ _ _ _ => rfl⟩,
    ⟨vSra, ?_, bitOp_computes fun _ _ _ _ => by simp [plain2, Claims.plain, lowBits_eq_wrap]⟩, List.forall_mem_nil _⟩
  all_goals exact ⟨fun _ _ _ _ _ _ _ => ⟨_, rfl⟩, fun _ _ _ _ _ _ _ => ⟨_, rfl⟩, fun _ _ _ _ _ _ _ => ⟨_, rfl⟩⟩

theorem vintSaturating_ops : ∀ e ∈ Claims.vintSaturating, ∃ op, Runs e op ∧ Computes op e.2.2.2.1 e.2.2.2.2 := by
  simp only [Claims.vintSaturating, List.forall_mem_cons]
  refine ⟨⟨vAdds, ?_, intOp_computes fun _ _ _ _ => clampS_eq_saturated _ _ _ _⟩,
    ⟨vSubs, ?_, intOp_computes fun _ _ _ _ => clampS_eq_saturated _ _ _ _⟩,
    ⟨vAddsu, ?_, intOp_computes fun _ _ _ _ => clampU_eq_saturated _ _ _ _⟩,
    ⟨vSubsu, ?_, intOp_computes fun _ _ _ _ => clampU_eq_saturated _ _ _ _⟩, List.forall_mem_nil _⟩
  all_goals exact ⟨fun _ _ _ _ _ _ _ => ⟨_, rfl⟩, fun _ _ _ _ _ _ _ => ⟨_, rfl⟩, fun _ _ _ _ _ _ _ => ⟨_, rfl⟩⟩

/-- Each integer function of the tables is one elementwise operation, run by its three instructions. -/
theorem vints_ops : ∀ e ∈ Claims.vints, ∃ op, Runs e op ∧ Computes op e.2.2.2.1 e.2.2.2.2 := by
  intro e he
  rw [Claims.vints, List.mem_append, List.mem_append] at he
  rcases he with (he | he) | he
  · exact vintArith_ops e he
  · exact vintBits_ops e he
  · exact vintSaturating_ops e he

/-- A g register as an operand is its low bits (R30). -/
theorem gSource_value (H : Hart) (b : BitVec 3) (r u : Nat) :
    VecSrc.value H.vec H.vec.v (H.vec.geo H.obs.prot) r u (.g b.toNat) = Claims.gElem H b := by
  simp [VecSrc.value, Claims.gElem, b.isLt]

/-- A dispatched instruction that computes a function of the width from two operands writes it to each active element. -/
theorem binary_dispatched {s : State} {h n : Nat} {op : ElemOp} {f : Nat → Nat → Nat → Nat × FFlags}
    (hc : Computes op n f) (hn : (s.hart h).vec.ew < n) (word : Nat) (m : BitVec 3) (d : BitVec 5) (p q : VecSrc)
    (hd : Claims.dispatches s h ⟨some d.toNat, .same, [p, q].filterMap VecSrc.field⟩) :
    let H := s.hart h
    let value (r u : Nat) := VecSrc.value H.vec H.vec.v (H.vec.geo H.obs.prot) r u
    (.next (elemOp word op m d [p, q] s) : Out) = Claims.ran s h ⟨some d.toNat, .same, [p, q].filterMap VecSrc.field⟩
      (Claims.wrote H m d (fun _ r u => f (ewBits H.vec.ew) (value r u p) (value r u q))) := by
  intro H value
  rw [elemOp_dispatched word op m d [p, q] (hc.accepts _ hn) hd, hc.exact]
  simp only [List.map, hc.value]
  rfl

/-- A dispatched mov copies its operand. -/
theorem mov_dispatched {s : State} {h : Nat} (hn : (s.hart h).vec.ew < 14) (word : Nat) (m : BitVec 3) (d : BitVec 5)
    (p : VecSrc) (hd : Claims.dispatches s h ⟨some d.toNat, .same, [p].filterMap VecSrc.field⟩) :
    let H := s.hart h
    (.next (elemOp word vMov m d [p] s) : Out) = Claims.ran s h ⟨some d.toNat, .same, [p].filterMap VecSrc.field⟩
      (Claims.wrote H m d (fun _ r u => (VecSrc.value H.vec H.vec.v (H.vec.geo H.obs.prot) r u p, FFlags.none))) :=
  elemOp_dispatched word vMov m d [p] (decide_eq_true hn) hd

/-- Settles O26: each function of the tables is one elementwise operation, and a dispatched one writes its tile. -/
theorem vectorIntegers : Obligations.VectorIntegers := by
  unfold Obligations.VectorIntegers
  intro s h y x m gb b a d i H w A B fields done
  refine ⟨fun e he hew => ?_, fun hew => ⟨fun hd => ?_, fun hd => ⟨?_, ?_⟩⟩⟩
  · obtain ⟨op, hr, hc⟩ := vints_ops e he
    refine ⟨fun hd => ?_, fun hd => ⟨?_, ?_⟩⟩
    · obtain ⟨word, hx⟩ := hr.reg y x m b a d s
      exact hx.trans (binary_dispatched hc hew word m d (held a x) (held b y) hd)
    · obtain ⟨word, hx⟩ := hr.gr y x m gb a d s
      refine hx.trans ((binary_dispatched hc hew word m d (held a x) (.g gb.toNat) hd).trans ?_)
      simp only [gSource_value]
      rfl
    · obtain ⟨word, hx⟩ := hr.imm y x m i a d s
      exact hx.trans (binary_dispatched hc hew word m d (held a x) (.imm i) hd)
  · exact mov_dispatched hew (vintMovWord y m b d) m d (held b y) hd
  · refine (mov_dispatched hew (vintGMovWord y m gb d) m d (.g gb.toNat) hd).trans ?_
    simp only [gSource_value]
    rfl
  · exact mov_dispatched hew (vintIMovWord y m i d) m d (.imm i) hd

end Sys2Proof.VectorStream
end

section
/-!
SUPPORT. vblk, and the beginning, the control and the end of the block that it runs (R152, R164, R171 to R174, R186).
-/
namespace Sys2Proof.VectorStream
open Sys2Proof.Machine

/-! ## vblk and the beginning of its block -/

/-- A vblk that may issue scans its block and enters what it found. -/
theorem vblk_scans {s : State} {h : Nat} (i : BitVec 20) (ha : s.agent = .scalar h) (hs : (s.hart h).settled = true)
    (hr : (s.hart h).argsReady = true) (hq : (s.hart h).activeQueue.length < (s.hart h).queueRoom) :
    let r := scanFrom h 256 (wordTarget (s.hart h).pc i) ⟨0, 0, false⟩ s
    exec (.vblk i) s = .next (enterBlock h i r.1 s r.2) := by
  intro r
  show execVblk i s = _
  simp only [execVblk, onScalar, ha, Hart.confirmed_go _ hs]
  rw [Gate.until_go (by simp [hr, hq])]
  rfl

/-- What a scan found waits while one of its destinations is empty. -/
theorem enterBlock_waits {h : Nat} {i : BitVec 20} {sc : Scan} {s0 s : State}
    (hm : (s.hart h).regs.empty &&& markBits sc.ss (sc.kk ||| condBits (s.hart h).bindingsAhead) ≠ 0) :
    enterBlock h i sc s0 s = s0 := by
  simp only [enterBlock]
  rw [if_pos (by simpa using hm)]

/-- With its destinations full, the block enters the queue and its destinations become empty. -/
theorem enterBlock_enters {h : Nat} {i : BitVec 20} {sc : Scan} {s0 s : State}
    (hm : (s.hart h).regs.empty &&& markBits sc.ss (sc.kk ||| condBits (s.hart h).bindingsAhead) = 0) :
    let H := s.hart h
    let kk := sc.kk ||| condBits H.bindingsAhead
    enterBlock h i sc s0 s = s.moved h (({ H.trace 5 H.pc (wordTarget H.pc i) 0 with
      regs := { H.regs with empty := H.regs.empty ||| markBits sc.ss kk } } : Hart).enqueue
        { word := BitVec.ofNat 32 (vblkWord i), a := wordTarget H.pc i, b := 0, g := H.argSnapshot, scanS := sc.ss,
          scanK := kk, binds := H.bindingsAhead.map Prod.fst }) := by
  intro H kk
  simp only [enterBlock]
  rw [if_neg (by simpa using hm)]
  rfl

/-- A vblk scans its block and enters the queue, and at the head of the queue begins to run (R152, R153, R164). -/
theorem blocksBegin : Claims.BlocksBegin := by
  constructor
  · intro s h i ha hs hr hq r sc H target bs kk marks
    have hx := vblk_scans i ha hs hr hq
    exact ⟨fun hm => hx.trans (congrArg _ (enterBlock_waits hm)), fun hm => hx.trans (congrArg _ (enterBlock_enters hm))⟩
  · intro s h e he hi hc hw
    have hb : bits e.word 0 7 = 0x3E := by simpa [bits] using hw
    show execBlockInstanceBegin h s = _
    simp [execBlockInstanceBegin, he, hi, hc, hb]

/-! ## Control (R171 to R174) -/

section
variable {s : State} {h : Nat} {b : BlockInstance} (ha : s.agent = .vector h)
  (hv : (s.hart h).vec.vdirty.getLsbD 63 = false) (hb : (s.hart h).vec.inst = some b)
include ha hv hb

/-- A control instruction of a running block acts. -/
theorem vectorControl_running (word : Nat) (k : Nat → BlockInstance → State) : vectorControl word s k = k h b := by
  simp only [vectorControl, onVector, ha, hv, hb, Bool.false_eq_true, if_false]

/-- vjoin joins with the next word behind it. -/
theorem vjoin_joins : exec .vjoin s = .next (joinStep h b ((s.hart h).vec.vpc + 4) s) :=
  congrArg Host.Outcome.next (vectorControl_running ha hv hb vjoinWord _)

/-- vend ends the block when nothing is kept, and otherwise joins with itself as the next word. -/
theorem vend_ends : exec .vend s = .next (if b.offcut.isEmpty then s.setHart h ((s.hart h).endBlock b)
    else joinStep h b (s.hart h).vec.vpc s) :=
  congrArg Host.Outcome.next (vectorControl_running ha hv hb vendWord _)

end

/-- The elements that branch: under vbr those of its mask, under vbr.not the others (R173). -/
def branchMask (V : VecState) (k : BitVec 3) (neg : Bool) : Mask := if neg then ~~~(V.maskAt k) else V.maskAt k

/-- The elements of a path that a branch counts (R173). -/
def liveElements (H : Hart) (b : BlockInstance) : Mask := b.path &&& firstBits (H.vec.liveUnits H.obs.prot)

section
variable {s : State} {h : Nat} {b : BlockInstance} (ha : s.agent = .vector h)
  (hv : (s.hart h).vec.vdirty.getLsbD 63 = false) (hb : (s.hart h).vec.inst = some b)
  (word : Nat) (o : BitVec 20) (k : BitVec 3) (neg : Bool)
include ha hv hb

/-- A branch that no live element takes goes on. -/
theorem vectorBranch_none (ht : liveElements (s.hart h) b &&& branchMask (s.hart h).vec k neg = 0) :
    vectorBranch word o k neg s = setInstance h b ((s.hart h).vec.vpc + 4) s := by
  rw [vectorBranch, vectorControl_running ha hv hb]
  exact if_pos ht

/-- A branch that every live element takes jumps. -/
theorem vectorBranch_all (ht : liveElements (s.hart h) b &&& branchMask (s.hart h).vec k neg ≠ 0)
    (hr : liveElements (s.hart h) b &&& ~~~(liveElements (s.hart h) b &&& branchMask (s.hart h).vec k neg) = 0) :
    vectorBranch word o k neg s = setInstance h b (wordTarget (s.hart h).vec.vpc o) s := by
  rw [vectorBranch, vectorControl_running ha hv hb]
  exact (if_neg ht).trans (if_pos hr)

/-- A branch that some live elements take jumps with them and keeps the rest. -/
theorem vectorBranch_split (ht : liveElements (s.hart h) b &&& branchMask (s.hart h).vec k neg ≠ 0)
    (hr : liveElements (s.hart h) b &&& ~~~(liveElements (s.hart h) b &&& branchMask (s.hart h).vec k neg) ≠ 0)
    (hl : b.offcut.length < 8) :
    vectorBranch word o k neg s = setInstance h { b with
      path := liveElements (s.hart h) b &&& branchMask (s.hart h).vec k neg
      offcut := ⟨b.path, (s.hart h).vec.vpc + 4, false⟩ :: b.offcut } (wordTarget (s.hart h).vec.vpc o) s := by
  rw [vectorBranch, vectorControl_running ha hv hb]
  refine (if_neg ht).trans ((if_neg hr).trans ?_)
  simp only [pushOffcut, hl, if_true]
  rfl

end

/-- A join with a fragment that has not run yet resumes it at its address. -/
theorem joinStep_parked {h : Nat} {b : BlockInstance} {top : Offcut} {rest : List Offcut} (next : Word) (s : State)
    (ho : b.offcut = top :: rest) (ht : top.st = false) : joinStep h b next s =
      setInstance h { b with offcut := { top with st := true } :: rest, path := top.bm &&& ~~~b.path } top.c s := by
  simp [joinStep, ho, ht]

/-- A join with a fragment that has run takes both on together. -/
theorem joinStep_resumed {h : Nat} {b : BlockInstance} {top : Offcut} {rest : List Offcut} (next : Word) (s : State)
    (ho : b.offcut = top :: rest) (ht : top.st = true) (hs : b.spilled = 0) : joinStep h b next s =
      setInstance h { b with offcut := rest, path := top.bm } next s := by
  simp [joinStep, ho, ht, popOffcut, hs]

/-! ## The end of a block (R186) -/

/-- From H to K a hart has had registers filled: no register has become empty, and no scalar register has another value. -/
def Fills (H K : Hart) : Prop :=
  ∃ R checks loop, K = { H with regs := R, checks := checks, loop := loop } ∧ R.s = H.regs.s ∧
    ∀ j, R.empty.getLsbD j = true → H.regs.empty.getLsbD j = true

theorem fills_rfl (H : Hart) : Fills H H := ⟨_, _, _, rfl, rfl, fun _ h => h⟩

theorem fills_trans {H K L : Hart} (a : Fills H K) (b : Fills K L) : Fills H L := by
  obtain ⟨_, _, _, rfl, s1, e1⟩ := a
  obtain ⟨R, _, _, rfl, s2, e2⟩ := b
  exact ⟨R, _, _, rfl, s2.trans s1, fun j h => e1 j (e2 j h)⟩

theorem fills_isEmptyS {H K : Hart} (f : Fills H K) {r : BitVec 5} (he : H.regs.isEmptyS r = false) :
    K.regs.isEmptyS r = false := by
  obtain ⟨R, _, _, rfl, -, e⟩ := f
  have := e r.toNat
  cases hR : R.empty.getLsbD r.toNat <;> simp_all [ScalarRegs.isEmptyS]

theorem fills_isEmptyK {H K : Hart} (f : Fills H K) {k : BitVec 3} (he : H.regs.isEmptyK k = false) :
    K.regs.isEmptyK k = false := by
  obtain ⟨R, _, _, rfl, -, e⟩ := f
  have := e (32 + k.toNat)
  cases hR : R.empty.getLsbD (32 + k.toNat) <;> simp_all [ScalarRegs.isEmptyK]

/-- Noting a writer changes the replay queue alone. -/
theorem note_frame (R : ScalarRegs) (ns : List Nat) : R.note ns = { R with replay := (R.note ns).replay } := by
  unfold ScalarRegs.note; split <;> rfl

/-- A bit that is set after one has been cleared was set before, and is another. -/
theorem putBit_false_getLsbD {w : Nat} {v : BitVec w} {i j : Nat} (h : (putBit v i false).getLsbD j = true) :
    v.getLsbD j = true ∧ j ≠ i := by
  have hj : v.getLsbD j = true ∧ (1#w <<< i).getLsbD j = false := by
    simp only [putBit, Bool.false_eq_true, if_false, BitVec.getLsbD_and, BitVec.getLsbD_not, Bool.and_eq_true,
      Bool.not_eq_true'] at h
    exact ⟨h.1, h.2.2⟩
  refine ⟨hj.1, fun e => ?_⟩
  have hw := BitVec.lt_of_getLsbD hj.1
  subst e
  simp [hw] at hj

/-- Writing a register with the value that it has makes it full. -/
theorem writeS_readS (R : ScalarRegs) (r : BitVec 5) :
    R.writeS r (R.readS r) = if r = 0 then R else { R with empty := putBit R.empty r.toNat false } := by
  unfold ScalarRegs.writeS ScalarRegs.readS
  split <;> simp

theorem fills_releaseS (H : Hart) (r : BitVec 5) : Fills H (H.releaseS r) := by
  refine ⟨_, _, _, rfl, ?_, fun j hj => ?_⟩
  · rw [Hart.putS, ScalarRegs.putS, note_frame, writeS_readS]
    split <;> rfl
  · rw [Hart.putS, ScalarRegs.putS, note_frame, writeS_readS] at hj
    split at hj
    · exact hj
    · exact (putBit_false_getLsbD hj).1

theorem releaseS_isEmptyS (H : Hart) (r : BitVec 5) : (H.releaseS r).regs.isEmptyS r = false := by
  show (H.regs.putS r (H.regs.readS r)).isEmptyS r = false
  rw [ScalarRegs.putS, note_frame, writeS_readS]
  split
  · simp [ScalarRegs.isEmptyS, *]
  · rw [ScalarRegs.isEmptyS, Bool.and_eq_false_iff]
    exact Or.inr (Bool.eq_false_iff.mpr fun h => (putBit_false_getLsbD h).2 rfl)

/-- Writing a condition bit leaves the scalar registers, and at most makes one condition bit full. -/
theorem putK_fills (R : ScalarRegs) (k : BitVec 3) (v : Bool) :
    (R.putK k v).s = R.s ∧ ∀ j, (R.putK k v).empty.getLsbD j = true → R.empty.getLsbD j = true := by
  rw [ScalarRegs.putK, note_frame]
  unfold ScalarRegs.writeK
  split
  · exact ⟨rfl, fun _ h => h⟩
  · exact ⟨rfl, fun _ h => (putBit_false_getLsbD h).1⟩

theorem putK_isEmptyK (R : ScalarRegs) (k : BitVec 3) (v : Bool) : (R.putK k v).isEmptyK k = false := by
  rw [ScalarRegs.putK, note_frame]
  unfold ScalarRegs.writeK
  split
  · simp [ScalarRegs.isEmptyK, *]
  · rw [ScalarRegs.isEmptyK, Bool.and_eq_false_iff]
    exact Or.inr (Bool.eq_false_iff.mpr fun h => (putBit_false_getLsbD h).2 rfl)

theorem fills_fillK (H : Hart) (k : BitVec 3) (v : Bool) : Fills H (H.fillK k v) :=
  ⟨_, _, _, rfl, putK_fills H.regs k v⟩

theorem fillK_isEmptyK (H : Hart) (k : BitVec 3) (v : Bool) : (H.fillK k v).regs.isEmptyK k = false :=
  putK_isEmptyK H.regs k v

theorem fills_foldl {α : Type} {f : Hart → α → Hart} (hf : ∀ H a, Fills H (f H a)) (l : List α) :
    ∀ H, Fills H (l.foldl f H) := by
  induction l with
  | nil => exact fills_rfl
  | cons a l ih => exact fun H => fills_trans (hf H a) (ih (f H a))

/-- What one step of a fold of fills brings about stands at the end of it, when fills keep it. -/
theorem foldl_establishes {α : Type} {f : Hart → α → Hart} {P : Hart → Prop} (hf : ∀ H a, Fills H (f H a))
    (hP : ∀ {H K}, Fills H K → P H → P K) {a : α} (ha : ∀ H, P (f H a)) :
    ∀ (l : List α) (H : Hart), a ∈ l → P (l.foldl f H) := by
  intro l
  induction l with
  | nil => exact fun H hm => absurd hm List.not_mem_nil
  | cons c l ih =>
    intro H hm
    rcases List.mem_cons.mp hm with rfl | hm
    · exact hP (fills_foldl hf l _) (ha H)
    · exact ih (f H c) hm

/-- The end of a block makes scalar register r full, if the scan marked it. -/
def releaseScanS (b : BlockInstance) (H : Hart) (r : Nat) : Hart :=
  if b.scanS.getLsbD r then H.releaseS (BitVec.ofNat 5 r) else H

/-- It makes condition bit k full, if the scan marked it and no binding of owed writes it. -/
def releaseScanK (b : BlockInstance) (owed : List Binding) (H : Hart) (k : Nat) : Hart :=
  if b.scanK.getLsbD k && !owed.any (fun x => x.cond.toNat == k) then H.releaseK (BitVec.ofNat 3 k) else H

/-- The bit of a binding says whether it has ended. -/
def writeEnded (H : Hart) (x : Binding) : Hart := H.fillK x.cond (H.ended x)

/-- The bindings that owe their bits at the end of the block. -/
def owedBindings (H : Hart) (b : BlockInstance) : List Binding := H.binds.filter (fun x => b.binds.contains x.base)

/-- A hart whose block is gone. -/
def withoutBlock (H : Hart) : Hart := { H with vec := { H.vec with inst := none, estart := 0 } }

theorem endBlock_eq (H : Hart) (b : BlockInstance) : H.endBlock b =
    ((owedBindings H b).foldl writeEnded ((List.range 8).foldl (releaseScanK b (owedBindings H b))
      ((List.range 32).foldl (releaseScanS b) (withoutBlock H)))).performed := rfl

theorem performed_regs (H : Hart) : H.performed.regs = H.regs := rfl

theorem fills_releaseScanS (b : BlockInstance) (H : Hart) (r : Nat) : Fills H (releaseScanS b H r) := by
  unfold releaseScanS
  split
  · exact fills_releaseS ..
  · exact fills_rfl H

theorem fills_releaseScanK (b : BlockInstance) (owed : List Binding) (H : Hart) (k : Nat) :
    Fills H (releaseScanK b owed H k) := by
  unfold releaseScanK
  split
  · exact fills_fillK ..
  · exact fills_rfl H

theorem fills_writeEnded (H : Hart) (x : Binding) : Fills H (writeEnded H x) := fills_fillK ..

/-- The end of a block takes it away and fills registers. -/
theorem endBlock_fills (H : Hart) (b : BlockInstance) : ∃ K, Fills (withoutBlock H) K ∧ H.endBlock b = K.performed :=
  ⟨_, fills_trans (fills_foldl (fills_releaseScanS b) _ _) (fills_trans (fills_foldl (fills_releaseScanK b _) _ _)
    (fills_foldl fills_writeEnded _ _)), endBlock_eq H b⟩

/-- The end of a block makes every scanned scalar register full (R186). -/
theorem endBlock_isEmptyS (H : Hart) {b : BlockInstance} {r : Fin 32} (hr : b.scanS.getLsbD r.val = true) :
    (H.endBlock b).regs.isEmptyS (BitVec.ofNat 5 r.val) = false := by
  rw [endBlock_eq, performed_regs]
  refine fills_isEmptyS (H := (List.range 32).foldl (releaseScanS b) (withoutBlock H))
    (fills_trans (fills_foldl (fills_releaseScanK b _) _ _) (fills_foldl fills_writeEnded _ _)) ?_
  refine foldl_establishes (P := fun K => K.regs.isEmptyS (BitVec.ofNat 5 r.val) = false) (fills_releaseScanS b)
    (fun f he => fills_isEmptyS f he) (fun K => ?_) _ _ (List.mem_range.mpr r.isLt)
  rw [releaseScanS, if_pos hr]
  exact releaseS_isEmptyS K _

/-- It makes every scanned condition bit full: by the binding that owes it, or else with its old value (R186, R240). -/
theorem endBlock_isEmptyK (H : Hart) {b : BlockInstance} {k : Fin 8} (hk : b.scanK.getLsbD k.val = true) :
    (H.endBlock b).regs.isEmptyK (BitVec.ofNat 3 k.val) = false := by
  rw [endBlock_eq, performed_regs]
  by_cases ho : ∃ x ∈ owedBindings H b, x.cond.toNat = k.val
  · obtain ⟨x, hx, he⟩ := ho
    refine foldl_establishes (P := fun K => K.regs.isEmptyK (BitVec.ofNat 3 k.val) = false) fills_writeEnded
      (fun f he => fills_isEmptyK f he) (fun K => ?_) _ _ hx
    rw [← he, BitVec.ofNat_toNat, BitVec.setWidth_eq]
    exact fillK_isEmptyK K _ _
  · refine fills_isEmptyK (fills_foldl fills_writeEnded _ _) ?_
    refine foldl_establishes (P := fun K => K.regs.isEmptyK (BitVec.ofNat 3 k.val) = false) (fills_releaseScanK b _)
      (fun f he => fills_isEmptyK f he) (fun K => ?_) _ _ (List.mem_range.mpr k.isLt)
    rw [releaseScanK, if_pos (by simpa [hk] using ho)]
    exact fillK_isEmptyK K _ _

/-- Each control instruction of a running block does as R171 to R174 and R186 say. -/
theorem blockControl : Claims.BlockControl := by
  intro s h b o p k ha hv hb H V at' live
  refine ⟨congrArg Host.Outcome.next (vectorControl_running ha hv hb vnopWord _), ?_, fun ho => ⟨?_, ?_⟩,
    fun top rest ho => ⟨fun ht => ?_, fun ht hs => ⟨?_, ?_⟩⟩⟩
  · have branch : ∀ e ∈ [(Instr.vbr o p k, V.maskAt k), (.vbrNot o p k, ~~~(V.maskAt k))],
        ∃ word neg, exec e.1 s = .next (vectorBranch word o k neg s) ∧ branchMask V k neg = e.2 := by
      simp only [List.forall_mem_cons]
      exact ⟨⟨_, false, rfl, rfl⟩, ⟨_, true, rfl, rfl⟩, List.forall_mem_nil _⟩
    intro e he
    obtain ⟨word, neg, hx, hm⟩ := branch e he
    rw [hx, ← hm]
    exact ⟨fun ht => congrArg _ (vectorBranch_none ha hv hb word o k neg ht),
      fun ht hr => congrArg _ (vectorBranch_all ha hv hb word o k neg ht hr),
      fun ht hr hl => congrArg _ (vectorBranch_split ha hv hb word o k neg ht hr hl)⟩
  · rw [vjoin_joins ha hv hb, joinStep, ho]
    rfl
  · rw [vend_ends ha hv hb, ho]
    obtain ⟨K, ⟨R, checks, loop, rfl, hs, -⟩, he⟩ := endBlock_fills H b
    exact ⟨H.endBlock b, rfl, by rw [he]; rfl, by rw [he]; rfl, fun r hr => endBlock_isEmptyS H hr,
      fun r hr => endBlock_isEmptyK H hr, by rw [he]; exact hs, by rw [he]; rfl, by rw [he]; rfl⟩
  · simp only [List.forall_mem_cons]
    rw [vjoin_joins ha hv hb, vend_ends ha hv hb, joinStep_parked _ _ ho ht, joinStep_parked _ _ ho ht, ho]
    exact ⟨rfl, rfl, List.forall_mem_nil _⟩
  · rw [vjoin_joins ha hv hb, joinStep_resumed _ _ ho ht hs]
    rfl
  · rw [vend_ends ha hv hb, joinStep_resumed _ _ ho ht hs, ho]
    rfl

/-- Settles O25: the beginning, the control and the end of a block. -/
theorem blocksRun : Obligations.BlocksRun := ⟨blocksBegin, blockControl⟩

end Sys2Proof.VectorStream
end

section
/-!
SUPPORT. What the vector queue performs: the shape instructions, the watermark, the stream instructions (R166 to R170, R235 to
R241).
-/
namespace Sys2Proof.VectorStream
open Sys2Proof.Machine

/-! ## What the performed instructions do -/

/-- A new format is what setfmt and setfmti deliver. -/
theorem formatTo_ok (h : Nat) (d : BitVec 5) (req : Word) (s : State) : formatTo h d req s = .ok () (s.setHart h
    ({ s.hart h with vec := (s.hart h).vec.format req (s.hart h).obs.prot }.fillS none d
      ((s.hart h).vec.format req (s.hart h).obs.prot).fmt)) := by
  simp only [formatTo, deliverTo, State.setHart_hart, State.setHart_setHart]

/-- A well-formed request is granted as it stands, and the tile again under it (R168). -/
theorem format_wellFormed {V : VecState} {req : Word} (prot : Bool) (hw : fmtWellFormed req = true) :
    V.format req prot = { V with fmt := req }.regrant prot := by
  rw [VecState.format, if_pos hw]

/-- An ill-formed request sets ILL beside its low bits (R168). -/
theorem format_illFormed {V : VecState} {req : Word} (prot : Bool) (hw : fmtWellFormed req = false) :
    V.format req prot = { V with fmt := BitVec.ofNat 64 (req.toNat % 2 ^ 13 + 2 ^ 63) } := by
  rw [VecState.format, hw]
  simp [bits]

section
variable {h word : Nat} {d : BitVec 5} {e : QEntry} {s s1 : State} {c : Chain}
  (hi : (s.hart h).vec.ill = false) (ha : e.b.toNat % 16 = 0) (hr : readChain h e.b s = .ok c s1)
include hi ha hr

/-- A chain that has nothing yet and is not done holds the queue (R166). -/
theorem chainedLen_holds (h1 : c.first % 2 ^ 40 - c.pos % 2 ^ 40 = 0) (h2 : c.first / 2 ^ 63 % 2 = 0)
    (h3 : min e.a.toNat ((s.hart h).vec.capacity (s.hart h).obs.prot) ≠ 0) : chainedLen h word d e s = .ok false s1 := by
  simp only [chainedLen, hi, ha, hr, h1, h2, Bool.false_eq_true, ne_eq, not_true_eq_false, if_false]
  rw [if_pos (by simp [h3])]

/-- A chain that has something, or is done, or is not asked, gives whole blocks and moves on (R166). -/
theorem chainedLen_grants {s2 : State}
    (hn : ¬(c.first % 2 ^ 40 - c.pos % 2 ^ 40 = 0 ∧ c.first / 2 ^ 63 % 2 = 0 ∧
      min e.a.toNat ((s.hart h).vec.capacity (s.hart h).obs.prot) ≠ 0)) :
    let V := (s.hart h).vec
    let pos := c.pos % 2 ^ 40
    let w := min (min e.a.toNat (V.capacity (s.hart h).obs.prot)) (c.first % 2 ^ 40 - pos)
    let n := w - w % blockOf V.ew V.bl
    writeChain h (e.b + 8) (c.pos - pos + (pos + n) % 2 ^ 40) s1 = .ok () s2 →
      chainedLen h word d e s = .ok true (grantLen h d n s2) := by
  intro V pos w n hw
  simp only [chainedLen, hi, ha, hr, Bool.false_eq_true, ne_eq, not_true_eq_false, if_false]
  rw [if_neg (by simpa [and_assoc] using hn), hw]

end

/-- hwpub raises the watermark of a record on this device behind the stores before it (R170). -/
theorem publish_local {h : Nat} {c v : Word} {s s1 : State} {l : Loc} (hc : c.toNat % 16 = 0)
    (hl : accessBy (s.who h) c.toNat 8 .write s = .ok l s1) (hp : l.peer = none) :
    let s3 := forceVaccs h (fun A => A.kind != .load || A.todo.any (fun e => l.meets e.loc)) s1
    let old := BitVec.ofNat 64 (readLoc l s3)
    publish h c v s = .ok () (writeLoc (s3.who h) l (bits old 40 23 * 2 ^ 40 + max (bits old 0 40) (bits v 0 40) +
      (if old.getLsbD 63 || v.getLsbD 63 then 2 ^ 63 else 0)) s3) := by
  simp [publish, hc, hl, peerError, writeOut, hp]

/-- qpat takes a well-formed pattern into a stream that is not bound (R236). -/
theorem loadPattern_ok {h q v : Nat} {a : Word} {s s1 : State} (ha : a.toNat % 64 = 0)
    (hr : queueRead h q a 64 s = .ok v s1) (hq : 4 ≤ q) (hb : ((s1.hart h).stream q).bound = false)
    (hp : patOk (BitVec.ofNat 512 v) = true) : loadPattern h q a s =
      .ok () (s1.setHart h ((s1.hart h).setStream q { (s1.hart h).stream q with pattern := some (BitVec.ofNat 512 v) })) := by
  simp [loadPattern, ha, hr, hb, hp, show ¬ q < 4 by omega]

/-- The ranges of a list of bindings leave the n registers from d on free. -/
def rangeFree (l : List Binding) (d n : Nat) : Prop := ∀ b ∈ l, b.base + b.count ≤ d ∨ d + n ≤ b.base

theorem not_clash {l : List Binding} {d n : Nat} (hf : rangeFree l d n) :
    l.any (fun b => decide (d < b.base + b.count) && decide (b.base < d + n)) = false := by
  rw [List.any_eq_false]
  intro b hb
  have := hf b hb
  simp only [Bool.and_eq_true, decide_eq_true_eq]
  omega

section
variable {h d : Nat} {k : BitVec 3} {v : Word} {s : State} (hd : (s.hart h).vec.vdirty.getLsbD 63 = false)
include hd

/-- vbind binds a free range to a stream that has a pattern and is not bound (R237). -/
theorem bindRange_stream {p : BitVec 512} (ho : operandOk v = true) (hl : (s.hart h).binds.length < 8)
    (hc : v.getLsbD 63 = false) (hp : ((s.hart h).stream (bits v 0 5)).pattern = some p)
    (hb : ((s.hart h).stream (bits v 0 5)).bound = false) (hf : rangeFree (s.hart h).binds d (bits p 268 4))
    (hn : d + bits p 268 4 ≤ 32) : bindRange h d k v s = .ok () (forceVaccs h (fun _ => true) (s.setHart h
      ((({ s.hart h with binds := (s.hart h).binds ++ [⟨d, bits p 268 4, v, k, p, 0, [], none⟩] } : Hart).setStream (bits v 0 5)
        { pattern := some p, bound := true, done := 0, ready := [] }).setCond k false))) := by
  simp only [bindRange, hd, ho, hc, hp, hb, Bool.false_eq_true, if_false, Option.map_some, Option.getD_some, not_clash hf]
  simp [show ¬ 32 < d + bits p 268 4 by omega, show ¬ 8 ≤ (s.hart h).binds.length by omega]

/-- vbind binds a free range to a channel (R237). -/
theorem bindRange_channel (ho : operandOk v = true) (hl : (s.hart h).binds.length < 8)
    (hc : v.getLsbD 63 = true) (hf : rangeFree (s.hart h).binds d (bits v 8 4)) (hn : d + bits v 8 4 ≤ 32) :
    bindRange h d k v s = .ok () (forceVaccs h (fun _ => true) (s.setHart h
      (({ s.hart h with binds := (s.hart h).binds ++ [⟨d, bits v 8 4, v, k, 0, 0, [], none⟩] } : Hart).setCond k false))) := by
  simp only [bindRange, hd, ho, hc, if_true, not_clash hf]
  simp [show ¬ 32 < d + bits v 8 4 by omega, show ¬ 8 ≤ (s.hart h).binds.length by omega]

/-- vunbind releases the range: the bindings of its base leave, and its stream is bound no more (R237). -/
theorem unbindRange_ok {b : Binding} (hf : (s.hart h).binds.find? (fun b => b.base == d) = some b) :
    let H1 : Hart := { s.hart h with binds := (s.hart h).binds.filter (fun c => c.base != d) }
    unbindRange h d s = .ok () (s.setHart h (if b.onChannel then H1
      else H1.setStream b.num { H1.stream b.num with bound := false, ready := [] })) := by
  simp only [unbindRange, hd, hf, Bool.false_eq_true, if_false]

end

/-- A stream reads as it was set. -/
theorem setStream_stream (H : Hart) {q : Nat} (S : StreamState) (hq : q < 16) : (H.setStream q S).stream q = S := by
  simp [Hart.setStream, Hart.stream, hq]

theorem setStream_binds (H : Hart) (q : Nat) (S : StreamState) : (H.setStream q S).binds = H.binds := by
  unfold Hart.setStream; split <;> rfl

/-! ## The queue at its head -/

section
variable {s : State} {h : Nat} {e : QEntry} (ha : s.agent = .queue h) (he : (s.hart h).headEntry = some e)
include ha he

/-- An entry that is performed leaves the queue. -/
theorem queuedOp_performs (word : Nat) (gate : Hart → Gate) (d : BitVec 5) (a b : Hart → Word)
    {perform : Nat → QEntry → State → Res Unit} {t : State} (hp : perform h e s = .ok () t) :
    (.next (queuedOp word gate d a b perform s) : Out) = .next (t.setHart h (t.hart h).dequeue) := by
  simp only [queuedOp, ha, he, hp]

theorem whenFree_free {kind : Acc} (addr : QEntry → Word) {n : Nat} (k : State)
    (hv : vectorStalls h (addr e).toNat n kind s = false) : whenFree kind addr n s k = k := by
  simp only [whenFree, ha, he, hv, Bool.false_eq_true, if_false]

theorem whenFree_held {kind : Acc} (addr : QEntry → Word) {n : Nat} (k : State)
    (hv : vectorStalls h (addr e).toNat n kind s = true) : whenFree kind addr n s k = s := by
  simp only [whenFree, ha, he, hv, if_true]

/-- setlen without a chain grants the wish in whole blocks. -/
theorem setlen_plain (y x : BitVec 1) (a d : BitVec 5) (hi : (s.hart h).vec.ill = false) :
    let V := (s.hart h).vec
    let want := min e.a.toNat (V.capacity (s.hart h).obs.prot)
    let t := grantLen h d (want - want % blockOf V.ew V.bl) s
    exec (.setlen y x 0 a d) s = .next (t.setHart h (t.hart h).dequeue) := by
  intro V want t
  show execSetlen y x 0 a d s = _
  simp only [execSetlen, ha, if_true]
  refine queuedOp_performs ha he _ _ _ _ _ ?_
  simp only [plainLen, hi, Bool.false_eq_true, if_false]
  rfl

section
variable (y x : BitVec 1) {b : BitVec 5} (a d : BitVec 5) (hb : b ≠ 0)
  (hv : vectorStalls h e.b.toNat 16 .read s = false) {t : State}
include hb hv

/-- setlen with a chain record that holds the queue reads it again later. -/
theorem setlen_holds (ht : chainedLen h (setlenWord y x b a d) d e s = .ok false t) :
    exec (.setlen y x b a d) s = .next t := by
  show execSetlen y x b a d s = _
  simp only [execSetlen, ha, hb, if_false]
  rw [whenFree_free ha he (fun e => e.b) _ hv]
  simp only [he, Option.map_some, ht]

/-- setlen with a chain record that has its grant leaves the queue. -/
theorem setlen_granted (ht : chainedLen h (setlenWord y x b a d) d e s = .ok true t) :
    exec (.setlen y x b a d) s = .next (t.setHart h (t.hart h).dequeue) := by
  show execSetlen y x b a d s = _
  simp only [execSetlen, ha, hb, if_false]
  rw [whenFree_free ha he (fun e => e.b) _ hv]
  simp only [he, Option.map_some, ht]
  exact queuedOp_performs ha he _ _ _ _ _ rfl

end

/-- setrows grants the rows that the group factor leaves room for. -/
theorem setrows_performs (x : BitVec 1) (a d : BitVec 5) (hi : (s.hart h).vec.ill = false) :
    let H := s.hart h
    let r := BitVec.ofNat 64 (min (max e.a.toNat 1) (8 / H.vec.gf))
    let t := s.setHart h (({ H with vec := { H.vec with rows := r } } : Hart).fillS none d r)
    exec (.setrows x a d) s = .next (t.setHart h (t.hart h).dequeue) := by
  intro H r t
  refine queuedOp_performs ha he _ _ _ _ _ ?_
  simp only [hi, Bool.false_eq_true, if_false, deliverTo, State.setHart_hart, State.setHart_setHart]
  rfl

/-- setfmt asks for its operand, and setfmti for its immediate. -/
theorem setfmt_performs (x : BitVec 1) (a d : BitVec 5) (i : BitVec 13) :
    ∀ op ∈ [(Instr.setfmt x a d, e.a), (.setfmti i d, i.setWidth 64)], ∀ t, formatTo h d op.2 s = .ok () t →
      exec op.1 s = .next (t.setHart h (t.hart h).dequeue) := by
  simp only [List.forall_mem_cons]
  refine ⟨fun t ht => queuedOp_performs ha he _ _ _ _ _ ht, fun t ht => ?_, List.forall_mem_nil _⟩
  show execSetfmti i d s = _
  simp only [execSetfmti, ha]
  exact queuedOp_performs ha he _ _ _ _ _ ht

/-- hwpub waits for the bytes that a copy or a replay holds back. -/
theorem hwpub_held (y x : BitVec 1) (b a : BitVec 5) (hv : vectorStalls h e.a.toNat 8 .write s = true) :
    exec (.hwpub y x b a) s = .next s :=
  congrArg Host.Outcome.next (whenFree_held ha he (fun e => e.a) _ hv)

/-- hwpub publishes, and leaves. -/
theorem hwpub_performs (y x : BitVec 1) (b a : BitVec 5) (hv : vectorStalls h e.a.toNat 8 .write s = false) {t : State}
    (ht : publish h e.a e.b s = .ok () t) : exec (.hwpub y x b a) s = .next (t.setHart h (t.hart h).dequeue) :=
  (congrArg Host.Outcome.next (whenFree_free ha he (fun e => e.a) _ hv)).trans (queuedOp_performs ha he _ _ _ _ _ ht)

/-- qpat loads its pattern, and leaves. -/
theorem qpat_performs (x : BitVec 1) (a : BitVec 5) (q : BitVec 4) (hv : vectorStalls h e.a.toNat 64 .read s = false)
    {t : State} (ht : loadPattern h q.toNat e.a s = .ok () t) :
    exec (.qpat x a q) s = .next (t.setHart h (t.hart h).dequeue) :=
  (congrArg Host.Outcome.next (whenFree_free ha he (fun e => e.a) _ hv)).trans (queuedOp_performs ha he _ _ _ _ _ ht)

end

/-- A near-bank setfmti sets the thread's format (R264). -/
theorem setfmti_near {s : State} {u : Nat} {J : NbJob} {i : BitVec 13} (ha : s.agent = .nearBank u true)
    (hj : s.threadOf u true J) (hi : i.toNat < 8 ∨ i.toNat = 11 ∨ i.toNat = 12) :
    exec (.setfmti i 0) s = .next (s.putJob u ({ J with fmt := BitVec.ofNat 5 i.toNat }.advance true)) := by
  show execSetfmti i 0 s = _
  simp only [execSetfmti, ha, nearFormat, onJob_running hj]
  rw [if_pos ⟨trivial, hi⟩]

section
variable {s : State} {h q : Nat} {b : Binding}
  (hf : (s.hart h).binds.find? (fun b => !b.onChannel && !b.writes && b.num == q) = some b)
include hf

/-- No chunk arrives behind the last element, nor while one of its elements waits. -/
theorem chunk_waits (hw : patCount b.pattern ≤ (s.hart h).nextElement b ∨ chunkStalls h b ((s.hart h).nextElement b) s = true) :
    exec (.streamChunkArrive h q) s = .next s := by
  show execStreamChunkArrive h q s = _
  simp only [execStreamChunkArrive, hf]
  rw [if_pos (by simpa using hw)]

/-- The next chunk of a bound read stream is read and joins those that are ready. -/
theorem chunk_arrives (h1 : (s.hart h).nextElement b < patCount b.pattern)
    (h2 : chunkStalls h b ((s.hart h).nextElement b) s = false) :
    let j := (s.hart h).nextElement b
    let r := readChunk h (patSize b.pattern)
      (fun i => if j + i < patCount b.pattern then some (coreOf h, patAddr b.pattern (j + i)) else none) b.elems 0 0 [] s
    let K := r.2.2.hart h
    exec (.streamChunkArrive h q) s = .next (r.2.2.setHart h (K.setStream q { K.stream q with
      ready := (K.stream q).ready ++ [⟨toRegs b.count r.1, patSize b.pattern, r.2.1⟩] })) := by
  intro j r K
  show execStreamChunkArrive h q s = _
  simp only [execStreamChunkArrive, hf]
  rw [if_neg (by simp [h2, h1])]

end

/-- The queue performs the shape instructions, vdrain, vstat and hwpub (R166 to R170). -/
theorem queuedShapes : Claims.QueuedShapes := by
  refine ⟨?_, fun s u J i ha hj hi => setfmti_near ha hj hi⟩
  intro s h e y x b a d i ha he H V cap done put whole
  refine ⟨?_, ?_, fun hi => setrows_performs ha he x a d hi, fun op hop => ⟨fun hw => ?_, fun hw => ?_⟩,
    queuedOp_performs ha he _ _ _ _ _ rfl, queuedOp_performs ha he _ _ _ _ _ rfl, fun hv => hwpub_held ha he y x b a hv, ?_⟩
  · rintro hi rfl
    exact setlen_plain ha he y x a d hi
  · intro hi hb hal hv c s1 s2 hr pos avail ask n
    exact ⟨fun h1 h2 h3 => setlen_holds ha he y x a d hb hv (chainedLen_holds hi hal hr h1 h2 h3),
      fun hn hw => setlen_granted ha he y x a d hb hv (chainedLen_grants hi hal hr hn hw)⟩
  · refine (setfmt_performs ha he x a d i op hop _ (formatTo_ok h d op.2 s)).trans ?_
    rw [format_wellFormed _ hw]
    rfl
  · refine (setfmt_performs ha he x a d i op hop _ (formatTo_ok h d op.2 s)).trans ?_
    rw [format_illFormed _ hw]
  · intro l s1 hal hv hl hp
    exact hwpub_performs ha he y x b a hv (publish_local hal hl hp)

/-- The queue performs qpat, vbind, vunbind and qstat, and the chunks of a bound stream arrive (R236 to R239, R241). -/
theorem streamsComplete : Claims.StreamsComplete := by
  constructor
  · intro s h e x a d q k ha he H done
    refine ⟨?_, fun hd ho hl => ⟨?_, ?_⟩, fun hd b hf => ?_, queuedOp_performs ha he _ _ _ _ _ rfl⟩
    · intro v s1 hal hv hr H1 p hq hb hp
      exact qpat_performs ha he x a q hv (loadPattern_ok hal hr hq hb hp)
    · intro p hc hp hb hf hn
      exact queuedOp_performs ha he _ _ _ _ _ (bindRange_stream hd ho hl hc hp hb hf hn)
    · intro hc hf hn
      exact queuedOp_performs ha he _ _ _ _ _ (bindRange_channel hd ho hl hc hf hn)
    · refine ⟨_, queuedOp_performs ha he _ _ _ _ _ (unbindRange_ok hd hf), ?_, fun hc => ?_, fun hc hn => ?_⟩
      · split
        · rfl
        · exact setStream_binds _ _ _
      · rw [if_pos hc]
      · rw [hc, if_neg Bool.false_ne_true, setStream_stream _ _ hn]
  · intro s h q b hf j
    exact ⟨chunk_waits hf, chunk_arrives hf⟩

/-- Settles O24: what the queue performs at its head. -/
theorem queuePerforms : Obligations.QueuePerforms := ⟨queuedShapes, streamsComplete⟩

end Sys2Proof.VectorStream
end

section
/-!
SUPPORT. Commands of a hart, and with them the barriers: what a confirmed command whose gate is open performs (R106, R224).
-/
namespace Sys2Proof.Copies
open Sys2Proof.Machine

section
variable {s : State} {h word : Nat} {i : Instr} {gate : Hart → Gate} {k : Nat → State} (ha : s.agent = .scalar h)
  (hs : (s.hart h).settled = true) (hi : exec i s = .next (command word gate s k))
include ha hs hi

/-- A settled hart performs a command whose gate is open. -/
theorem command_performs {t : State} (hg : gate (s.hart h) = .go) (ht : k h = t) : exec i s = .next t := by
  rw [hi, ← ht]
  simp only [command, onScalar, ha, Hart.confirmed_go _ hs, hg, Gate.and, gated]

/-- A command whose gate is shut waits, and changes nothing. -/
theorem command_waits (hg : gate (s.hart h) = .wait) : exec i s = .next s := by
  rw [hi]
  simp only [command, onScalar, ha, Hart.confirmed_go _ hs, hg, Gate.and, gated]

end

/-- A barrier is a command that waits for the peers, and then performs the accesses of its streams (R224). -/
theorem barrier_eq_command (word : Nat) (f : Nat → Bool) (s : State) :
    barrier word f s = command word (fun H => Gate.until (!H.owes (fun p => f p.stream))) s (fun h =>
      let s1 := forceDone h (fun A => f A.stream) (forceLoads h (fun p => f p.stream) s)
      s1.setHart h (s1.hart h).advance) := rfl

section
variable {s : State} {h word : Nat} {i : Instr} {f : Nat → Bool} (ha : s.agent = .scalar h)
  (hs : (s.hart h).settled = true) (hi : exec i s = .next (barrier word f s))
include ha hs hi

theorem barrier_performs (ho : (s.hart h).owes (fun p => f p.stream) = false) :
    let s1 := forceDone h (fun A => f A.stream) (forceLoads h (fun p => f p.stream) s)
    exec i s = .next (s1.moved h (s1.hart h)) := by
  rw [barrier_eq_command] at hi
  exact command_performs ha hs hi (Gate.until_go (by rw [ho]; rfl)) rfl

theorem barrier_waits (ho : (s.hart h).owes (fun p => f p.stream) = true) : exec i s = .next s := by
  rw [barrier_eq_command] at hi
  exact command_waits ha hs hi (Gate.until_wait (by rw [ho]; rfl))

end

/-- Settles O10: sbar and fence are barriers on the streams of a mask and on every stream. -/
theorem barriersComplete : Obligations.BarriersComplete := by
  intro s h c m ha hs e he
  obtain rfl | rfl : e = (.sbar c m, fun q => m.getLsbD q) ∨ e = (.fence c, fun _ => true) := by simpa using he
  · exact ⟨barrier_performs ha hs rfl, barrier_waits ha hs rfl⟩
  · exact ⟨barrier_performs ha hs rfl, barrier_waits ha hs rfl⟩

end Sys2Proof.Copies
end

section
/-!
SUPPORT. The copy commands of a hart, and the capture of a pair of layouts by the queue (R244 to R246, R253 to R256).
-/
namespace Sys2Proof.Copies
open Sys2Proof.Machine

/-! ## Channels -/

/-- A channel reads as it was set. -/
theorem setChan_chan (H : Hart) {c : Nat} (C : Channel) (hc : c < 32) : (H.setChan c C).chan c = C := by
  simp [Hart.setChan, Hart.chan, hc]

/-- A channel that is stopped holds no copy and no fault (R255). -/
theorem stopChannel_chan (h : Nat) {c : Nat} (s : State) (hc : c < 32) :
    (((stopChannel h c s).hart h).chan c).copies = [] ∧ (((stopChannel h c s).hart h).chan c).flt = false := by
  simp [stopChannel, Hart.chan, hc]

/-! ## Gates and commands -/

theorem and_go {a b : Gate} (ha : a = .go) (hb : b = .go) : a.and b = .go := by rw [ha, hb]; rfl

section
variable {s : State} {h : Nat} (ha : s.agent = .scalar h) (hs : (s.hart h).settled = true)
include ha hs

/-- cp.arr takes the arrival word and the configuration (R245). -/
theorem cpArr_takes (y x : BitVec 1) (b a c : BitVec 5) (hf : (s.hart h).full [a, b] [])
    (hu : ((s.hart h).regs.readS a).toNat % 8 = 0) (hv : cfgOk ((s.hart h).regs.readS b) = true) :
    exec (.cpArr y x b a c) s = .next (s.moved h ((s.hart h).setChan c.toNat { (s.hart h).chan c.toNat with
      arrive := (s.hart h).regs.readS a, cfg := (s.hart h).regs.readS b })) :=
  command_performs ha hs rfl (and_go (Hart.srcS_go _ a x (hf.1 a (by simp))) <|
    and_go (Hart.srcS_go _ b y (hf.1 b (by simp))) <| and_go (Gate.need_go (beq_iff_eq.mpr hu) _ _) (Gate.need_go hv _ _)) rfl

/-- cp.go appends a copy to a channel that has been laid out and has room (R246). -/
theorem cpGo_appends (y x : BitVec 1) (b a c : BitVec 5) (hf : (s.hart h).full [a, b] [])
    (hl : ((s.hart h).chan c.toNat).copies.length < 8) (hd : ((s.hart h).chan c.toNat).laySeen = true) :
    exec (.cpGo y x b a c) s = .next (s.moved h ((s.hart h).setChan c.toNat { (s.hart h).chan c.toNat with
      copies := ((s.hart h).chan c.toNat).copies ++
        [(s.hart h).newCopy ((s.hart h).chan c.toNat) ((s.hart h).regs.readS a) ((s.hart h).regs.readS b)] })) :=
  command_performs ha hs rfl (and_go (Hart.srcS_go _ a x (hf.1 a (by simp))) <|
    and_go (Hart.srcS_go _ b y (hf.1 b (by simp))) <| and_go (Gate.until_go (decide_eq_true hl)) (Gate.need_go hd _ _)) rfl

/-- cp.wait goes on when its channel is empty (R254). -/
theorem cpWait_goes {c : BitVec 5} (hc : ((s.hart h).chan c.toNat).copies = []) :
    exec (.cpWait c) s = .next (s.moved h (s.hart h)) :=
  command_performs ha hs rfl rfl (by dsimp only; rw [hc]; rfl)

/-- cp.wait waits while its channel holds a copy (R254). -/
theorem cpWait_waits {c : BitVec 5} (hc : ((s.hart h).chan c.toNat).copies ≠ []) :
    exec (.cpWait c) s = .next (s.setHart h { s.hart h with status := .waiting .copy }) :=
  command_performs ha hs rfl rfl (by simp [hc])

end

/-- The queue performs cp.lay: the channel takes the pair of layouts that its registers hold (R244). -/
theorem cpLay_captures {s : State} {h : Nat} {e : QEntry} {p : LayoutPair} (y x : BitVec 1) (b a c : BitVec 5)
    (ha : s.agent = .queue h) (he : (s.hart h).headEntry = some e) (hd : (s.hart h).vec.vdirty.getLsbD 63 = false)
    (hp : (s.hart h).layoutPair a b = some p) :
    let H := s.hart h
    let t := s.setHart h (H.setChan c.toNat ((H.chan c.toNat).capture p (fun J => H.reached J.ticket)))
    exec (.cpLay y x b a c) s = .next (t.setHart h (t.hart h).dequeue) := by
  intro H t
  have hl : captureLayout h c.toNat a b s = .ok () t := by
    simp only [captureLayout, hd, hp, Bool.false_eq_true, if_false]; rfl
  refine Eq.trans ?_ (VectorStream.queuedOp_performs ha he (cpLayWord y x b a c) (fun _ => .go) 0 noCapture noCapture
    (perform := fun h _ t => captureLayout h c.toNat a b t) hl)
  show execCpLay y x b a c s = _
  simp only [execCpLay, ha]

/-- Settles O35: each command performs once its gate is open, and the queue performs cp.lay. -/
theorem copyCommands : Obligations.CopyCommands := by
  refine ⟨?_, fun s h e y x b a c p ha he hd hp => cpLay_captures y x b a c ha he hd hp⟩
  intro s h y x b a c ha hs H C u v
  refine ⟨cpArr_takes ha hs y x b a c, cpGo_appends ha hs y x b a c, fun hf => ?_, cpWait_goes ha hs, cpWait_waits ha hs,
    command_performs ha hs rfl rfl rfl, stopChannel_chan h s c.isLt⟩
  have hg : H.dstS a = .go := Hart.dstS_go _ a (hf.1 a (by simp))
  exact ⟨command_performs ha hs rfl hg rfl, command_performs ha hs rfl hg rfl⟩

end Sys2Proof.Copies
end

section
/-!
SUPPORT. What the engine's accesses depend on: an access without a hart of its own makes of memory the same whatever the
harts, the logs and the channels hold (R207, R208, R250).
-/
namespace Sys2Proof.Copies
open Sys2Proof.Machine

/-- Two states that an engine's access cannot tell apart: the same memory, as many free values drawn, as many steps. -/
structure SameMemory (s t : State) : Prop where
  mm : s.mm = t.mm
  free : s.free = t.free
  steps : s.steps = t.steps

theorem sameMemory_rfl (s : State) : SameMemory s s := ⟨rfl, rfl, rfl⟩

theorem sameMemory_symm {s t : State} (e : SameMemory s t) : SameMemory t s := ⟨e.mm.symm, e.free.symm, e.steps.symm⟩

theorem sameMemory_trans {s t u : State} (a : SameMemory s t) (b : SameMemory t u) : SameMemory s u :=
  ⟨a.mm.trans b.mm, a.free.trans b.free, a.steps.trans b.steps⟩

theorem sameMemory_setHart (s : State) (h : Nat) (H : Hart) : SameMemory (s.setHart h H) s := ⟨rfl, rfl, rfl⟩

theorem sameMemory_setMem {s t : State} (e : SameMemory s t) {m n : MemSys} (hm : m = n) : SameMemory (s.setMem m) (t.setMem n) :=
  ⟨hm, e.free, e.steps⟩

/-! ## Logs (R403) -/

theorem sameMemory_logError (s : State) (level : Nat) (e : LogEntry) : SameMemory (logError s level e) s := by
  unfold logError enterLog wantHost
  split <;> split <;> exact ⟨rfl, rfl, rfl⟩

theorem sameMemory_queuePage (pa : Nat) (s : State) : SameMemory (queuePage pa s) s := by
  unfold queuePage wantHost
  split
  · exact sameMemory_rfl s
  split
  · exact ⟨rfl, rfl, rfl⟩
  dsimp only
  split
  · exact sameMemory_rfl s
  · refine sameMemory_trans (sameMemory_logError _ _ _) ?_
    split <;> exact ⟨rfl, rfl, rfl⟩

theorem sameMemory_leaveBad (ln i : Nat) (line : L2Line) (s : State) : SameMemory (leaveBad ln i line s) s := by
  unfold leaveBad
  dsimp only
  split
  · exact sameMemory_trans (sameMemory_queuePage _ _) (sameMemory_logError _ _ _)
  · exact sameMemory_logError _ _ _

/-! ## Lines of the L2 (R206 to R208) -/

/-- A line that leaves the L2 changes memory by its dirty sectors alone. -/
theorem sameMemory_evictLine_setMem (ln : Nat) (line : L2Line) (s : State) :
    SameMemory (evictLine ln line s) (s.setMem (line.writeBack ln { s.mm with l2 := tdrop s.mm.l2 ln })) := by
  have key (l : List Nat) (t : State) :
      SameMemory (l.foldl (fun t i => if line.bad.getLsbD i then leaveBad ln i line t else t) t) t := by
    induction l generalizing t with
    | nil => exact sameMemory_rfl t
    | cons i l ih =>
      refine sameMemory_trans (ih _) ?_
      dsimp only
      split
      · exact sameMemory_leaveBad ln i line t
      · exact sameMemory_rfl t
  exact sameMemory_trans (key _ _) ⟨rfl, rfl, rfl⟩

section
variable {s t : State} (e : SameMemory s t)
include e

theorem sameMemory_evictLine (ln : Nat) (line : L2Line) : SameMemory (evictLine ln line s) (evictLine ln line t) :=
  sameMemory_trans (sameMemory_evictLine_setMem ln line s)
    (sameMemory_trans (sameMemory_setMem e (by rw [e.mm])) (sameMemory_symm (sameMemory_evictLine_setMem ln line t)))

theorem sameMemory_putLine (ln : Nat) (line : L2Line) : SameMemory (putLine ln line s) (putLine ln line t) := by
  have drawn : SameMemory (drawWord s).2 (drawWord t).2 := ⟨e.mm, congrArg (· + 1) e.free, e.steps⟩
  unfold putLine
  simp only [e.mm]
  split
  · exact sameMemory_setMem e rfl
  · have hv : (drawWord s).1 = (drawWord t).1 := by simp only [drawWord, e.free]
    rw [hv, drawn.mm]
    have evicted := sameMemory_evictLine drawn
    exact sameMemory_setMem (evicted _ _) (by rw [(evicted _ _).mm])

theorem sameMemory_touchLine (ln k n slot : Nat) : SameMemory (touchLine ln k n slot none s) (touchLine ln k n slot none t) := by
  unfold touchLine
  simp only [e.mm]
  refine sameMemory_putLine ?_ _ _
  exact ⟨rfl, e.free, e.steps⟩

theorem sameMemory_readLine (ln k n slot : Nat) : SameMemory (readLine ln k n slot s) (readLine ln k n slot t) := by
  unfold readLine
  simp only [e.mm]
  split
  · exact e
  · exact sameMemory_putLine e _ _

theorem sameMemory_onLines {f : Nat → State → State} (hf : ∀ ln {s t : State}, SameMemory s t → SameMemory (f ln s) (f ln t))
    (k n : Nat) : SameMemory (onLines f k n s) (onLines f k n t) := by
  have key (last m ln : Nat) {s t : State} (e : SameMemory s t) : SameMemory (linesFrom f last m ln s) (linesFrom f last m ln t) := by
    induction m generalizing ln s t with
    | zero => exact e
    | succ m ih =>
      unfold linesFrom
      split
      · exact e
      · exact ih _ (hf ln e)
  unfold onLines
  split
  · exact e
  · exact key _ _ _ e

/-! ## Locations (R207, R250, R401) -/

theorem readLoc_sameMemory (l : Loc) : readLoc l s = readLoc l t := by
  simp only [readLoc, readPart, e.mm, e.steps]

theorem poisonedLoc_sameMemory (l : Loc) : poisonedLoc l s = poisonedLoc l t := by
  simp only [poisonedLoc, poisonedPart, e.mm]

theorem sameMemory_fillLoc (l : Loc) : SameMemory (fillLoc l s) (fillLoc l t) := by
  have read (b : Bool) (k n slot : Nat) {s t : State} (e : SameMemory s t) :
      SameMemory (if b then readLines k n slot s else s) (if b then readLines k n slot t else t) := by
    cases b
    · exact e
    · exact sameMemory_onLines e (fun ln _ _ e => sameMemory_readLine e ln k n slot) k n
  exact read _ _ _ _ (read _ _ _ _ e)

/-- Two writers without a hart of their own leave the same memory. -/
theorem sameMemory_writeLoc {w x : Who} (hw : w.hart = none) (hx : x.hart = none) (l : Loc) (v : Nat) :
    SameMemory (writeLoc w l v s) (writeLoc x l v t) := by
  have touch (b : Bool) (k n slot : Nat) {s t : State} (e : SameMemory s t) :
      SameMemory (if b then touchLines k n slot none s else s) (if b then touchLines k n slot none t else t) := by
    cases b
    · exact e
    · exact sameMemory_onLines e (fun ln _ _ e => sameMemory_touchLine e ln k n slot) k n
  unfold writeLoc
  rw [hw, hx]
  refine touch _ _ _ _ (touch _ _ _ _ ?_)
  rw [e.mm]
  split
  · exact sameMemory_setMem (sameMemory_setMem e rfl) rfl
  · exact sameMemory_setMem e rfl

theorem sameMemory_poisonLoc (l : Loc) : SameMemory (poisonLoc l s) (poisonLoc l t) := by
  unfold poisonLoc
  rw [e.mm]
  dsimp only
  split
  · exact sameMemory_setMem (sameMemory_setMem e rfl) rfl
  · exact sameMemory_setMem e rfl

/-- An engine's error strikes in both states or in neither, wherever it is logged. -/
theorem engineError_sameMemory (core c d : Nat) :
    (engineError core c s).1 = (engineError core d t).1 ∧ SameMemory (engineError core c s).2 (engineError core d t).2 := by
  unfold engineError drawBool drawWord
  simp only [e.free]
  split
  · refine ⟨rfl, sameMemory_trans (sameMemory_logError _ _ _) (sameMemory_trans ?_ (sameMemory_symm (sameMemory_logError _ _ _)))⟩
    exact ⟨e.mm, rfl, e.steps⟩
  · exact ⟨rfl, e.mm, rfl, e.steps⟩

end

/-- The error of an engine is logged, and changes no memory (R250). -/
theorem engineError_mm (core ctx : Nat) (s : State) : (engineError core ctx s).2.mm = s.mm := by
  unfold engineError drawBool drawWord
  dsimp only
  split
  · exact (sameMemory_logError _ _ _).mm
  · rfl

end Sys2Proof.Copies
end

section
/-!
SUPPORT. The elements of a running copy: the one at the watermark is checked, moved and counted (R247, R249, R250).
-/
namespace Sys2Proof.Copies
open Sys2Proof.Machine

/-! ## Undisturbed states -/

theorem tget_mem {α : Type} (d : α) (t : Assoc α) (i : Nat) : tget d t i = d ∨ (i, tget d t i) ∈ t := by
  induction t with
  | nil => exact Or.inl rfl
  | cons e t ih =>
    obtain ⟨k, x⟩ := e
    by_cases hk : k = i
    · subst hk; simp [tget]
    · simp only [tget, if_neg hk, List.mem_cons]
      exact ih.imp_right Or.inr

/-- A hart that keeps its loop leaves the state undisturbed for an engine. -/
theorem undisturbed_setHart {s : State} {h : Nat} {H : Hart} (hu : s.undisturbed none) (hl : H.loop = (s.hart h).loop) :
    (s.setHart h H).undisturbed none := by
  refine ⟨fun e he _ => ?_, hu.2⟩
  rcases mem_tput _ _ _ _ he with rfl | he
  · show H.loop.st ≠ 3
    rw [hl]
    rcases tget_mem Hart.initial s.harts h with hd | hm
    · rw [State.hart, hd]; decide
    · exact hu.1 _ hm nofun
  · exact hu.1 e he nofun

/-- An agent that asks nothing of the host goes on (R422). -/
theorem serveHost_none {α : Type} {agent : Nat} {s : State} (ha : s.assistOf agent = none) (rest : α)
    (take : Nat → Word → State → α) (go : α) : serveHost agent s rest take go = go := by
  simp only [serveHost, ha]

/-! ## One element -/

/-- A check that passes says of its own element where it is read and written (R247). -/
theorem checkElement_index {h : Nat} {J : CopyJob} {p : LayoutPair} {j : Nat} {m : CopyMove} {s t : State}
    (hk : checkElement h J p j s = .ok m t) : m.j = j := by
  unfold checkElement at hk
  dsimp only at hk
  split at hk
  · cases hk
  split at hk
  · cases hk
  split at hk
  · cases hk
  · cases hk; rfl

theorem checkElements_one {h : Nat} {J : CopyJob} {p : LayoutPair} {j : Nat} {m : CopyMove} {s t : State}
    (hk : checkElement h J p j s = .ok m t) : checkElements h J p 1 j [] s = ([m], none, t) := by
  simp only [checkElements, hk, List.nil_append]

/-- An element on this device whose pages have their keys is ready as it was checked (R364, R420). -/
theorem readyMove_local (h : Nat) (J : CopyJob) (p : LayoutPair) {m : CopyMove} {s : State} (hs : m.src.stale s = false)
    (hd : m.dst.stale s = false) (ps : m.src.peer = none) (pd : m.dst.peer = none) : readyMove h J p m s = .ok m s := by
  simp [readyMove, hs, hd, peerError, ps, pd]

/-- An element is poisoned when its source is or when the engine errs (R250). -/
def badElement (h ctx : Nat) (m : CopyMove) (s : State) : Bool := (engineError (coreOf h) ctx s).1 || poisonedLoc m.src s

/-- What an element that is moved writes, before its poison (R247). -/
def elementWritten (h ctx : Nat) (J : CopyJob) (m : CopyMove) (s : State) : State :=
  let t := (engineError (coreOf h) ctx s).2
  writeLoc (copyWho h J s) m.dst (readLoc m.src t) (fillLoc m.src t)

/-- What an element that is moved leaves, but for the tally of its hart (R247, R250). -/
def elementMoved (h ctx : Nat) (J : CopyJob) (m : CopyMove) (s : State) : State :=
  if badElement h ctx m s then poisonLoc m.dst (elementWritten h ctx J m s) else elementWritten h ctx J m s

theorem elementMoved_mm (h ctx : Nat) (J : CopyJob) (m : CopyMove) (s : State) : (elementMoved h ctx J m s).mm =
    if (engineError (coreOf h) ctx s).1 = true ∨ poisonedLoc m.src s = true
    then (poisonLoc m.dst (elementWritten h ctx J m s)).mm else (elementWritten h ctx J m s).mm := by
  simp only [elementMoved, badElement, Bool.or_eq_true, apply_ite State.mm]

/-- The log of an engine's error touches no poison. -/
theorem poisonedLoc_engineError (l : Loc) (core ctx : Nat) (s : State) :
    poisonedLoc l (engineError core ctx s).2 = poisonedLoc l s := by
  simp only [poisonedLoc, poisonedPart, engineError_mm]

/-- The first element of a copy is read and written on this device, where nothing disturbs it (R247, R250). -/
theorem moveElement_local {h : Nat} {J : CopyJob} {p : LayoutPair} {m : CopyMove} {s : State} (hu : s.undisturbed none)
    (ps : m.src.peer = none) (pd : m.dst.peer = none) (hw : J.written = []) :
    SameMemory (moveElement h J p m s).1 (elementMoved h (s.hart h).place.lctx.toNat J m s) := by
  have written (v : Nat) (t : State) (H : Hart) : SameMemory
      ((writeLoc (copyWho h J t) m.dst v (fillLoc m.src t)).setHart h H) (writeLoc (copyWho h J s) m.dst v (fillLoc m.src t)) :=
    sameMemory_trans (sameMemory_setHart _ _ _) (sameMemory_writeLoc (sameMemory_rfl _) rfl rfl _ _)
  simp only [moveElement, departConflicts_undisturbed hu, peerPoison, ps, hw, writeOut, pd, Option.isSome_none, Bool.false_eq_true,
    if_false, List.any_nil, Bool.false_or, poisonedLoc_engineError]
  unfold elementMoved badElement elementWritten
  dsimp only
  split
  · exact sameMemory_poisonLoc (written _ _ _) _
  · exact written _ _ _

/-- The element that is moved is the same from every state with the same memory, for every copy of the hart. -/
theorem sameMemory_elementMoved {s t : State} (e : SameMemory s t) (h c d : Nat) (J K : CopyJob) (m : CopyMove) :
    SameMemory (elementMoved h c J m s) (elementMoved h d K m t) := by
  obtain ⟨hb, hm⟩ := engineError_sameMemory e (coreOf h) c d
  have hw : SameMemory (elementWritten h c J m s) (elementWritten h d K m t) := by
    unfold elementWritten
    dsimp only
    rw [readLoc_sameMemory hm]
    exact sameMemory_writeLoc (sameMemory_fillLoc hm _) rfl rfl _ _
  have he : badElement h c m s = badElement h d m t := by rw [badElement, badElement, hb, poisonedLoc_sameMemory e]
  unfold elementMoved
  rw [he]
  split
  · exact sameMemory_poisonLoc hw _
  · exact hw

/-! ## The element at the watermark -/

theorem cfgSize_pos (cfg : Word) : 0 < cfgSize cfg := Nat.two_pow_pos _

/-- The watermark moves over the one element that has been written. -/
theorem contiguous_one (j : Nat) : contiguous (ninsert [] j) (ninsert [] j).length j = j + 1 := by
  simp [ninsert, contiguous]

theorem stale_setHart (l : Loc) (s : State) (h : Nat) (H : Hart) : l.stale (s.setHart h H) = l.stale s := rfl

/-- The copy once one more of its elements has passed its checks. -/
def checkedJob (J : CopyJob) (m : CopyMove) : CopyJob := { J with checked := J.checked + 1, moves := J.moves ++ [m] }

/-- The copy at the head of a channel is replaced, and its watermark set. -/
def putMark (h c : Nat) (J : CopyJob) (wm : Nat) (s : State) : State :=
  let H := (s.hart h).setHead c J
  s.setHart h (H.setChan c { H.chan c with wm := wm })

theorem putMark_wm (h : Nat) {c : Nat} (J : CopyJob) (wm : Nat) (s : State) (hc : c < 32) :
    (((putMark h c J wm s).hart h).chan c).wm = wm := by
  rw [putMark, State.setHart_hart, setChan_chan _ _ hc]

theorem setHead_loop (H : Hart) (c : Nat) (J : CopyJob) : (H.setHead c J).loop = H.loop := by
  unfold Hart.setHead Hart.setChan; dsimp only; split <;> rfl

/-- Element j of the copy J that runs at the head of a channel is its next: it stands at the watermark with no other in flight,
waits for no older command (R257), and its checks in s pass as m, on this device and with the keys of its pages, leaving s1. -/
structure NextElement (s s1 : State) (h c j : Nat) (J : CopyJob) (p : LayoutPair) (m : CopyMove) : Prop where
  head : ∃ rest, ((s.hart h).chan c).copies = J :: rest
  runs : J.layouts = some p
  unfaulted : ((s.hart h).chan c).flt = false
  within : j < layoutCount p.dst
  mark : ((s.hart h).chan c).wm = j * cfgSize J.cfg
  checked : J.checked = j
  moves : J.moves = []
  written : J.written = []
  srcFree : waitsFor (olderExtents (coreOf h) J.accept s) (.at (layoutAddr J.src p.src j) (cfgSize J.cfg) false) = false
  dstFree : waitsFor (olderExtents (coreOf h) J.accept s) (.at (layoutAddr J.dst p.dst j) (cfgSize J.cfg) true) = false
  passes : checkElement h J p j s = .ok m s1
  srcKey : m.src.stale s1 = false
  dstKey : m.dst.stale s1 = false
  srcHere : m.src.peer = none
  dstHere : m.dst.peer = none

section
variable {s s1 : State} {h c j : Nat} {J : CopyJob} {p : LayoutPair} {m : CopyMove} (E : NextElement s s1 h c j J p m)
include E

/-- The next element of a copy is checked, moved and counted (R247, R249). -/
theorem copyStep_moves : ∃ K, copyStep h c j s = putMark h c K ((j + 1) * cfgSize J.cfg)
    (moveElement h (checkedJob J m) p m (s1.setHart h ((s1.hart h).setHead c (checkedJob J m)))).1 := by
  obtain ⟨⟨rest, hC⟩, hl, hf, hj, hwm, hch, hm, hw, wr, ww, hk, ss, sd, ps, pd⟩ := E
  have hone : j + 1 - j = 1 := by omega
  have hdiv : j * cfgSize J.cfg / cfgSize J.cfg = j := Nat.mul_div_cancel _ (cfgSize_pos _)
  have hfind : [m].find? (fun n => n.j == j) = some m := by simp [checkElement_index hk]
  cases J
  dsimp only at hl hch hm hw hwm hdiv wr ww
  subst hl hch hm hw
  simp only [copyStep, hC, hf, hwm, wr, ww, hone, hdiv, checkElements_one hk, hfind, contiguous_one, readyMove_local, stale_setHart,
    ss, sd, ps, pd, Nat.not_le.mpr hj, Nat.lt_irrefl, List.nil_append, List.contains_nil, decide_false, bne_self_eq_false,
    Bool.or_false, Bool.and_false, Bool.false_eq_true, if_false]
  exact ⟨_, rfl⟩

/-- Undisturbed, the move is the one that the state after the checks calls for, whatever context an error is logged in (R250). -/
theorem copyElement_moves (hc : c < 32) (ha : s.assistOf (copyAgent h c) = none) (hu : s1.undisturbed none) (ctx : Nat) :
    ∃ t, exec (.copyElement h c j) s = .next t ∧ ((t.hart h).chan c).wm = (j + 1) * cfgSize J.cfg ∧
      t.mm = (elementMoved h ctx J m s1).mm := by
  obtain ⟨K, hK⟩ := copyStep_moves E
  have moved := moveElement_local (h := h) (J := checkedJob J m) (p := p)
    (undisturbed_setHart hu (setHead_loop (s1.hart h) c (checkedJob J m))) E.srcHere E.dstHere E.written
  have same := sameMemory_elementMoved (sameMemory_setHart s1 h ((s1.hart h).setHead c (checkedJob J m))) h
  refine ⟨copyStep h c j s, congrArg Host.Outcome.next (serveHost_none ha _ _ _), ?_, ?_⟩
  · rw [hK]
    exact putMark_wm h K _ _ hc
  · rw [hK]
    exact moved.mm.trans (same _ ctx _ J m).mm

end

/-! ## Completion -/

section
variable {s : State} {h c : Nat} {J : CopyJob} {rest : List CopyJob} {p : LayoutPair}
  (hC : ((s.hart h).chan c).copies = J :: rest) (hl : J.layouts = some p)
  (hf : ((s.hart h).chan c).flt = false) (hwm : ((s.hart h).chan c).wm = layoutCount p.dst * cfgSize J.cfg)
include hC hl hf hwm

/-- The copy at the head of a channel leaves, and the channel keeps whether it met an error (R249, R256). -/
def copyDone (h c : Nat) (J : CopyJob) (rest : List CopyJob) (t : State) : State :=
  t.setHart h ((t.hart h).setChan c { (t.hart h).chan c with copies := rest, err := J.poisoned })

/-- A copy without an arrival word leaves once its elements are written (R248). -/
theorem completeCopy_leaves (h0 : J.arrive = 0) : completeCopy h c s = copyDone h c J rest s := by
  simp only [completeCopy, hC, hl]
  rw [if_neg (by simp [hf, hwm]), if_pos h0]
  rfl

/-- One with an arrival word increments it first (R248). -/
theorem completeCopy_arrives {l : Loc} {s1 : State} (h0 : J.arrive ≠ 0)
    (hk : accessBy (copyWho h J s) J.arrive.toNat 8 .write s = .ok l s1) : completeCopy h c s = copyDone h c J rest
      (writeLoc (copyWho h J s) l (arrivalValue (readLoc l s1) J.poisoned) s1) := by
  simp only [completeCopy, hC, hl]
  rw [if_neg (by simp [hf, hwm]), if_neg h0, hk]
  rfl

end

end Sys2Proof.Copies
end

section
/-!
SUPPORT. The acceptance of a copy: what is performed and looked up before it leaves the channels of the hart as they were
(R213, R246, R386).
-/
namespace Sys2Proof.Copies
open Sys2Proof.Machine

/-! ## Performing what is older (R120, R246) -/

/-- What keeps a hart but for its L1 and its vector accesses keeps its channels. -/
theorem chans_of_keeps {h : Nat} {s t : State} (k : State.keeps h s t) : (t.hart h).chans = (s.hart h).chans := by
  obtain ⟨l, v, e⟩ := k
  rw [e]

theorem performAt_chans (h n : Nat) (p : PendingLoad) (s : State) : ((performAt h n p s).hart h).chans = (s.hart h).chans := by
  unfold performAt
  dsimp only
  split
  · rw [State.setHart_hart]
    exact (chans_of_keeps (keeps_writeLoc h _ _ _ _)).trans (congrArg Hart.chans (departLoc_own ..))
  · rw [State.setHart_hart]
    show ((departLoc (some h) p.loc _ s).hart h).chans = _
    rw [departLoc_own]

theorem forceLoads_chans (h : Nat) (f : PendingLoad → Bool) (s : State) :
    ((forceLoads h f s).hart h).chans = (s.hart h).chans := by
  have key (m n : Nat) (s : State) : ((forceFrom h f m n s).hart h).chans = (s.hart h).chans := by
    induction m generalizing n s with
    | zero => rfl
    | succ m ih =>
      unfold forceFrom
      split
      · rfl
      split
      · rw [ih, performAt_chans]
      · exact ih _ _
  exact key _ _ s

/-! ## Looking up a page (R213, R214, R217) -/

theorem keeps_walkAccess (g : Nat) (own : Option Nat) (k n : Nat) (w : Bool) (s : State) :
    State.keeps g s (walkAccess own k n w s) := by
  refine State.keeps_of_hart ?_
  unfold walkAccess holdBanks
  split <;> rfl

theorem keeps_entryRead (g : Nat) (own : Option Nat) (addr : Nat) (s : State) : State.keeps g s (entryRead own addr s) := by
  unfold entryRead
  refine State.keeps_trans (keeps_walkAccess g own addr 8 false s) ?_
  split
  · refine keeps_onLines g _ (fun ln t => ?_) _ _ _
    unfold readLine
    dsimp only
    split
    · exact State.keeps_rfl g t
    · exact keeps_putLine g _ _ _
  · exact State.keeps_rfl g _

theorem pointerEntry_hart (q ctx level va table : Nat) (s : State) (g : Nat) :
    (pointerEntry q ctx level va table s).2.hart g = s.hart g := by
  unfold pointerEntry
  dsimp only
  split
  · split <;> rfl
  · rfl

/-- A walk changes no hart but for its L1. -/
theorem keeps_walkFrom (g : Nat) (w : Who) (va level table : Nat) (s : State) :
    State.keeps g s (walkFrom w va level table s).2 := by
  induction level generalizing table s with
  | zero =>
    unfold walkFrom
    dsimp only
    split
    · exact keeps_entryRead g _ _ s
    split <;> exact keeps_entryRead g _ _ s
  | succ level ih =>
    have read := State.keeps_trans (keeps_entryRead g w.hart (table + 8 * vaIndex (level + 1) va) s) (State.keeps_of_hart
      (pointerEntry_hart (quarterOf w.core) w.ctx (level + 1) va table _ g))
    unfold walkFrom
    dsimp only
    split
    · exact State.keeps_trans read (State.keeps_of_hart rfl)
    split
    · exact State.keeps_trans read (State.keeps_of_hart rfl)
    split
    · exact read
    · refine State.keeps_trans ?_ (ih _ _)
      exact State.keeps_trans read (State.keeps_of_hart rfl)

theorem pickLeaf_hart (r : Walk) (l : List TlbEntry) (s : State) (g : Nat) : (pickLeaf r l s).2.hart g = s.hart g := by
  induction l generalizing s with
  | nil => rfl
  | cons c l ih =>
    unfold pickLeaf drawBool
    dsimp only
    split
    · rfl
    split
    · rfl
    · exact ih _

theorem tlbKeep_hart (place ctx va : Nat) (p : BitVec 64) (addr : Nat) (s : State) (g : Nat) :
    (tlbKeep place ctx va p addr s).hart g = s.hart g := by
  unfold tlbKeep
  dsimp only
  split <;> rfl

/-- Where an operation that may fault ends, whichever way. -/
def endState {α : Type} : Res α → State
  | .ok _ t => t
  | .trap _ _ t => t

theorem keeps_findLeaf (g : Nat) (w : Who) (kind : Acc) (va root : Nat) (s : State) :
    State.keeps g s (endState (findLeaf w kind va root s)) := by
  have walked : State.keeps g s (pickLeaf (walkFrom w va 4 root s).1 (tlbFind w kind va s.mm) (walkFrom w va 4 root s).2).2 :=
    State.keeps_trans (keeps_walkFrom g w va 4 root s) (State.keeps_of_hart (pickLeaf_hart _ _ _ g))
  unfold findLeaf
  dsimp only
  split
  · rename_i hp
    split
    · exact State.keeps_of_hart rfl
    · exact State.keeps_of_hart (tlbKeep_hart ..)
  · rename_i s2 hp
    rw [hp] at walked
    split
    · exact State.keeps_trans walked (State.keeps_of_hart ((tlbKeep_hart ..).trans (tlbKeep_hart ..)))
    · exact State.keeps_trans walked (State.keeps_of_hart rfl)
    · exact State.keeps_trans walked (State.keeps_of_hart (logError_hart ..))

theorem keeps_ctxEntry (g : Nat) (own : Option Nat) (ctx : Nat) (s : State) : State.keeps g s (ctxEntry own ctx s).2 := by
  unfold ctxEntry
  split
  · exact State.keeps_rfl g s
  · exact State.keeps_trans (keeps_walkAccess g own _ 32 false s) (State.keeps_of_hart rfl)

/-- An agent without a hart of its own looks a page up without changing a hart, but for its L1. -/
theorem keeps_findPage {w : Who} (hw : w.hart = none) (g va : Nat) (kind : Acc) (s : State) :
    State.keeps g s (endState (findPage w va kind s)) := by
  have leaf (root : Nat) (t : State) : leafFor w kind va root t = findLeaf w kind va root t := by
    unfold leafFor
    rw [hw]
    cases w.side <;> rfl
  unfold findPage
  dsimp only
  rw [leaf]
  split
  · have found := State.keeps_trans (keeps_ctxEntry g w.hart w.ctx s)
      (keeps_findLeaf g w kind va (ebits (ctxEntry w.hart w.ctx s).1 12 40 * 4096) _)
    split <;> rename_i hf <;> rw [hf] at found <;> exact found
  · exact keeps_ctxEntry g _ _ s

/-! ## The checks at acceptance (R251, R386) -/

theorem keeps_onHostPage {w : Who} (hw : w.hart = none) (g : Nat) (l : List Nat) (s : State) :
    State.keeps g s (onHostPage w l s).2 := by
  induction l generalizing s with
  | nil => exact State.keeps_rfl g s
  | cons a l ih =>
    have found := keeps_findPage hw g a .write s
    unfold onHostPage
    split
    · split <;> rename_i hf <;> rw [hf] at found
      · exact State.keeps_trans found (ih _)
      · split
        · exact found
        · exact State.keeps_trans found (ih _)
    · exact ih s

theorem keeps_acceptFault (h : Nat) (J : CopyJob) (pair : Option LayoutPair) (s : State) :
    State.keeps h s (acceptFault h J pair s).2 := by
  unfold acceptFault
  split
  · exact State.keeps_rfl h s
  · rename_i p
    have page := keeps_onHostPage (w := copyWho h J s) rfl h
      ((List.range (layoutCount p.dst)).map (layoutAddr J.dst p.dst)) s
    split
    · exact State.keeps_rfl h s
    split
    · split <;> rename_i hp <;> rw [hp] at page <;> exact page
    · exact State.keeps_rfl h s

/-! ## The acceptance (R246, R249) -/

/-- A copy as it is accepted with number n; one that was kept goes on at the watermark of its channel (R246, R249). -/
def acceptedJob (C : Channel) (J : CopyJob) (p : LayoutPair) (n : Nat) : CopyJob :=
  { J with layouts := some p, accept := n, checked := if J.kept then C.wm / cfgSize J.cfg else 0 }

/-- The hart whose copy has been accepted, before its bindings learn of it. -/
def acceptedHart (H : Hart) (c : Nat) (J K : CopyJob) : Hart :=
  let G := H.setHead c K
  if J.kept then G else G.setChan c { G.chan c with wm := 0 }

theorem addPart_chan (H : Hart) (c : Nat) (J : CopyJob) (p : LayoutPair) (core : Nat) (d : Nat) :
    (H.addPart c J p core).chan d = H.chan d := rfl

theorem acceptedHart_chan (H : Hart) {c : Nat} (J K : CopyJob) (hc : c < 32) : (acceptedHart H c J K).chan c =
    { H.chan c with copies := K :: (H.chan c).copies.drop 1, wm := if J.kept then (H.chan c).wm else 0 } := by
  unfold acceptedHart Hart.setHead
  dsimp only
  split <;> simp only [setChan_chan _ _ hc]

/-- A copy whose turn has come and that passes the checks is accepted with its pair (R246, R251). -/
theorem acceptCopy_accepts {s s2 : State} {h c : Nat} {J : CopyJob} {rest : List CopyJob} {p : LayoutPair}
    (hC : ((s.hart h).chan c).copies = J :: rest) (hm : (s.hart h).mayAccept ((s.hart h).chan c) J = true)
    (hp : J.taken.getD ((s.hart h).chan c).layouts = some p)
    (hf : acceptFault h J (some p) (forceEntries h J.ticket (forceOlder h J.older s)) = (none, s2)) :
    let K := acceptedJob ((s.hart h).chan c) J p (s2.core (coreOf h)).accept
    ∃ (t : State) (core : Nat), acceptCopy h c s = t.setHart h ((acceptedHart (s2.hart h) c J K).addPart c J p core) ∧ t.mm = s2.mm := by
  intro K
  refine ⟨(acceptAt (coreOf h) s2).2, (copyTarget h J (acceptAt (coreOf h) s2).2).core, ?_, rfl⟩
  simp only [acceptCopy, hC, hm, hp, hf, Bool.not_true, Bool.false_eq_true, if_false]
  rfl

/-- What is performed and looked up for an acceptance leaves the channels of the hart alone. -/
theorem acceptFault_chan {s s2 : State} {h : Nat} {J : CopyJob} {pair : Option LayoutPair}
    (hf : acceptFault h J pair (forceEntries h J.ticket (forceOlder h J.older s)) = (none, s2)) (c : Nat) :
    (s2.hart h).chan c = (s.hart h).chan c := by
  have checked := keeps_acceptFault h J pair (forceEntries h J.ticket (forceOlder h J.older s))
  rw [hf] at checked
  have kept : (s2.hart h).chans = (s.hart h).chans :=
    calc (s2.hart h).chans
      _ = ((forceEntries h J.ticket (forceOlder h J.older s)).hart h).chans := chans_of_keeps checked
      _ = ((forceOlder h J.older s).hart h).chans := chans_of_keeps (keeps_forceVaccs h _ _)
      _ = (s.hart h).chans := forceLoads_chans h _ s
  rw [Hart.chan, Hart.chan, kept]

/-- Settles O36: acceptance keeps the channel it found, the next element is moved, and a finished copy arrives and leaves. -/
theorem copyEngineMoves : Obligations.CopyEngineMoves := by
  intro s h c J rest H C hC
  refine ⟨?_, ?_, ?_⟩
  · intro p hm hp s1 s2 hf
    obtain ⟨t, core, he, ht⟩ := acceptCopy_accepts hC hm hp hf
    refine ⟨_, acceptedJob C J p (s2.core (coreOf h)).accept, congrArg Host.Outcome.next he, ht, ?_⟩
    rw [State.setHart_hart, addPart_chan, acceptedHart_chan _ _ _ c.isLt, acceptFault_chan hf]
    refine ⟨by rw [hC]; rfl, rfl, rfl, rfl, fun hk => ⟨?_, ?_⟩⟩
    · simp only [hk, Bool.false_eq_true, if_false]
    · simp only [acceptedJob, hk, Bool.false_eq_true, if_false]
  · intro p m s1 j hl ha hf hj hwm hch hm hw wr ww hk ss sd ps pd hu e s2
    have E : NextElement s s1 h c j J p m := ⟨⟨rest, hC⟩, hl, hf, hj, hwm, hch, hm, hw, wr, ww, hk, ss, sd, ps, pd⟩
    obtain ⟨t, he, ht, hmm⟩ := copyElement_moves E c.isLt ha hu H.place.lctx.toNat
    exact ⟨t, he, ht, hmm.trans (elementMoved_mm h _ J m s1)⟩
  · intro p hl ha hf hwm done
    have goes : exec (.copyComplete h c) s = .next (completeCopy h c s) := congrArg Host.Outcome.next (serveHost_none ha _ _ _)
    exact ⟨fun h0 => goes.trans (congrArg _ (completeCopy_leaves hC hl hf hwm h0)),
      fun l s1 h0 hk => goes.trans (congrArg _ (completeCopy_arrives hC hl hf hwm h0 hk))⟩

end Sys2Proof.Copies
end

section
/-!
SUPPORT. Tile tasks: posting a record, asking for a task and cancelling it, and the turns of the scheduler (R290 to R310).
-/
namespace Sys2Proof.Tasks
open Sys2Proof.Machine

/-- An array whose bit 0 is set has its events enabled (R314). -/
theorem bits_enable_ne_zero {w : Nat} {v : BitVec w} (h : v.getLsbD 0 = true) : bits v 0 1 ≠ 0 := by
  intro h0
  have hb := VectorStream.bits_testBit v 0 1 0
  rw [h0] at hb
  simp [h] at hb

/-! ## tk.post (R302, R303, R308) -/

/-- A task with its waits entered, as it joins the table of a quarter: with an edge from each task it must follow (R302, R303). -/
def joined (T : Task) (ws : List (Nat × Nat × Nat × Nat)) (Q : Scheduler) : Task :=
  { T with
    w0 := !ws.any (fun w => w.2.1 == 0), w1 := !ws.any (fun w => w.2.1 == 1)
    edges := (Q.tasks.filter (fun U => T.edgeFrom U)).map (fun U => U.seq) }

/-- A checked task whose waits are entered and for which there is room joins the table, and its handle is the answer. -/
theorem enterTask_joins {h : Nat} {T : Task} {ws : List (Nat × Nat × Nat × Nat)} {s s1 : State} (d : BitVec 5)
    (hr : (s.scheduler (quarterOf (coreOf h))).tasks.length < 4096)
    (hw : enterTaskWaiters (quarterOf (coreOf h)) T.seq ws s = .ok s1) :
    let q := quarterOf (coreOf h)
    let Q := s1.scheduler q
    enterTask h d T ws s = answer h d (BitVec.ofNat 64 (q * 2 ^ 32 + T.seq))
      (s1.setScheduler q { Q with tasks := Q.tasks ++ [joined T ws Q], seq := Q.seq + 1 }) := by
  unfold enterTask
  simp only [hw]
  rw [if_neg (Nat.not_le.mpr hr)]
  rfl

/-- A record that is read, passes its checks and can reach its events is entered. -/
theorem postTask_enters {h n : Nat} {a : Word} {s s1 s2 : State} {ws : List (Nat × Nat × Nat × Nat)} (d : BitVec 5)
    (hc : (s.hart h).copyStalls (fun _ => true) a.toNat 128 = false) :
    let s0 := forceDone h (fun _ => true) (forceLoads h (fun _ => true) s)
    let T := newTask h (BitVec.ofNat 1024 n) s1
    readAt (s0.who h) a.toNat 128 s0 = .ok n s1 →
    firstFail (T.checks (s1.launchOf h) (quarterOf (coreOf h)) s1.reduced) = none →
    (T.events = [] ∨ T.evbase.getLsbD 0 = true) → testEvents (coreOf h) T T.events [] s1 = .ok ws s2 →
    postTask h d a s = enterTask h d T ws s2 := by
  intro s0 T hrd hck hev ht
  have he : (!T.events.isEmpty && bits T.evbase 0 1 == 0) = false := by
    rcases hev with h0 | h1
    · simp [h0]
    · simp [bits_enable_ne_zero h1]
  unfold postTask
  simp only [hc, Bool.false_eq_true, if_false]
  rw [hrd]
  dsimp only
  rw [hck]
  dsimp only
  rw [he, ht]
  rfl

/-! ## tk.stat and tk.cancel (R309, R310) -/

/-- The gate of an instruction that reads s[a] and answers in s[d] is open when both are full. -/
theorem answerGate_go {H : Hart} (x : BitVec 1) {a d : BitVec 5} (hf : H.full [a, d] []) : (H.srcS a x).and (H.dstS d) = .go :=
  Copies.and_go (Hart.srcS_go H a x (hf.1 a (by simp))) (Hart.dstS_go H d (hf.1 d (by simp)))

section
variable {s : State} {h : Nat} (ha : s.agent = .scalar h) (hs : (s.hart h).settled = true) (x : BitVec 1) {a d : BitVec 5}
  (hf : (s.hart h).full [a, d] [])
include ha hs hf

/-- A handle that names no task of the context answers all ones to either question. -/
theorem unknownTask_answers (hn : findTask ((s.hart h).regs.readS a) (s.hart h).place.lctx.toNat s = none) :
    exec (.tkStat x a d) s = .next (answer h d (BitVec.allOnes 64) s) ∧
      exec (.tkCancel x a d) s = .next (answer h d (BitVec.allOnes 64) s) :=
  ⟨Copies.command_performs ha hs rfl (answerGate_go x hf) (by dsimp only; rw [hn]),
    Copies.command_performs ha hs rfl (answerGate_go x hf) (by dsimp only; rw [hn])⟩

variable {T : Task} {live : Bool}
  (ht : findTask ((s.hart h).regs.readS a) (s.hart h).place.lctx.toNat s = some (T, live))
include ht

theorem tkStat_answers : exec (.tkStat x a d) s = .next (answer h d (T.status live) s) :=
  Copies.command_performs ha hs rfl (answerGate_go x hf) (by dsimp only; rw [ht])

theorem tkCancel_answers : exec (.tkCancel x a d) s = .next
    (if live && !T.issued then answer h d 1 (cancelTask (((s.hart h).regs.readS a).toNat / 2 ^ 32) T s) else answer h d 0 s) :=
  Copies.command_performs ha hs rfl (answerGate_go x hf) (by dsimp only; rw [ht])

end

/-- The commands of harts (R302, R303, R308 to R310). -/
theorem taskCommands : Claims.TaskCommands := by
  intro s h x a d ha hs hf
  refine ⟨?post, unknownTask_answers ha hs x hf, fun T live ht => ⟨tkStat_answers ha hs x hf ht, ?cancels, ?refuses⟩⟩
  case post =>
    intro hl hal ho hc n s1 ws s2 s3 s0 T hrd hck hev ht hr hw
    refine Copies.command_performs ha hs rfl (Copies.and_go (Hart.srcS_go _ a x (hf.1 a (by simp))) <|
      Copies.and_go (Hart.dstS_go _ d (hf.1 d (by simp))) <| Copies.and_go (Gate.until_go (bne_iff_ne.mpr hl)) <|
      Copies.and_go (Gate.need_go (beq_iff_eq.mpr hal) _ _) (Gate.until_go (by rw [ho]; rfl))) ?_
    exact (postTask_enters d hc hrd hck hev ht).trans (enterTask_joins d hr hw)
  case cancels =>
    rintro rfl hi
    rw [tkCancel_answers ha hs x hf ht, hi]
    rfl
  case refuses =>
    intro hn
    have hb : (live && !T.issued) = false := by rcases hn with rfl | hi <;> simp [*]
    rw [tkCancel_answers ha hs x hf ht, hb]
    rfl

/-! ## The scheduler (R300, R304) -/

/-- Where no ready task may be issued, a free engine stays free. -/
theorem issueTask_idle {core k : Nat} {s : State} (hb : engineBusy core k s = false) (hn : chooseTask core k s = none) :
    issueTask core k s = s := by
  simp only [issueTask, hb, hn, Bool.false_eq_true, if_false]

/-- A free engine takes the chosen task: its spans translated, with the next acceptance number of the core (R257, R296). -/
theorem issueTask_takes {core k : Nat} {s s2 : State} {T : Task} {o : Nat × Nat} {ps : List (Nat × Loc)}
    (hb : engineBusy core k s = false) (hc : chooseTask core k s = some (T, o))
    (ha : s.assistOf (taskAgent (quarterOf core) T.seq) = none) :
    let q := quarterOf core
    let T1 := { T with core := core }
    translateSpans T1.who T1.spans []
      (s.setScheduler q { s.scheduler q with turn := some o.1, taken := o.2 }) = .ok ps s2 →
    issueTask core k s = putTask q { T1 with issued := true, pages := ps, accept := (s2.core core).accept }
      (s2.setCore core { s2.core core with accept := (s2.core core).accept + 1 }) := by
  intro q T1 ht
  have ha' : (s.setScheduler q { s.scheduler q with turn := some o.1, taken := o.2 }).assistOf (taskAgent q T.seq) = none := by
    rw [State.assistOf, State.setScheduler_trust]; exact ha
  simp only [issueTask, hb, hc, Bool.false_eq_true, if_false]
  rw [Copies.serveHost_none ha', ht]
  rfl

/-- An issued task that no older command holds up and whose keys stand is performed, arrives, signals and leaves (R300). -/
theorem completeTask_performs {q n : Nat} {s : State} {T : Task} (hT : (s.scheduler q).tasks[n]? = some T)
    (hi : T.issued = true) (hf : T.flt = false) (hk : T.staleKey s = false)
    (hw : ∀ x ∈ T.extents, waitsFor (olderExtents T.core T.accept s) x = false) :
    let R := runTask T s
    let T1 := { T with issued := true, err := R.bad, flags := R.fl.vst }
    completeTask q n s = finishEndings (taskSignal T1 (taskArrive T1 R.bad
      (R.st.setScheduler q ((R.st.scheduler q).retire T1)))) := by
  have hx : T.extents.any (waitsFor (olderExtents T.core T.accept s)) = false := List.any_eq_false.mpr fun x m => by simp [hw x m]
  unfold completeTask
  rw [hT]
  dsimp only
  rw [if_neg (by simp [hi, hf, hx]), hk]
  rfl

/-- A ready task of a context that is not held ages by one level, up to seven (R304). -/
theorem taskAging_ages {q n : Nat} {s : State} {T : Task} (hT : (s.scheduler q).tasks[n]? = some T) (hr : T.ready = true)
    (hi : T.issued = false) (hk : (s.scheduler q).tkage ≠ 0) (hh : (s.scheduler q).holds.contains T.ctx = false) :
    exec (.taskAging q n) s = .next (putTask q { T with age := min 7 (T.age + 1) } s) := by
  show execTaskAging q n s = _
  simp only [execTaskAging, hT, hr, hi, hh, bne_iff_ne.mpr hk, Bool.not_false, Bool.and_true, if_true]

/-- The turns of the scheduler (R300, R304). -/
theorem tasksRun : Claims.TasksRun := by
  refine ⟨fun s core k hb => ⟨?idle, ?takes⟩, ?performs, fun s q n T => taskAging_ages⟩
  case idle => exact fun hn => congrArg Host.Outcome.next (issueTask_idle hb hn)
  case takes =>
    intro T o ps s2 hc ha T1 ht
    exact congrArg Host.Outcome.next (issueTask_takes hb hc ha ht)
  case performs => exact fun s q n T hT hi hf hk hw => congrArg Host.Outcome.next (completeTask_performs hT hi hf hk hw)

/-- Settles O38: the commands of harts, and the turns of the scheduler. -/
theorem tasksComplete : Obligations.TasksComplete := ⟨taskCommands, tasksRun⟩

end Sys2Proof.Tasks
end

section
/-!
SUPPORT. Named events: what an event instruction does at a count it can reach, and the update of a count (R306, R311 to R313).
-/
namespace Sys2Proof.Tasks
open Sys2Proof.Machine

/-- The gate of an instruction that reads s[a] and s[b] and answers in s[d] is open when the three are full. -/
theorem answerGateTwo_go {H : Hart} (y x : BitVec 1) {b a d : BitVec 5} (hf : H.full [a, b, d] []) :
    (H.srcS a x).and ((H.srcS b y).and (H.dstS d)) = .go :=
  Copies.and_go (Hart.srcS_go H a x (hf.1 a (by simp))) <|
    Copies.and_go (Hart.srcS_go H b y (hf.1 b (by simp))) (Hart.dstS_go H d (hf.1 d (by simp)))

section
variable {s s1 : State} {h : Nat} {a : BitVec 5} {l : Loc}
  (he : (s.eventBase (s.hart h).place.lctx.toNat).getLsbD 0 = true)
  (hr : reachCount (coreOf h) (s.hart h).place.lctx.toNat (s.eventBase (s.hart h).place.lctx.toNat)
    (bits ((s.hart h).regs.readS a) 0 16) s = .ok l s1)
include he hr

/-- With its events enabled and its count reached, an event instruction goes on to its own effect. -/
theorem eventOp_reaches (k : Loc → State → State) : eventOp h ((s.hart h).regs.readS a) s k = k l s1 := by
  simp only [eventOp, hr]
  rw [if_neg (bits_enable_ne_zero he)]

variable (ha : s.agent = .scalar h) (hs : (s.hart h).settled = true) (d : BitVec 5)
include ha hs

/-- ev.sig and ev.set note an update with the place of the hart's older accesses, and empty their destination (R311). -/
theorem eventUpdate_notes {i : Instr} {word : Nat} {set : Bool} {gate : Hart → Gate} {amount : Hart → Nat}
    (hi : exec i s = .next (eventUpdate word set gate amount a d s)) (hg : (gate (s.hart h)).and ((s.hart h).dstS d) = .go) :
    let K := s1.hart h
    exec i s = .next (s1.moved h { K.markS d with
      updates := K.updates ++ [⟨l, set, amount (s.hart h), d, K.position, K.nextId⟩] }) :=
  Copies.command_performs ha hs hi hg (eventOp_reaches he hr _)

/-- ev.rd answers the count, once the replays that hold it have departed (R286, R313). -/
theorem evRd_answers (x : BitVec 1) (hf : (s.hart h).full [a, d] []) :
    let s2 := departConflicts none l.key 4 false s1
    exec (.evRd x a d) s = .next (answer h d (BitVec.ofNat 64 (readLoc l s2)) s2) :=
  Copies.command_performs ha hs rfl (answerGate_go x hf) (eventOp_reaches he hr _)

section
variable (y x : BitVec 1) {b : BitVec 5} (hf : (s.hart h).full [a, b, d] []) (hw : (s.hart h).status ≠ .waiting .event)
include he hr ha hs hf hw

/-- A count that meets the target is the answer of ev.wait at once (R312). -/
theorem evWait_answers (hv : bits ((s.hart h).regs.readS b) 0 32 ≤ readLoc l (departConflicts none l.key 4 false s1)) :
    let s2 := departConflicts none l.key 4 false s1
    exec (.evWait y x b a d) s = .next (answer h d (BitVec.ofNat 64 (readLoc l s2)) s2) :=
  Copies.command_performs ha hs rfl (answerGateTwo_go y x hf)
    ((if_neg hw).trans <| (eventOp_reaches he hr _).trans (if_pos hv))

/-- A count below the target leaves the hart at the event, with a waiter entered for it (R307, R312). -/
theorem evWait_waits {s3 : State} (hv : readLoc l (departConflicts none l.key 4 false s1) < bits ((s.hart h).regs.readS b) 0 32)
    (hE : enterWaiter ⟨l.key, bits ((s.hart h).regs.readS b) 0 32, some h, d, none, false⟩
      (departConflicts none l.key 4 false s1) = some s3) :
    exec (.evWait y x b a d) s = .next (s3.setHart h { s3.hart h with status := .waiting .event }) :=
  Copies.command_performs ha hs rfl (answerGateTwo_go y x hf)
    ((if_neg hw).trans <| (eventOp_reaches he hr _).trans <| (if_neg (Nat.not_le.mpr hv)).trans (by dsimp only [readCount]; rw [hE]))

end

end

/-- An update that is due, with none older of its count, is made: its destination takes the old count (R311). -/
theorem eventUpdateApply_updates {s : State} {h n : Nat} {u : EventUpdate} (hu : (s.hart h).updates[n]? = some u)
    (ht : (s.hart h).reached u.ticket = true) (ho : (s.hart h).owesOlder u.older = false)
    (hn : ∀ v ∈ (s.hart h).updates.take n, v.loc.key ≠ u.loc.key) :
    let s2 := departConflicts none u.loc.key 4 false (forceEntries h u.ticket (forceOlder h u.older s))
    let s3 := s2.setHart h (({ s2.hart h with updates := (s2.hart h).updates.eraseIdx n } : Hart).fillS none u.dst
      (BitVec.ofNat 64 (readLoc u.loc s2)))
    exec (.eventUpdateApply h n) s =
      .next (updateCount (s3.who h) u.loc (fun c => if u.set then u.amount else c + u.amount) s3) := by
  have hx : ((s.hart h).updates.take n).any (fun v => v.loc.key == u.loc.key) = false :=
    List.any_eq_false.mpr fun v m => by simp [hn v m]
  show execEventUpdateApply h n s = _
  simp only [execEventUpdateApply, hu, ht, ho, hx, Bool.not_true, Bool.or_false, Bool.false_eq_true, if_false, readCount]

/-- Settles O39: at a count that is reached each event instruction has its effect, and an update that is due is made. -/
theorem eventsComplete : Obligations.EventsComplete := by
  refine ⟨?_, fun s h n u => eventUpdateApply_updates⟩
  intro s h y x b a d l s1 ha hs hf he H hr K v note s2 n
  have hA : H.srcS a x = .go := Hart.srcS_go _ a x (hf.1 a (by simp))
  have hB : H.srcS b y = .go := Hart.srcS_go _ b y (hf.1 b (by simp))
  have hD : H.dstS d = .go := Hart.dstS_go _ d (hf.1 d (by simp))
  have hsub : [a, d] ⊆ [a, b, d] := List.cons_subset_cons a (List.subset_cons_self b [d])
  have hF : H.full [a, d] [] := ⟨fun r m => hf.1 r (hsub m), hf.2⟩
  refine ⟨?sig, ?set, evRd_answers he hr ha hs d x hF,
    fun hw => ⟨evWait_answers he hr ha hs d y x hf hw, fun s3 => evWait_waits he hr ha hs d y x hf hw⟩⟩
  case sig =>
    have hG : (if b = 0 then .go else H.srcS b y) = Gate.go := by rw [hB, ite_self]
    refine eventUpdate_notes he hr ha hs d (i := .evSig y x b a d) rfl ?_
    exact Copies.and_go (Copies.and_go hA hG) hD
  case set =>
    refine eventUpdate_notes he hr ha hs d (i := .evSet y x b a d) rfl ?_
    exact Copies.and_go (Copies.and_go hA hB) hD

end Sys2Proof.Tasks
end

section
/-!
SUPPORT. Groups: what a member's arrive and wait instructions do, and how a pending arrival leaves for the launch unit
(R326, R328).
-/
namespace Sys2Proof.Groups
open Sys2Proof.Machine

/-! ## The wait of a group (R328) -/

/-- With no arrival pending and none counted in the current generation the wait is over. -/
theorem groupWait_ends {s : State} {h i n : Nat} (hp : (s.hart h).pendAt i = none) (hn : s.hasArrived h n = false) :
    groupWait h i n s = s.moved h { s.hart h with group := { (s.hart h).group with sent := false } } := by
  simp only [groupWait, hp, hn, Option.isNone_none, Bool.not_false, Bool.and_self, if_true]
  rfl

/-- An arrival counted in the current generation is waited for. -/
theorem groupWait_waits {s : State} {h n : Nat} (i : Nat) (hn : s.hasArrived h n = true) :
    groupWait h i n s = s.setHart h { s.hart h with status := .waiting .group } := by
  simp only [groupWait, hn, Bool.not_true, Bool.and_false, Bool.false_eq_true, if_false]

/-! ## The instructions of a member (R328) -/

section
variable {s : State} {h i : Nat} {g : BitVec 8} (ha : s.agent = .scalar h) (hs : (s.hart h).settled = true)
  (hm : (s.hart h).membership g.toNat = some i)
include ha hs hm

/-- A settled member of the group comes to its own effect, at its membership. -/
theorem groupOp_member (word : Nat) (k : Nat → Nat → State) : groupOp word g s k = k h i := by
  simp only [groupOp, onScalar, ha, Hart.confirmed_go _ hs, gated, hm]

/-- gsync that has sent its arrival is the wait of its group. -/
theorem gsync_eq_groupWait (c : BitVec 3) (hd : (s.hart h).group.sent = true) :
    exec (.gsync c g) s = .next (groupWait h i g.toNat s) := by
  show execGsync c g s = _
  simp only [execGsync, groupOp_member ha hs hm, hd, if_true]

variable (hp : (s.hart h).pendAt i = none)
include hp

/-- garrive posts its arrival and goes on. -/
theorem garrive_posts (c : BitVec 3) :
    exec (.garrive c g) s = .next (s.moved h ((s.hart h).newArrival i c.toNat)) := by
  show execGarrive c g s = _
  simp only [execGarrive, groupOp_member ha hs hm, hp, Option.isSome_none, Bool.false_eq_true, if_false]
  rfl

/-- gwait with no earlier arrival pending is the wait of its group. -/
theorem gwait_eq_groupWait (c : BitVec 3) : exec (.gwait c g) s = .next (groupWait h i g.toNat s) := by
  show execGwait c g s = _
  simp only [execGwait, groupOp_member ha hs hm, hp, Option.isSome_none, Bool.false_eq_true, if_false]

/-- gsync whose arrival has not been sent, and which does not resume, posts it and waits. -/
theorem gsync_posts (c : BitVec 3) (hd : (s.hart h).group.sent = false) (hw : (s.hart h).group.wo = false) :
    let posted := (s.hart h).newArrival i c.toNat
    exec (.gsync c g) s = .next (s.setHart h
      { posted with group := { posted.group with sent := true }, status := .waiting .group }) := by
  show execGsync c g s = _
  simp only [execGsync, groupOp_member ha hs hm, hp, hd, hw, Option.isSome_none, Bool.false_eq_true, if_false]

end

/-! ## The sending of an arrival (R326, R328) -/

/-- A pending arrival whose older accesses are performed, or can be, is sent: the group counts it. -/
theorem groupArrivalSend_arrives {s : State} {h m : Nat} {p : PendArrival} {L : Launch} {G : Group}
    (hp : (s.hart h).pendAt m = some p) (hl : (s.hart h).trap.loaded = false) (ht : (s.hart h).reached p.ticket = true)
    (ho : (s.hart h).owes (fun q => decide (q.id < p.older)) = false) :
    let s1 := forceEntries h p.ticket (forceLoads h (fun q => decide (q.id < p.older)) s)
    let H1 := s1.hart h
    let g := bits H1.place.gmem (8 * m) 8
    s1.launchAt H1.place.launch = some L → tfind L.groups g = some G →
    exec (.groupArrivalSend h m) s = .next ((s1.setHart h (H1.setPend m none)).setLaunch H1.place.launch { L with
      groups := tput L.groups g (G.arrive H1.place.lvh.toNat) }) := by
  intro s1 H1 g hL hG
  have hL' : (s1.setHart h (H1.setPend m none)).launchAt H1.place.launch = some L := hL
  show execGroupArrivalSend h m s = _
  simp only [execGroupArrivalSend, hp, hl, ht, ho, Bool.not_false, Bool.and_self, if_true]
  rw [hL']
  dsimp only
  rw [hG]

/-- Settles O16: a member posts an arrival, waits by groupWait, and its pending arrival is sent once what it covers is
performed. -/
theorem groupsComplete : Obligations.GroupsComplete := by
  refine ⟨?_, fun s h m p L G => groupArrivalSend_arrives⟩
  intro s h i c g ha hs hm H posted
  refine ⟨fun hp => garrive_posts ha hs hm hp c, fun hp => gsync_posts ha hs hm hp c, fun hp hn => ?_, fun hp hn => ?_,
    fun hd hp hn => ?_⟩
  · rw [gwait_eq_groupWait ha hs hm hp, groupWait_ends hp hn]
  · rw [gwait_eq_groupWait ha hs hm hp, groupWait_waits i hn]
  · rw [gsync_eq_groupWait ha hs hm c hd, groupWait_ends hp hn]

end Sys2Proof.Groups
end
